-- ==== Sys2Proof/Word.lean ====
section
/-!
DEFINITION. Word.lean: the word types of the device and the plainest arithmetic on them.
Registers and addresses are 64 bits (R24, R122); instruction words and literals are 32 bits (R15); a group has 32
lanes in 8 slices of 4 (R122).
-/
namespace Sys2Proof

/-- A register value, an address, a counter: 64 bits. -/
abbrev Word := BitVec 64
/-- An instruction word, a literal, the mode register: 32 bits. -/
abbrev Word32 := BitVec 32
/-- One byte of memory. -/
abbrev Byte := BitVec 8
/-- A set of lanes of a group; bit l is lane l. -/
abbrev LaneMask := BitVec 32
/-- A set of lanes of a slice; bit n is lane n of the slice. -/
abbrev SliceMask := BitVec 4
/-- One value per lane, lane 0 first. A list shorter than 32 reads 0 beyond its end. -/
abbrev Lanes := List Word

/-- The word of a natural number, modulo 2^64. -/
abbrev word (n : Nat) : Word := BitVec.ofNat 64 n

/-- The bits [hi:lo] of a natural number. -/
def bitsOf (n hi lo : Nat) : Nat := n / 2 ^ lo % 2 ^ (hi + 1 - lo)

/-- Whether a number has a bit set in one of some ranges [hi:lo]: the reserved fields of a register, whose write is then ignored
(R5; DEDUCED, log 69). -/
def setsReserved (n : Nat) (ranges : List (Nat × Nat)) : Bool := ranges.any fun r => bitsOf n r.1 r.2 != 0

/-- The value of lane l. -/
def Lanes.at (v : Lanes) (l : Nat) : Word := v.getD l 0

/-- The lane numbers, ascending. -/
def laneIds : List Nat :=
  [0, 1, 2, 3, 4, 5, 6, 7, 8, 9, 10, 11, 12, 13, 14, 15, 16, 17, 18, 19, 20, 21, 22, 23, 24, 25, 26, 27, 28, 29, 30, 31]

/-- The slice numbers, ascending. -/
def sliceIds : List Nat := [0, 1, 2, 3, 4, 5, 6, 7]

/-- The lanes whose value a function gives. -/
def Lanes.of (f : Nat → Word) : Lanes := laneIds.map f

/-- The same value in every lane. -/
def Lanes.uniform (w : Word) : Lanes := Lanes.of fun _ => w

/-- The mask of the lanes that satisfy a test. -/
def maskOf (f : Nat → Bool) : LaneMask :=
  laneIds.foldl (fun m l => if f l then m ||| BitVec.ofNat 32 (2 ^ l) else m) 0

/-- The lanes of a mask, ascending. -/
def LaneMask.lanes (m : LaneMask) : List Nat := laneIds.filter fun l => m.getLsbD l

/-- The lowest lane of a mask, or 0. -/
def LaneMask.lowest (m : LaneMask) : Nat := (LaneMask.lanes m).headD 0

/-- The lanes of a slice mask, ascending. -/
def SliceMask.lanes (m : SliceMask) : List Nat := [0, 1, 2, 3].filter fun l => m.getLsbD l

end Sys2Proof
end

