-- ==== Sys2Proof/Config.lean ====
section
/-!
DEFINITION. Config.lean: what an implementation fixes and the free values, none of which has a body that a proof could use.
-/
namespace Sys2Proof.Config

/-- The n-th open choice of a run between two values the spec allows (log 2). -/
opaque freeBit : Nat → Bool

/-- The n-th open value of a run (log 2). -/
opaque freeValue : Nat → Word

/-- The entries of a function's MSI-X table, which its implementation fixes (R256). -/
opaque msixEntries : Nat → Nat

/-- The causes and unit kinds of the error records of device events, which R372 leaves open (log 14). -/
opaque deviceCause : Nat → Nat
opaque deviceKind : Nat → Nat

/-- The SRAM bank, among those that are a core's L1, that serves a line: by core and line (R84, log 62). -/
opaque l1Bank : Nat → Nat → Nat

/-- The word of a state-readback item whose layout the spec does not give, from its number and what it shows (R375, log 15). -/
opaque readbackWord : Nat → List Nat → Word

/-- The measurement registers at boot: register and word (R369, log 17). -/
opaque bootMeasurement : Nat → Nat → Word

/-- An error record of a confidential world sealed under the world's key (R86, R372): world and record. -/
opaque sealRecord : Nat → List Byte → List Byte

/-- Whether a firmware image's signature verifies against the fused key, and the fused minimum version of a kind (R369). -/
opaque signatureOk : List Byte → Bool
opaque minimumVersion : Nat → Nat

/-- Whether a flit of a type asks for a replay (R354, log 84). -/
opaque asksReplay : Nat → Bool

end Sys2Proof.Config
end

