-- ==== Sys2Proof/Syntax.lean ====
section
/-!
DEFINITION. Syntax.lean: the instructions and events of the device, one constructor per row of the opcode table.
Rows 0 to 179 are the Pyruth instruction words (R33), with their fields turned into operand names, indexes and
immediates. The other rows are events: steps of the device's units, request packets and management actions, each with
the arguments that say which unit, group or record it acts on.
-/
namespace Sys2Proof

/-- An operand specifier (R24): the 256 values of a D, A or B byte. -/
inductive Opnd where
  /-- 0x00 to 0x03: an age latch. -/
  | age (n : Fin 4)
  /-- 0x04 to 0x0B: an operand-cache slot. -/
  | cache (n : Fin 8)
  /-- 0x0C: z, which reads 0 and discards a result. -/
  | zero
  /-- 0x0D: the next literal of the bundle. -/
  | lit
  /-- 0x0E: the lane index. -/
  | lane
  /-- 0x0F: names nothing and raises ILLEGAL. -/
  | none
  /-- 0x10 to 0x2F: a scalar register. -/
  | sreg (n : Fin 32)
  /-- 0x30 to 0xFF: a main-file register. -/
  | greg (n : Fin 208)
  deriving DecidableEq, Repr

/-- The condition codes of ICMP and FCMP (R152), in the order of their codes. -/
inductive Cond where
  | eq | ne | lt | le | gt | ge | ord | uno | ult | ule | ugt | uge | ueq | one | always | never
  deriving DecidableEq, Repr

/-- Instructions and events. -/
inductive Instr where
  -- Control and trap instructions, opcodes 0x00 to 0x1F (R134, R322, R76).
  /-- `BRA`, opcode 0x01 (R135). -/
  | bra (d : BitVec 24)
  /-- `BR`, opcode 0x02 (R135). -/
  | br (n : Bool) (p : Fin 8) (d : BitVec 20)
  /-- `BRX`, opcode 0x03 (R135). -/
  | brx (a : Opnd)
  /-- `CALL`, opcode 0x04 (R136). -/
  | call (d : BitVec 24)
  /-- `CALLX`, opcode 0x05 (R136). -/
  | callx (d : Opnd) (a : Opnd)
  /-- `RETX`, opcode 0x07 (R137). -/
  | retx (a : Opnd)
  /-- `RCVP`, opcode 0x08 (R128). -/
  | rcvp (d : BitVec 24)
  /-- `MODE`, opcode 0x0C (R78). -/
  | mode (a : Opnd)
  /-- `MODEF`, opcode 0x0D (R77). -/
  | modef (a : Opnd) (i : BitVec 8)
  /-- `TRAP`, opcode 0x0E (R141). -/
  | trap (d : Opnd) (a : Opnd) (c : BitVec 8)
  /-- `SLEEP`, opcode 0x10 (R140). -/
  | sleep (a : Opnd)
  /-- `SVC`, opcode 0x11 (R364). -/
  | svc (d : Opnd) (a : Opnd) (i : BitVec 8)
  /-- `UINTR`, opcode 0x12 (R142). -/
  | uintr (d : Opnd) (a : Opnd) (b : Opnd)
  /-- `HRET`, opcode 0x14 (R331). -/
  | hret (a : Opnd)
  /-- `XRD`, opcode 0x16 (R332). -/
  | xrd (d : Opnd) (a : Opnd) (b : Opnd)
  /-- `XWR`, opcode 0x17 (R332). -/
  | xwr (a : Opnd) (b : Opnd)
  /-- `RDSR`, opcode 0x18 (R78). -/
  | rdsr (d : Opnd) (s : BitVec 8)
  /-- `WRSR`, opcode 0x19 (R75). -/
  | wrsr (a : Opnd) (s : BitVec 8)
  -- Integer instructions, 0x20 to 0x2D (R148).
  /-- `IADD`, opcode 0x20 (R149). -/
  | iadd (d : Opnd) (a : Opnd) (b : Opnd)
  /-- `ISUB`, opcode 0x21 (R149). -/
  | isub (d : Opnd) (a : Opnd) (b : Opnd)
  /-- `IMUL`, opcode 0x22 (R149). -/
  | imul (d : Opnd) (a : Opnd) (b : Opnd)
  /-- `IMULH`, opcode 0x23 (R149). -/
  | imulh (d : Opnd) (a : Opnd) (b : Opnd)
  /-- `IMAD`, opcode 0x24 (R149). -/
  | imad (d : Opnd) (a : Opnd) (b : Opnd)
  /-- `IDIV`, opcode 0x25 (R150). -/
  | idiv (d : Opnd) (a : Opnd) (b : Opnd)
  /-- `IREM`, opcode 0x26 (R150). -/
  | irem (d : Opnd) (a : Opnd) (b : Opnd)
  /-- `IMIN`, opcode 0x27 (R149). -/
  | imin (d : Opnd) (a : Opnd) (b : Opnd)
  /-- `IMAX`, opcode 0x28 (R149). -/
  | imax (d : Opnd) (a : Opnd) (b : Opnd)
  /-- `IABS`, opcode 0x29 (R149). -/
  | iabs (d : Opnd) (a : Opnd)
  /-- `INEG`, opcode 0x2A (R149). -/
  | ineg (d : Opnd) (a : Opnd)
  /-- `ICMP`, opcode 0x2B (R153). -/
  | icmp (c : Cond) (p : Fin 8) (a : Opnd) (b : Opnd)
  /-- `LEA`, opcode 0x2C (R149). -/
  | lea (d : Opnd) (a : Opnd) (b : Opnd)
  /-- `IMULW`, opcode 0x2D (R149). -/
  | imulw (d : Opnd) (a : Opnd) (b : Opnd)
  -- Logic, shift and bit-field instructions, 0x30 to 0x3F (R148).
  /-- `AND`, opcode 0x30 (R148). -/
  | and (d : Opnd) (a : Opnd) (b : Opnd)
  /-- `OR`, opcode 0x31 (R148). -/
  | or (d : Opnd) (a : Opnd) (b : Opnd)
  /-- `XOR`, opcode 0x32 (R148). -/
  | xor (d : Opnd) (a : Opnd) (b : Opnd)
  /-- `ANDN`, opcode 0x33 (R148). -/
  | andn (d : Opnd) (a : Opnd) (b : Opnd)
  /-- `NOT`, opcode 0x34 (R148). -/
  | not (d : Opnd) (a : Opnd)
  /-- `SHL`, opcode 0x35 (R151). -/
  | shl (d : Opnd) (a : Opnd) (b : Opnd)
  /-- `SHR`, opcode 0x36 (R151). -/
  | shr (d : Opnd) (a : Opnd) (b : Opnd)
  /-- `SAR`, opcode 0x37 (R151). -/
  | sar (d : Opnd) (a : Opnd) (b : Opnd)
  /-- `ROTL`, opcode 0x38 (R151). -/
  | rotl (d : Opnd) (a : Opnd) (b : Opnd)
  /-- `POPC`, opcode 0x39 (R148). -/
  | popc (d : Opnd) (a : Opnd)
  /-- `CLZ`, opcode 0x3A (R148). -/
  | clz (d : Opnd) (a : Opnd)
  /-- `CTZ`, opcode 0x3B (R148). -/
  | ctz (d : Opnd) (a : Opnd)
  /-- `BREV`, opcode 0x3C (R148). -/
  | brev (d : Opnd) (a : Opnd)
  /-- `BFX`, opcode 0x3D (R151). -/
  | bfx (d : Opnd) (a : Opnd) (b : Opnd)
  /-- `BFI`, opcode 0x3E (R151). -/
  | bfi (d : Opnd) (a : Opnd) (b : Opnd)
  /-- `SEL`, opcode 0x3F (R154). -/
  | sel (d : Opnd) (a : Opnd) (b : Opnd)
  -- Floating-point instructions, 0x40 to 0x4F (R155).
  /-- `FADD`, opcode 0x40 (R156). -/
  | fadd (d : Opnd) (a : Opnd) (b : Opnd)
  /-- `FSUB`, opcode 0x41 (R156). -/
  | fsub (d : Opnd) (a : Opnd) (b : Opnd)
  /-- `FMUL`, opcode 0x42 (R156). -/
  | fmul (d : Opnd) (a : Opnd) (b : Opnd)
  /-- `FFMA`, opcode 0x43 (R156). -/
  | ffma (d : Opnd) (a : Opnd) (b : Opnd)
  /-- `FFMS`, opcode 0x44 (R156). -/
  | ffms (d : Opnd) (a : Opnd) (b : Opnd)
  /-- `FMIN`, opcode 0x45 (R157). -/
  | fmin (d : Opnd) (a : Opnd) (b : Opnd)
  /-- `FMAX`, opcode 0x46 (R157). -/
  | fmax (d : Opnd) (a : Opnd) (b : Opnd)
  /-- `FABS`, opcode 0x47 (R157). -/
  | fabs (d : Opnd) (a : Opnd)
  /-- `FNEG`, opcode 0x48 (R157). -/
  | fneg (d : Opnd) (a : Opnd)
  /-- `FDIV`, opcode 0x49 (R156). -/
  | fdiv (d : Opnd) (a : Opnd) (b : Opnd)
  /-- `FSQRT`, opcode 0x4A (R156). -/
  | fsqrt (d : Opnd) (a : Opnd)
  /-- `FRCP`, opcode 0x4B (R156). -/
  | frcp (d : Opnd) (a : Opnd)
  /-- `FRSQ`, opcode 0x4C (R156). -/
  | frsq (d : Opnd) (a : Opnd)
  /-- `FEXP2`, opcode 0x4D (R156). -/
  | fexp2 (d : Opnd) (a : Opnd)
  /-- `FLOG2`, opcode 0x4E (R156). -/
  | flog2 (d : Opnd) (a : Opnd)
  /-- `FCMP`, opcode 0x4F (R153). -/
  | fcmp (c : Cond) (p : Fin 8) (a : Opnd) (b : Opnd)
  -- Floating-point, conversion and log-number instructions, 0x50 to 0x57 (R155).
  /-- `FCLASS`, opcode 0x50 (R157). -/
  | fclass (d : Opnd) (a : Opnd)
  /-- `FRND`, opcode 0x51 (R157). -/
  | frnd (d : Opnd) (a : Opnd) (i : BitVec 8)
  /-- `FSCALE`, opcode 0x52 (R156). -/
  | fscale (d : Opnd) (a : Opnd) (b : Opnd)
  /-- `CVT`, opcode 0x53 (R158). -/
  | cvt (d : Opnd) (a : Opnd) (t : BitVec 8)
  /-- `CVTS`, opcode 0x54 (R158). -/
  | cvts (d : Opnd) (a : Opnd) (b : Opnd)
  /-- `LADD`, opcode 0x55 (R53). -/
  | ladd (d : Opnd) (a : Opnd) (b : Opnd)
  /-- `LMUL`, opcode 0x56 (R53). -/
  | lmul (d : Opnd) (a : Opnd) (b : Opnd)
  /-- `FDOT2`, opcode 0x57 (R159). -/
  | fdot2 (d : Opnd) (a : Opnd) (b : Opnd)
  -- Lane and predicate instructions, 0x60 to 0x6E (R160).
  /-- `SHFL`, opcode 0x60 (R161). -/
  | shfl (d : Opnd) (a : Opnd) (b : Opnd)
  /-- `SHFLU`, opcode 0x61 (R161). -/
  | shflu (d : Opnd) (a : Opnd) (n : Fin 32)
  /-- `SHFLD`, opcode 0x62 (R161). -/
  | shfld (d : Opnd) (a : Opnd) (n : Fin 32)
  /-- `SHFLX`, opcode 0x63 (R161). -/
  | shflx (d : Opnd) (a : Opnd) (n : Fin 32)
  /-- `VOTE`, opcode 0x64 (R161). -/
  | vote (k : Fin 16) (p : Fin 8) (n : Bool) (q : Fin 8)
  /-- `BALLOT`, opcode 0x65 (R161). -/
  | ballot (d : Opnd) (n : Bool) (q : Fin 8)
  /-- `MATCH`, opcode 0x66 (R161). -/
  | matchL (d : Opnd) (a : Opnd)
  /-- `RDLANE`, opcode 0x67 (R161). -/
  | rdlane (d : Opnd) (a : Opnd) (b : Opnd)
  /-- `WRLANE`, opcode 0x68 (R161). -/
  | wrlane (d : Opnd) (a : Opnd) (b : Opnd)
  /-- `PAND`, opcode 0x69 (R161). -/
  | pand (p : Fin 8) (n : Bool) (q : Fin 8) (m : Bool) (r : Fin 8)
  /-- `POR`, opcode 0x6A (R161). -/
  | por (p : Fin 8) (n : Bool) (q : Fin 8) (m : Bool) (r : Fin 8)
  /-- `PXOR`, opcode 0x6B (R161). -/
  | pxor (p : Fin 8) (n : Bool) (q : Fin 8) (m : Bool) (r : Fin 8)
  /-- `PNOT`, opcode 0x6C (R161). -/
  | pnot (p : Fin 8) (n : Bool) (q : Fin 8)
  /-- `PMOV`, opcode 0x6D (R161). -/
  | pmov (p : Fin 8) (a : Opnd)
  /-- `PSET`, opcode 0x6E (R161). -/
  | pset (p : Fin 8) (a : Opnd) (i : Fin 64)
  -- Register-management instructions, 0x70 to 0x79 (R76).
  /-- `MOV`, opcode 0x70 (R78). -/
  | mov (d : Opnd) (a : Opnd)
  /-- `MOVU`, opcode 0x71 (R78). -/
  | movu (d : Opnd) (a : Opnd)
  /-- `KILL`, opcode 0x72 (R78). -/
  | kill (a : Opnd)
  /-- `SETE`, opcode 0x73 (R78). -/
  | sete (a : Opnd)
  /-- `SETF`, opcode 0x74 (R78). -/
  | setf (a : Opnd)
  /-- `TESTF`, opcode 0x75 (R78). -/
  | testf (d : Opnd) (a : Opnd)
  /-- `CINV`, opcode 0x76 (R78). -/
  | cinv (a : Opnd)
  /-- `SHAPE`, opcode 0x77 (R78). -/
  | shape (h : Fin 8) (a : Opnd)
  /-- `SHAPEQ`, opcode 0x78 (R78). -/
  | shapeq (d : Opnd) (h : Fin 8)
  /-- `FSLOT`, opcode 0x79 (R78). -/
  | fslot (d : Opnd) (f : Fin 8)
  -- Memory instructions, 0x80 to 0x8C (R168).
  /-- `LD`, opcode 0x80 (R169). -/
  | ld (d : Opnd) (a : Opnd) (b : Opnd)
  /-- `ST`, opcode 0x81 (R169). -/
  | st (d : Opnd) (a : Opnd) (b : Opnd)
  /-- `LDX`, opcode 0x82 (R169). -/
  | ldx (d : Opnd) (a : Opnd) (b : Opnd)
  /-- `STX`, opcode 0x83 (R169). -/
  | stx (d : Opnd) (a : Opnd) (b : Opnd)
  /-- `LDA`, opcode 0x84 (R169). -/
  | lda (d : Opnd) (a : Opnd) (b : Opnd)
  /-- `STL`, opcode 0x85 (R169). -/
  | stl (d : Opnd) (a : Opnd) (b : Opnd)
  /-- `LDP`, opcode 0x86 (R167). -/
  | ldp (d : Opnd) (a : Opnd) (b : Opnd)
  /-- `STP`, opcode 0x87 (R167). -/
  | stp (d : Opnd) (a : Opnd) (b : Opnd)
  /-- `LDC`, opcode 0x88 (R179). -/
  | ldc (d : Opnd) (a : Opnd) (b : Opnd)
  /-- `PF`, opcode 0x8B (R180). -/
  | pf (a : Opnd) (b : Opnd)
  /-- `CCTL`, opcode 0x8C (R181). -/
  | cctl (a : Opnd) (o : Fin 4)
  -- Atomics and reductions, 0x90 to 0x9C (R208).
  /-- `AADD`, opcode 0x90 (R213). -/
  | aadd (d : Opnd) (a : Opnd) (b : Opnd)
  /-- `AFADD`, opcode 0x91 (R214). -/
  | afadd (d : Opnd) (a : Opnd) (b : Opnd)
  /-- `AMIN`, opcode 0x92 (R214). -/
  | amin (d : Opnd) (a : Opnd) (b : Opnd)
  /-- `AMAX`, opcode 0x93 (R214). -/
  | amax (d : Opnd) (a : Opnd) (b : Opnd)
  /-- `AAND`, opcode 0x94 (R213). -/
  | aand (d : Opnd) (a : Opnd) (b : Opnd)
  /-- `AOR`, opcode 0x95 (R213). -/
  | aor (d : Opnd) (a : Opnd) (b : Opnd)
  /-- `AXOR`, opcode 0x96 (R213). -/
  | axor (d : Opnd) (a : Opnd) (b : Opnd)
  /-- `AXCH`, opcode 0x97 (R213). -/
  | axch (d : Opnd) (a : Opnd) (b : Opnd)
  /-- `ACAS`, opcode 0x98 (R213). -/
  | acas (d : Opnd) (a : Opnd) (b : Opnd)
  /-- `REDADD`, opcode 0x99 (R217). -/
  | redadd (a : Opnd) (b : Opnd)
  /-- `REDFADD`, opcode 0x9A (R217). -/
  | redfadd (a : Opnd) (b : Opnd)
  /-- `REDMIN`, opcode 0x9B (R217). -/
  | redmin (a : Opnd) (b : Opnd)
  /-- `REDMAX`, opcode 0x9C (R217). -/
  | redmax (a : Opnd) (b : Opnd)
  -- Asynchronous engines, 0xA0 to 0xAA.
  /-- `CPY`, opcode 0xA0 (R190). -/
  | cpy (d : Opnd) (a : Opnd) (b : Opnd)
  /-- `CPY2`, opcode 0xA1 (R191). -/
  | cpy2 (d : Opnd) (a : Opnd) (b : Opnd)
  /-- `GTHR`, opcode 0xA2 (R192). -/
  | gthr (d : Opnd) (a : Opnd) (b : Opnd)
  /-- `SCTR`, opcode 0xA3 (R192). -/
  | sctr (d : Opnd) (a : Opnd) (b : Opnd)
  /-- `WAITC`, opcode 0xA4 (R195). -/
  | waitc (a : Opnd) (c : Fin 8)
  /-- `RDCNT`, opcode 0xA5 (R195). -/
  | rdcnt (d : Opnd) (c : Fin 8)
  /-- `HTEST`, opcode 0xA6 (R196). -/
  | htest (d : Opnd) (a : Opnd)
  /-- `HCANC`, opcode 0xA7 (R196). -/
  | hcanc (d : Opnd) (a : Opnd)
  /-- `HPROM`, opcode 0xA8 (R196). -/
  | hprom (d : Opnd) (a : Opnd)
  /-- `HSTAT`, opcode 0xA9 (R196). -/
  | hstat (d : Opnd) (a : Opnd)
  /-- `COLL`, opcode 0xAA (R360). -/
  | coll (d : Opnd) (a : Opnd) (o : Fin 16) (k : Fin 16)
  -- Barriers, grace periods and queues, 0xB0 to 0xBB.
  /-- `BAR`, opcode 0xB0 (R205). -/
  | bar (a : Opnd) (l : Fin 4) (n : Fin 16)
  /-- `BARA`, opcode 0xB1 (R205). -/
  | bara (a : Opnd) (l : Fin 4) (n : Fin 16)
  /-- `BARW`, opcode 0xB2 (R205). -/
  | barw (l : Fin 4) (n : Fin 16)
  /-- `BARQ`, opcode 0xB3 (R208). -/
  | barq (d : Opnd) (l : Fin 4) (n : Fin 16)
  /-- `GPWAIT`, opcode 0xB6 (R279). -/
  | gpwait (a : Opnd)
  /-- `GPSEQ`, opcode 0xB7 (R279). -/
  | gpseq (d : Opnd)
  /-- `DFREE`, opcode 0xB8 (R279). -/
  | dfree (a : Opnd) (b : Opnd)
  /-- `QPUSH`, opcode 0xB9 (R260). -/
  | qpush (d : Opnd) (a : Opnd) (b : Opnd)
  /-- `QPOP`, opcode 0xBA (R260). -/
  | qpop (d : Opnd) (a : Opnd)
  /-- `QTRY`, opcode 0xBB (R260). -/
  | qtry (k : Fin 16) (p : Fin 8) (a : Opnd) (b : Opnd)
  -- Matrix units, 0xC0 to 0xCB.
  /-- `MMA`, opcode 0xC0 (R234). -/
  | mma (h : Fin 8) (g : Fin 8) (t : Fin 4) (a : Opnd) (b : Opnd)
  /-- `MMAS`, opcode 0xC1 (R234). -/
  | mmas (h : Fin 8) (g : Fin 8) (t : Fin 4) (a : Opnd) (b : Opnd)
  /-- `MMAL`, opcode 0xC2 (R234). -/
  | mmal (h : Fin 8) (g : Fin 8) (t : Fin 4) (a : Opnd) (b : Opnd)
  /-- `ACCZ`, opcode 0xC3 (R236). -/
  | accz (w : Bool) (t : Fin 4)
  /-- `ACCRD`, opcode 0xC4 (R236). -/
  | accrd (d : Opnd) (w : Bool) (t : Fin 4) (b : Opnd)
  /-- `ACCWR`, opcode 0xC5 (R236). -/
  | accwr (w : Bool) (t : Fin 4) (a : Opnd) (b : Opnd)
  /-- `CSLD`, opcode 0xC6 (R242). -/
  | csld (d : Opnd) (a : Opnd) (b : Opnd)
  /-- `GANG`, opcode 0xC7 (R237). -/
  | gang (a : Opnd)
  /-- `MXHINT`, opcode 0xC8 (R241). -/
  | mxhint (a : Opnd)
  /-- `MXGEMM`, opcode 0xC9 (R243). -/
  | mxgemm (d : Opnd) (a : Opnd) (b : Opnd)
  /-- `QUANT`, opcode 0xCA (R244). -/
  | quant (d : Opnd) (a : Opnd) (b : Opnd)
  /-- `MXSTAT`, opcode 0xCB (R246). -/
  | mxstat (d : Opnd) (s : Fin 4)
  -- Retrieval tables, 0xD0 to 0xD8.
  /-- `HFAM`, opcode 0xD0 (R291). -/
  | hfam (d : Opnd) (a : Opnd) (n : Fin 4)
  /-- `HASH`, opcode 0xD1 (R293). -/
  | hash (d : Opnd) (a : Opnd) (b : Opnd)
  /-- `PROBE`, opcode 0xD2 (R294). -/
  | probe (d : Opnd) (a : Opnd) (b : Opnd)
  /-- `TINS`, opcode 0xD3 (R295). -/
  | tins (d : Opnd) (a : Opnd) (b : Opnd)
  /-- `TDEL`, opcode 0xD4 (R295). -/
  | tdel (d : Opnd) (a : Opnd) (b : Opnd)
  /-- `REHASH`, opcode 0xD5 (R296). -/
  | rehash (d : Opnd) (a : Opnd) (b : Opnd)
  /-- `RMUL`, opcode 0xD6 (R297). -/
  | rmul (d : Opnd) (a : Opnd) (b : Opnd)
  /-- `TSTAT`, opcode 0xD7 (R292). -/
  | tstat (d : Opnd) (s : Fin 16) (n : Fin 4)
  -- Supervisor instructions, 0xE0 to 0xE5.
  /-- `MBXGET`, opcode 0xE0 (R365). -/
  | mbxget (d : Opnd)
  /-- `MBXPUT`, opcode 0xE1 (R365). -/
  | mbxput (d : Opnd) (a : Opnd) (b : Opnd)
  /-- `TLBI`, opcode 0xE2 (R104). -/
  | tlbi (d : Opnd) (a : Opnd) (k : Fin 8)
  /-- `CTXLD`, opcode 0xE3 (R91). -/
  | ctxld (d : Opnd) (a : Opnd) (b : Opnd)
  /-- `CTXST`, opcode 0xE4 (R91). -/
  | ctxst (d : Opnd) (a : Opnd) (b : Opnd)
  /-- `PMSET`, opcode 0xE5 (R373). -/
  | pmset (d : Opnd) (a : Opnd) (s : Bool)
  -- Events: steps of the device's units, request packets and management actions.
  /-- `RESERVED_OPCODE` (R36): the word of an instruction slot whose opcode is reserved, or 0x00 with a nonzero field. -/
  | reservedOpcode (w : BitVec 32)
  /-- `BUNDLE_FETCH` (R38): a path of a group enters its bundle. -/
  | bundleFetch (unit path : Nat)
  /-- `ARRIVAL` (R129): the slices of a path arrive at their top entry's point. -/
  | arrival (unit path : Nat)
  /-- `LONG_LATENCY_COMPLETE` (R69): the data of a producer in flight arrive. -/
  | longLatencyComplete (token : Nat)
  /-- `EXCHANGE` (R116): an active place of a quadrant is handed over. -/
  | exchange (quad : Nat)
  /-- `FORCED_EXCHANGE` (R117): a group that has held its place is exchanged. -/
  | forcedExchange (quad : Nat)
  /-- `REGISTERS_DROWSY` (R71): a group's registers go drowsy. -/
  | registersDrowsy (unit : Nat)
  /-- `GROUP_PARK` (R123): a group waiting on absent lanes parks. -/
  | groupPark (unit : Nat)
  /-- `SLEEP_WAKE` (R140): a sleeping group's wake value is reached. -/
  | sleepWake (unit : Nat)
  /-- `USER_INTERRUPT_DELIVERY` (R143): a vector is delivered to a group. -/
  | userInterruptDelivery (unit : Nat)
  /-- `LATE` (R198): a copy operation is late. -/
  | late (token : Nat)
  /-- `ENGINE_OP_COMPLETE` (R194): an operation completes. -/
  | engineOpComplete (token : Nat)
  /-- `MATRIX_STEP_END` (R235): the step of a matrix unit ends. -/
  | matrixStepEnd (quad : Nat)
  /-- `RAMPUP_END` (R240): ramp-up filler ends. -/
  | rampupEnd (quad : Nat)
  /-- `RAMPDOWN_END` (R240): ramp-down filler ends. -/
  | rampdownEnd (quad : Nat)
  /-- `HELD_TIMEOUT` (R240): a held unit has had no step for 256 clk. -/
  | heldTimeout (quad : Nat)
  /-- `HINT_EFFECT` (R241): a hint takes effect on a group's unit. -/
  | hintEffect (unit count : Nat)
  /-- `GANG_STEP_ACCEPT` (R238): the members of a core's gang accept their step. -/
  | gangStepAccept (core : Nat)
  /-- `MACRO_STEP` (R245): the sequencer performs one step of an operation. -/
  | macroStep (token : Nat)
  /-- `QUEUE_REQUEST_SERVE` (R261): a queue's home gallery serves its oldest request. -/
  | queueRequestServe (queue : Nat)
  /-- `QUEUE_ANSWER` (R263): the answer to a queue request reaches its group. -/
  | queueAnswer (token : Nat)
  /-- `TABLE_UPDATE_STEP` (R288): a home unit performs one step of a table's updates. -/
  | tableUpdateStep (token : Nat)
  /-- `BUCKET_CACHE_DROP` (R288): superseded bucket entries of a table are dropped. -/
  | bucketCacheDrop (desc : Nat)
  /-- `GRACE_PERIOD_COMPLETE` (R275): a partition's grace period completes. -/
  | gracePeriodComplete (part : Nat)
  /-- `RELEASE_RING_APPEND` (R277): the controller appends to the release ring. -/
  | releaseRingAppend (part : Nat)
  /-- `CONSUMER_REREAD` (R277): the controller reads the consumer index again. -/
  | consumerReread (part : Nat)
  /-- `RECORD_FILED` (R318): the registrar files a record. -/
  | recordFiled (token : Nat)
  /-- `COLLECTION_WINDOW` (R319): a folio's collection window ends. -/
  | collectionWindow (part folio : Nat)
  /-- `HANDLER_PLACEMENT` (R320): a forming folio is placed. -/
  | handlerPlacement (part folio : Nat)
  /-- `LANE_RESUMED` (R323): a resumed thread rejoins its slice. -/
  | laneResumed (token : Nat)
  /-- `REJOIN_LIMIT` (R325): a wait on absent lanes reaches its limit. -/
  | rejoinLimit (unit : Nat)
  /-- `SOFTERR` (R371): an uncorrectable error in a group's state. -/
  | softerr (unit : Nat) (location : BitVec 64)
  /-- `CURATOR_RELOAD` (R368): a failed curator is reloaded. -/
  | curatorReload (core : Nat)
  /-- `LAUNCH_CHECK` (R107): the distributor checks a launch. -/
  | launchCheck (kernel : Nat)
  /-- `BLOCK_PLACEMENT` (R113): the distributor places what fits next of a kernel. -/
  | blockPlacement (kernel : Nat)
  /-- `KERNEL_RETIRE` (R121): a kernel retires or ends. -/
  | kernelRetire (kernel : Nat)
  /-- `CONTEXT_SAVE_COMPLETE` (R81): a context's image in its save area is complete. -/
  | contextSaveComplete (ctx : Nat)
  /-- `SEAL` (R80): the context engine works on a SEAL request. -/
  | sealCtx (token : Nat)
  /-- `CHECKPOINT` (R80): the context engine works on a CHECKPOINT request. -/
  | checkpoint (token : Nat)
  /-- `MIGRATE` (R80): the context engine works on a MIGRATE request. -/
  | migrate (token : Nat)
  /-- `RESTORE` (R87): the context engine works on a RESTORE request. -/
  | restore (token : Nat)
  /-- `IMPORT` (R87): the context engine works on an IMPORT request. -/
  | importCtx (token : Nat)
  /-- `CONTEXT_OP_COMPLETE` (R92): the context engine finishes an operation. -/
  | contextOpComplete (token : Nat)
  /-- `INVALIDATION_TIMEOUT` (R102): an invalidation aborts what is still unsettled. -/
  | invalidationTimeout (token : Nat)
  /-- `INVALIDATION_ACK` (R102): an invalidation is acknowledged. -/
  | invalidationAck (token : Nat)
  /-- `PREDICTOR_QUIET` (R215): a predictor line becomes quiet. -/
  | predictorQuiet (core line : Nat)
  /-- `CREATE` (R254): a CREATE request packet starts. -/
  | create (pkt : Nat) (ctx : BitVec 32) (region : BitVec 16) (wld : BitVec 8)
  /-- `DESTROY` (R254): a DESTROY request packet starts. -/
  | destroy (pkt : Nat) (ctx : BitVec 32)
  /-- `LAUNCH` (R254): a LAUNCH request packet starts. -/
  | launch (pkt : Nat) (ctx : BitVec 32) (record : BitVec 64)
  /-- `KILL_REQUEST` (R254): a KILL request packet starts. -/
  | killRequest (pkt : Nat) (ctx : BitVec 32) (record : BitVec 64)
  /-- `PREEMPT` (R118): a PREEMPT request packet starts. -/
  | preempt (pkt : Nat) (ctx : BitVec 32)
  /-- `RESUME` (R119): a RESUME request packet starts. -/
  | resume (pkt : Nat) (ctx : BitVec 32)
  /-- `REGION_SYNC` (R111): a REGION_SYNC request packet starts. -/
  | regionSync (pkt : Nat) (ctx : BitVec 32)
  /-- `INVAL` (R102): an INVAL request packet starts. -/
  | inval (pkt : Nat) (ctx : BitVec 32) (kind : BitVec 8) (addr : BitVec 64) (id : BitVec 32)
  /-- `QGRANT` (R258): a QGRANT request packet starts. -/
  | qgrant (pkt : Nat) (ctx : BitVec 32) (queue : BitVec 16) (rights log2 : BitVec 8) (ring : BitVec 64)
  /-- `QREVOKE` (R257): a QREVOKE request packet starts. -/
  | qrevoke (pkt : Nat) (ctx : BitVec 32) (queue : BitVec 16)
  /-- `SVC_NOP` (R367): the curator firmware serves the request that a tag names, of code 0x00. -/
  | svcNop (core tag : Nat)
  /-- `SVC_LAUNCH` (R367): the curator firmware serves the request that a tag names, of code 0x01. -/
  | svcLaunch (core tag : Nat)
  /-- `SVC_KILL` (R367): the curator firmware serves the request that a tag names, of code 0x02. -/
  | svcKill (core tag : Nat)
  /-- `YIELDCTX` (R367): the curator firmware serves the request that a tag names, of code 0x03. -/
  | yieldctx (core tag : Nat)
  /-- `FWVER` (R367): the curator firmware serves the request that a tag names, of code 0x04. -/
  | fwver (core tag : Nat)
  /-- `POWER_STATE_EXIT` (R373): an exit event returns the device to PS0 after a time. -/
  | powerStateExit (elapsed : Nat)
  /-- `ZEROING_COMPLETE` (R84): the zeroing of a bank or a quadrant ends. -/
  | zeroingComplete (bank : Bool) (unit : Nat)
  /-- `TRAINING_TIMEOUT` (R353): a port has not trained in time. -/
  | trainingTimeout (port : Nat)
  /-- `ACK_TIMEOUT` (R353): a port has had no flit acknowledged in time. -/
  | ackTimeout (port : Nat)
  /-- `REPLAY_LIMIT` (R353): a port has replayed one flit eight times. -/
  | replayLimit (port : Nat)
  /-- `RETRAIN_TIMEOUT` (R353): a port has not retrained in time. -/
  | retrainTimeout (port : Nat)
  /-- `ACCESS_PERFORMED` (R177): an access is performed. -/
  | accessPerformed (token : Nat)
  /-- `HOME_UNIT_ANSWER` (R288): the answer of a catalogue or home unit reaches its group. -/
  | homeUnitAnswer (token : Nat)
  /-- `ORIGIN_QUADRANT_ANSWER` (R332): the answer of an origin's quadrant reaches a handler lane. -/
  | originQuadrantAnswer (token : Nat)
  /-- `REQUEST_RECORD_CHECKED` (R89): the context engine has checked a request record. -/
  | requestRecordChecked (token : Nat)
  /-- `CODE_INVALIDATION_DONE` (R181): a CCTL's code lines are invalidated. -/
  | codeInvalidationDone (token : Nat)
  /-- `BADPKT` (R254): a malformed request packet starts. -/
  | badpkt (pkt : Nat)
  -- Inputs from outside and periodic events.
  /-- `PAGE_WALK_COMPLETE` (R391): a walk for a group's address and access kind ends. -/
  | pageWalkComplete (unit : Nat) (va : BitVec 64) (kind : Fin 4)
  /-- `RING_READ_ERROR` (R252): a ring read or completion write of a queue interface fails. -/
  | ringReadError (qi : Nat)
  /-- `CURATOR_IMAGE_HANDOFF` (R370): the host hands over a curator image at a host address. -/
  | curatorImageHandoff (addr : BitVec 64)
  /-- `SOFT_ERROR_CORRECTED` (R371): a single-bit error is corrected. -/
  | softErrorCorrected (kind unit : Nat) (addr : BitVec 64)
  /-- `UNCORRECTABLE_SHARED` (R371): an uncorrectable error in shared state of some partitions. -/
  | uncorrectableShared (kind unit : Nat) (addr : BitVec 64) (parts : List Nat)
  /-- `QI_ENABLE` (R252): a write of a queue interface's CTL sets EN. -/
  | qiEnable (qi : Nat) (ctl : BitVec 64)
  /-- `QI_DISABLE` (R252): a write of a queue interface's CTL clears EN. -/
  | qiDisable (qi : Nat)
  /-- `NOTIFY` (R253): the host writes to a notify page of a function's BAR2. -/
  | notify (func page offset size : Nat) (value : BitVec 64)
  /-- `PASID_REVOKE` (R255): the physical function writes PASID_REVOKE. -/
  | pasidRevoke (value : BitVec 32)
  /-- `TDISP_ERROR` (R252): the TDISP device interface of a function enters ERROR. -/
  | tdispError (func : Nat)
  /-- `LATENCY_TOLERANCE_WRITE` (R373): the host writes its latency tolerance. -/
  | latencyToleranceWrite (value : BitVec 32)
  /-- `READBACK_READ` (R374): an agent reads its readback Data register. -/
  | readbackRead (agent : Nat)
  /-- `READBACK_WRITE` (R374): an agent writes its readback Data register. -/
  | readbackWrite (agent : Nat) (value : BitVec 64)
  /-- `DEBUG_STOP_ARM` (R375): a context's debug stop is armed or disarmed. -/
  | debugStopArm (ctx : Nat) (arm : Bool)
  /-- `DEBUG_RELEASE` (R375): every stopped group of a context is released. -/
  | debugRelease (ctx : Nat)
  /-- `DEVICE_NUMBER_WRITE` (R357): the management core writes the device number. -/
  | deviceNumberWrite (value : BitVec 16)
  /-- `ASSIGNMENT_WORD_WRITE` (R82): the management core writes the assignment word of a bank or a quadrant. -/
  | assignmentWordWrite (bank : Bool) (unit : Nat) (value : BitVec 32)
  /-- `REGISTER_WRITE` (R4): an agent writes a device register at a BAR0 offset. -/
  | registerWrite (agent offset : Nat) (value : BitVec 64)
  /-- `PORT_ENABLE` (R353): the management core enables a port. -/
  | portEnable (port : Nat)
  /-- `PORT_DISABLE` (R353): the management core disables a port. -/
  | portDisable (port : Nat)
  /-- `LANES_TRAINED` (R353): training or retraining of a port ends with some lanes. -/
  | lanesTrained (port lanes : Nat)
  /-- `FLIT_RECEIVED` (R354): a flit arrives at a port. -/
  | flitReceived (port : Nat) (header crc : BitVec 64) (payload : List (BitVec 8))
  /-- `PEER_REQUEST_SERVE` (R356): a request of a peer device arrives. -/
  | peerRequestServe (device kind : Nat) (addr : BitVec 64) (size : Nat) (data : BitVec 1024)
  /-- `GET_MEASUREMENTS` (R369): an SPDM request for measurements. -/
  | getMeasurements (index : Nat)
  /-- `CHALLENGE` (R369): an SPDM challenge. -/
  | challenge (nonce : BitVec 256)
  /-- `KEY_EXCHANGE` (R86): an SPDM key exchange with a peer. -/
  | keyExchange (peer : Nat)
  /-- `TDISP_STATE_CHANGE` (R251): the TDISP device interface of a function changes state. -/
  | tdispStateChange (func st : Nat)
  /-- `ROUTE_TABLE_WRITE` (R356): the management core writes the route table or the inbound table. -/
  | routeTableWrite (inbound : Bool) (device : Nat) (value : BitVec 64)
  /-- `MSIX_VECTOR_UNMASK` (R256): the host unmasks an MSI-X vector. -/
  | msixVectorUnmask (func index : Nat)
  /-- `TOKEN_REFILL` (R85): every L2 token bucket gains its rate. -/
  | tokenRefill
  /-- `POWER_STATE_ENTRY` (R373): the device enters the lowest power state allowed. -/
  | powerStateEntry
  /-- `POWER_REMOVAL` (R87): power is removed. -/
  | powerRemoval
  /-- `DEVICE_RESET` (R80): device reset. -/
  | deviceReset
  /-- `POWER_ON` (R165): power is applied. -/
  | powerOn
  -- Instructions without operands.
  /-- `NOP`, opcode 0x00 (R18). -/
  | nop
  /-- `RET`, opcode 0x06 (R137). -/
  | ret
  /-- `REGANG`, opcode 0x09 (R138). -/
  | regang
  /-- `EXIT`, opcode 0x0A (R139). -/
  | exit
  /-- `YIELD`, opcode 0x0B (R139). -/
  | yield
  /-- `BRKPT`, opcode 0x0F (R141). -/
  | brkpt
  /-- `UIRET`, opcode 0x13 (R144). -/
  | uiret
  /-- `HKILL`, opcode 0x15 (R331). -/
  | hkill
  /-- `FENCE`, opcode 0x89 (R177). -/
  | fence
  /-- `RSB`, opcode 0xB4 (R273). -/
  | rsb
  /-- `RSE`, opcode 0xB5 (R273). -/
  | rse
  /-- `TFENCE`, opcode 0xD8 (R298). -/
  | tfence
  deriving DecidableEq, Repr

end Sys2Proof
end

