-- ==== Sys2Proof/Decode.lean ====
section
/-!
DEFINITION. Decode.lean: instruction words to instructions (R20 to R24, R33, R34), total on any word and rejecting by name,
and the encoder written from the same tables.
-/
namespace Sys2Proof

/-- Why a word is no instruction of its opcode. -/
inductive Reject where
  /-- A field that the opcode does not use, or an immediate outside its bits, is not zero: ILLEGAL (R23). -/
  | unusedField (opcode : Nat)
  /-- Fewer than four bytes. -/
  | short
  deriving DecidableEq, Repr

/-- The specifier byte of an operand (R24). -/
def Opnd.code (o : Opnd) : Nat :=
  match o with
  | .age n => n
  | .cache n => 4 + n
  | .zero => 0x0C
  | .lit => 0x0D
  | .lane => 0x0E
  | .none => 0x0F
  | .sreg n => 0x10 + n
  | .greg n => 0x30 + n

/-- The register a specifier names, if it is an s or g register. -/
def Opnd.reg? (o : Opnd) : Option Nat :=
  match o with
  | .sreg n => some (0x10 + n)
  | .greg n => some (0x30 + n)
  | _ => Option.none

/-- The operand of a specifier byte (R24). -/
def opOf (c : Nat) : Opnd :=
  if c < 0x04 then .age (Fin.ofNat 4 c)
  else if c < 0x0C then .cache (Fin.ofNat 8 (c - 0x04))
  else if c < 0x10 then (match c with | 0x0C => .zero | 0x0D => .lit | 0x0E => .lane | _ => .none)
  else if c < 0x30 then .sreg (Fin.ofNat 32 (c - 0x10))
  else .greg (Fin.ofNat 208 (c - 0x30))

/-- The code of a condition (R152). -/
def Cond.code (c : Cond) : Nat :=
  match c with
  | .eq => 0 | .ne => 1 | .lt => 2 | .le => 3 | .gt => 4 | .ge => 5 | .ord => 6 | .uno => 7
  | .ult => 8 | .ule => 9 | .ugt => 10 | .uge => 11 | .ueq => 12 | .one => 13 | .always => 14 | .never => 15

/-- The condition of a code (R152). -/
def condOf (n : Nat) : Cond :=
  match n with
  | 0 => .eq | 1 => .ne | 2 => .lt | 3 => .le | 4 => .gt | 5 => .ge | 6 => .ord | 7 => .uno
  | 8 => .ult | 9 => .ule | 10 => .ugt | 11 => .uge | 12 => .ueq | 13 => .one | 14 => .always | _ => .never

/-- The specifier whose low bit is bit lo of a word. -/
def opAt (w lo : Nat) : Opnd := opOf (w / 2 ^ lo % 256)
/-- The condition code at bit lo. -/
def condAt (w lo : Nat) : Cond := condOf (w / 2 ^ lo % 16)
/-- An n-bit field at bit lo. -/
def bvAt (n w lo : Nat) : BitVec n := BitVec.ofNat n (w / 2 ^ lo)
/-- One bit. -/
def bitAt (w lo : Nat) : Bool := w / 2 ^ lo % 2 == 1
/-- An n-bit index at bit lo. -/
def finAt (n w lo : Nat) : Fin (2 ^ n) := ⟨w / 2 ^ lo % 2 ^ n, Nat.mod_lt _ (Nat.two_pow_pos n)⟩

/-- Control and trap instructions, opcodes 0x00 to 0x1F (R134, R322, R76). -/
def decodeControl (w : Nat) : Except Reject Instr :=
  match w / 2 ^ 24 % 2 ^ 8 with
  | 0x00 => if w % 2 ^ 32 = 0 then .ok .nop else .ok (.reservedOpcode (BitVec.ofNat 32 w))
  | 0x01 => .ok (.bra (bvAt 24 w 0))
  | 0x02 => .ok (.br (bitAt w 23) (finAt 3 w 20) (bvAt 20 w 0))
  | 0x03 => if w % 2 ^ 8 = 0 ∧ w / 2 ^ 16 % 2 ^ 8 = 0 then .ok (.brx (opAt w 8)) else .error (.unusedField 0x03)
  | 0x04 => .ok (.call (bvAt 24 w 0))
  | 0x05 => if w % 2 ^ 8 = 0 then .ok (.callx (opAt w 16) (opAt w 8)) else .error (.unusedField 0x05)
  | 0x06 => if w % 2 ^ 24 = 0 then .ok .ret else .error (.unusedField 0x06)
  | 0x07 => if w % 2 ^ 8 = 0 ∧ w / 2 ^ 16 % 2 ^ 8 = 0 then .ok (.retx (opAt w 8)) else .error (.unusedField 0x07)
  | 0x08 => .ok (.rcvp (bvAt 24 w 0))
  | 0x09 => if w % 2 ^ 24 = 0 then .ok .regang else .error (.unusedField 0x09)
  | 0x0A => if w % 2 ^ 24 = 0 then .ok .exit else .error (.unusedField 0x0A)
  | 0x0B => if w % 2 ^ 24 = 0 then .ok .yield else .error (.unusedField 0x0B)
  | 0x0C => if w % 2 ^ 8 = 0 ∧ w / 2 ^ 16 % 2 ^ 8 = 0 then .ok (.mode (opAt w 8)) else .error (.unusedField 0x0C)
  | 0x0D => if w / 2 ^ 16 % 2 ^ 8 = 0 then .ok (.modef (opAt w 8) (bvAt 8 w 0)) else .error (.unusedField 0x0D)
  | 0x0E => .ok (.trap (opAt w 16) (opAt w 8) (bvAt 8 w 0))
  | 0x0F => if w % 2 ^ 24 = 0 then .ok .brkpt else .error (.unusedField 0x0F)
  | 0x10 => if w % 2 ^ 8 = 0 ∧ w / 2 ^ 16 % 2 ^ 8 = 0 then .ok (.sleep (opAt w 8)) else .error (.unusedField 0x10)
  | 0x11 => .ok (.svc (opAt w 16) (opAt w 8) (bvAt 8 w 0))
  | 0x12 => .ok (.uintr (opAt w 16) (opAt w 8) (opAt w 0))
  | 0x13 => if w % 2 ^ 24 = 0 then .ok .uiret else .error (.unusedField 0x13)
  | 0x14 => if w % 2 ^ 8 = 0 ∧ w / 2 ^ 16 % 2 ^ 8 = 0 then .ok (.hret (opAt w 8)) else .error (.unusedField 0x14)
  | 0x15 => if w % 2 ^ 24 = 0 then .ok .hkill else .error (.unusedField 0x15)
  | 0x16 => .ok (.xrd (opAt w 16) (opAt w 8) (opAt w 0))
  | 0x17 => if w / 2 ^ 16 % 2 ^ 8 = 0 then .ok (.xwr (opAt w 8) (opAt w 0)) else .error (.unusedField 0x17)
  | 0x18 => if w / 2 ^ 8 % 2 ^ 8 = 0 then .ok (.rdsr (opAt w 16) (bvAt 8 w 0)) else .error (.unusedField 0x18)
  | 0x19 => if w / 2 ^ 16 % 2 ^ 8 = 0 then .ok (.wrsr (opAt w 8) (bvAt 8 w 0)) else .error (.unusedField 0x19)
  | _ => .ok (.reservedOpcode (BitVec.ofNat 32 w))

/-- Integer instructions, 0x20 to 0x2D (R148). -/
def decodeInteger (w : Nat) : Except Reject Instr :=
  match w / 2 ^ 24 % 2 ^ 8 with
  | 0x20 => .ok (.iadd (opAt w 16) (opAt w 8) (opAt w 0))
  | 0x21 => .ok (.isub (opAt w 16) (opAt w 8) (opAt w 0))
  | 0x22 => .ok (.imul (opAt w 16) (opAt w 8) (opAt w 0))
  | 0x23 => .ok (.imulh (opAt w 16) (opAt w 8) (opAt w 0))
  | 0x24 => .ok (.imad (opAt w 16) (opAt w 8) (opAt w 0))
  | 0x25 => .ok (.idiv (opAt w 16) (opAt w 8) (opAt w 0))
  | 0x26 => .ok (.irem (opAt w 16) (opAt w 8) (opAt w 0))
  | 0x27 => .ok (.imin (opAt w 16) (opAt w 8) (opAt w 0))
  | 0x28 => .ok (.imax (opAt w 16) (opAt w 8) (opAt w 0))
  | 0x29 => if w % 2 ^ 8 = 0 then .ok (.iabs (opAt w 16) (opAt w 8)) else .error (.unusedField 0x29)
  | 0x2A => if w % 2 ^ 8 = 0 then .ok (.ineg (opAt w 16) (opAt w 8)) else .error (.unusedField 0x2A)
  | 0x2B => if w / 2 ^ 23 % 2 ^ 1 = 0 then .ok (.icmp (condAt w 19) (finAt 3 w 16) (opAt w 8) (opAt w 0)) else .error (.unusedField 0x2B)
  | 0x2C => .ok (.lea (opAt w 16) (opAt w 8) (opAt w 0))
  | 0x2D => .ok (.imulw (opAt w 16) (opAt w 8) (opAt w 0))
  | _ => .ok (.reservedOpcode (BitVec.ofNat 32 w))

/-- Logic, shift and bit-field instructions, 0x30 to 0x3F (R148). -/
def decodeLogic (w : Nat) : Except Reject Instr :=
  match w / 2 ^ 24 % 2 ^ 8 with
  | 0x30 => .ok (.and (opAt w 16) (opAt w 8) (opAt w 0))
  | 0x31 => .ok (.or (opAt w 16) (opAt w 8) (opAt w 0))
  | 0x32 => .ok (.xor (opAt w 16) (opAt w 8) (opAt w 0))
  | 0x33 => .ok (.andn (opAt w 16) (opAt w 8) (opAt w 0))
  | 0x34 => if w % 2 ^ 8 = 0 then .ok (.not (opAt w 16) (opAt w 8)) else .error (.unusedField 0x34)
  | 0x35 => .ok (.shl (opAt w 16) (opAt w 8) (opAt w 0))
  | 0x36 => .ok (.shr (opAt w 16) (opAt w 8) (opAt w 0))
  | 0x37 => .ok (.sar (opAt w 16) (opAt w 8) (opAt w 0))
  | 0x38 => .ok (.rotl (opAt w 16) (opAt w 8) (opAt w 0))
  | 0x39 => if w % 2 ^ 8 = 0 then .ok (.popc (opAt w 16) (opAt w 8)) else .error (.unusedField 0x39)
  | 0x3A => if w % 2 ^ 8 = 0 then .ok (.clz (opAt w 16) (opAt w 8)) else .error (.unusedField 0x3A)
  | 0x3B => if w % 2 ^ 8 = 0 then .ok (.ctz (opAt w 16) (opAt w 8)) else .error (.unusedField 0x3B)
  | 0x3C => if w % 2 ^ 8 = 0 then .ok (.brev (opAt w 16) (opAt w 8)) else .error (.unusedField 0x3C)
  | 0x3D => .ok (.bfx (opAt w 16) (opAt w 8) (opAt w 0))
  | 0x3E => .ok (.bfi (opAt w 16) (opAt w 8) (opAt w 0))
  | 0x3F => .ok (.sel (opAt w 16) (opAt w 8) (opAt w 0))
  | _ => .ok (.reservedOpcode (BitVec.ofNat 32 w))

/-- Floating-point instructions, 0x40 to 0x4F (R155). -/
def decodeFloat (w : Nat) : Except Reject Instr :=
  match w / 2 ^ 24 % 2 ^ 8 with
  | 0x40 => .ok (.fadd (opAt w 16) (opAt w 8) (opAt w 0))
  | 0x41 => .ok (.fsub (opAt w 16) (opAt w 8) (opAt w 0))
  | 0x42 => .ok (.fmul (opAt w 16) (opAt w 8) (opAt w 0))
  | 0x43 => .ok (.ffma (opAt w 16) (opAt w 8) (opAt w 0))
  | 0x44 => .ok (.ffms (opAt w 16) (opAt w 8) (opAt w 0))
  | 0x45 => .ok (.fmin (opAt w 16) (opAt w 8) (opAt w 0))
  | 0x46 => .ok (.fmax (opAt w 16) (opAt w 8) (opAt w 0))
  | 0x47 => if w % 2 ^ 8 = 0 then .ok (.fabs (opAt w 16) (opAt w 8)) else .error (.unusedField 0x47)
  | 0x48 => if w % 2 ^ 8 = 0 then .ok (.fneg (opAt w 16) (opAt w 8)) else .error (.unusedField 0x48)
  | 0x49 => .ok (.fdiv (opAt w 16) (opAt w 8) (opAt w 0))
  | 0x4A => if w % 2 ^ 8 = 0 then .ok (.fsqrt (opAt w 16) (opAt w 8)) else .error (.unusedField 0x4A)
  | 0x4B => if w % 2 ^ 8 = 0 then .ok (.frcp (opAt w 16) (opAt w 8)) else .error (.unusedField 0x4B)
  | 0x4C => if w % 2 ^ 8 = 0 then .ok (.frsq (opAt w 16) (opAt w 8)) else .error (.unusedField 0x4C)
  | 0x4D => if w % 2 ^ 8 = 0 then .ok (.fexp2 (opAt w 16) (opAt w 8)) else .error (.unusedField 0x4D)
  | 0x4E => if w % 2 ^ 8 = 0 then .ok (.flog2 (opAt w 16) (opAt w 8)) else .error (.unusedField 0x4E)
  | 0x4F => if w / 2 ^ 23 % 2 ^ 1 = 0 then .ok (.fcmp (condAt w 19) (finAt 3 w 16) (opAt w 8) (opAt w 0)) else .error (.unusedField 0x4F)
  | _ => .ok (.reservedOpcode (BitVec.ofNat 32 w))

/-- Floating-point, conversion and log-number instructions, 0x50 to 0x57 (R155). -/
def decodeConvert (w : Nat) : Except Reject Instr :=
  match w / 2 ^ 24 % 2 ^ 8 with
  | 0x50 => if w % 2 ^ 8 = 0 then .ok (.fclass (opAt w 16) (opAt w 8)) else .error (.unusedField 0x50)
  | 0x51 => .ok (.frnd (opAt w 16) (opAt w 8) (bvAt 8 w 0))
  | 0x52 => .ok (.fscale (opAt w 16) (opAt w 8) (opAt w 0))
  | 0x53 => .ok (.cvt (opAt w 16) (opAt w 8) (bvAt 8 w 0))
  | 0x54 => .ok (.cvts (opAt w 16) (opAt w 8) (opAt w 0))
  | 0x55 => .ok (.ladd (opAt w 16) (opAt w 8) (opAt w 0))
  | 0x56 => .ok (.lmul (opAt w 16) (opAt w 8) (opAt w 0))
  | 0x57 => .ok (.fdot2 (opAt w 16) (opAt w 8) (opAt w 0))
  | _ => .ok (.reservedOpcode (BitVec.ofNat 32 w))

/-- Lane and predicate instructions, 0x60 to 0x6E (R160). -/
def decodeLane (w : Nat) : Except Reject Instr :=
  match w / 2 ^ 24 % 2 ^ 8 with
  | 0x60 => .ok (.shfl (opAt w 16) (opAt w 8) (opAt w 0))
  | 0x61 => if w / 2 ^ 5 % 2 ^ 3 = 0 then .ok (.shflu (opAt w 16) (opAt w 8) (finAt 5 w 0)) else .error (.unusedField 0x61)
  | 0x62 => if w / 2 ^ 5 % 2 ^ 3 = 0 then .ok (.shfld (opAt w 16) (opAt w 8) (finAt 5 w 0)) else .error (.unusedField 0x62)
  | 0x63 => if w / 2 ^ 5 % 2 ^ 3 = 0 then .ok (.shflx (opAt w 16) (opAt w 8) (finAt 5 w 0)) else .error (.unusedField 0x63)
  | 0x64 => if w % 2 ^ 8 = 0 ∧ w / 2 ^ 12 % 2 ^ 4 = 0 ∧ w / 2 ^ 23 % 2 ^ 1 = 0 then .ok (.vote (finAt 4 w 19) (finAt 3 w 16) (bitAt w 11) (finAt 3 w 8)) else .error (.unusedField 0x64)
  | 0x65 => if w % 2 ^ 8 = 0 ∧ w / 2 ^ 12 % 2 ^ 4 = 0 then .ok (.ballot (opAt w 16) (bitAt w 11) (finAt 3 w 8)) else .error (.unusedField 0x65)
  | 0x66 => if w % 2 ^ 8 = 0 then .ok (.matchL (opAt w 16) (opAt w 8)) else .error (.unusedField 0x66)
  | 0x67 => .ok (.rdlane (opAt w 16) (opAt w 8) (opAt w 0))
  | 0x68 => .ok (.wrlane (opAt w 16) (opAt w 8) (opAt w 0))
  | 0x69 => if w / 2 ^ 4 % 2 ^ 4 = 0 ∧ w / 2 ^ 12 % 2 ^ 4 = 0 ∧ w / 2 ^ 19 % 2 ^ 5 = 0 then .ok (.pand (finAt 3 w 16) (bitAt w 11) (finAt 3 w 8) (bitAt w 3) (finAt 3 w 0)) else .error (.unusedField 0x69)
  | 0x6A => if w / 2 ^ 4 % 2 ^ 4 = 0 ∧ w / 2 ^ 12 % 2 ^ 4 = 0 ∧ w / 2 ^ 19 % 2 ^ 5 = 0 then .ok (.por (finAt 3 w 16) (bitAt w 11) (finAt 3 w 8) (bitAt w 3) (finAt 3 w 0)) else .error (.unusedField 0x6A)
  | 0x6B => if w / 2 ^ 4 % 2 ^ 4 = 0 ∧ w / 2 ^ 12 % 2 ^ 4 = 0 ∧ w / 2 ^ 19 % 2 ^ 5 = 0 then .ok (.pxor (finAt 3 w 16) (bitAt w 11) (finAt 3 w 8) (bitAt w 3) (finAt 3 w 0)) else .error (.unusedField 0x6B)
  | 0x6C => if w % 2 ^ 8 = 0 ∧ w / 2 ^ 12 % 2 ^ 4 = 0 ∧ w / 2 ^ 19 % 2 ^ 5 = 0 then .ok (.pnot (finAt 3 w 16) (bitAt w 11) (finAt 3 w 8)) else .error (.unusedField 0x6C)
  | 0x6D => if w % 2 ^ 8 = 0 ∧ w / 2 ^ 19 % 2 ^ 5 = 0 then .ok (.pmov (finAt 3 w 16) (opAt w 8)) else .error (.unusedField 0x6D)
  | 0x6E => if w / 2 ^ 6 % 2 ^ 2 = 0 ∧ w / 2 ^ 19 % 2 ^ 5 = 0 then .ok (.pset (finAt 3 w 16) (opAt w 8) (finAt 6 w 0)) else .error (.unusedField 0x6E)
  | _ => .ok (.reservedOpcode (BitVec.ofNat 32 w))

/-- Register-management instructions, 0x70 to 0x79 (R76). -/
def decodeRegister (w : Nat) : Except Reject Instr :=
  match w / 2 ^ 24 % 2 ^ 8 with
  | 0x70 => if w % 2 ^ 8 = 0 then .ok (.mov (opAt w 16) (opAt w 8)) else .error (.unusedField 0x70)
  | 0x71 => if w % 2 ^ 8 = 0 then .ok (.movu (opAt w 16) (opAt w 8)) else .error (.unusedField 0x71)
  | 0x72 => if w % 2 ^ 8 = 0 ∧ w / 2 ^ 16 % 2 ^ 8 = 0 then .ok (.kill (opAt w 8)) else .error (.unusedField 0x72)
  | 0x73 => if w % 2 ^ 8 = 0 ∧ w / 2 ^ 16 % 2 ^ 8 = 0 then .ok (.sete (opAt w 8)) else .error (.unusedField 0x73)
  | 0x74 => if w % 2 ^ 8 = 0 ∧ w / 2 ^ 16 % 2 ^ 8 = 0 then .ok (.setf (opAt w 8)) else .error (.unusedField 0x74)
  | 0x75 => if w % 2 ^ 8 = 0 then .ok (.testf (opAt w 16) (opAt w 8)) else .error (.unusedField 0x75)
  | 0x76 => if w % 2 ^ 8 = 0 ∧ w / 2 ^ 16 % 2 ^ 8 = 0 then .ok (.cinv (opAt w 8)) else .error (.unusedField 0x76)
  | 0x77 => if w % 2 ^ 8 = 0 ∧ w / 2 ^ 19 % 2 ^ 5 = 0 then .ok (.shape (finAt 3 w 16) (opAt w 8)) else .error (.unusedField 0x77)
  | 0x78 => if w % 2 ^ 8 = 0 ∧ w / 2 ^ 11 % 2 ^ 5 = 0 then .ok (.shapeq (opAt w 16) (finAt 3 w 8)) else .error (.unusedField 0x78)
  | 0x79 => if w / 2 ^ 3 % 2 ^ 13 = 0 then .ok (.fslot (opAt w 16) (finAt 3 w 0)) else .error (.unusedField 0x79)
  | _ => .ok (.reservedOpcode (BitVec.ofNat 32 w))

/-- Memory instructions, 0x80 to 0x8C (R168). -/
def decodeMemory (w : Nat) : Except Reject Instr :=
  match w / 2 ^ 24 % 2 ^ 8 with
  | 0x80 => .ok (.ld (opAt w 16) (opAt w 8) (opAt w 0))
  | 0x81 => .ok (.st (opAt w 16) (opAt w 8) (opAt w 0))
  | 0x82 => .ok (.ldx (opAt w 16) (opAt w 8) (opAt w 0))
  | 0x83 => .ok (.stx (opAt w 16) (opAt w 8) (opAt w 0))
  | 0x84 => .ok (.lda (opAt w 16) (opAt w 8) (opAt w 0))
  | 0x85 => .ok (.stl (opAt w 16) (opAt w 8) (opAt w 0))
  | 0x86 => .ok (.ldp (opAt w 16) (opAt w 8) (opAt w 0))
  | 0x87 => .ok (.stp (opAt w 16) (opAt w 8) (opAt w 0))
  | 0x88 => .ok (.ldc (opAt w 16) (opAt w 8) (opAt w 0))
  | 0x89 => if w % 2 ^ 24 = 0 then .ok .fence else .error (.unusedField 0x89)
  | 0x8B => if w / 2 ^ 16 % 2 ^ 8 = 0 then .ok (.pf (opAt w 8) (opAt w 0)) else .error (.unusedField 0x8B)
  | 0x8C => if w / 2 ^ 2 % 2 ^ 6 = 0 ∧ w / 2 ^ 16 % 2 ^ 8 = 0 then .ok (.cctl (opAt w 8) (finAt 2 w 0)) else .error (.unusedField 0x8C)
  | _ => .ok (.reservedOpcode (BitVec.ofNat 32 w))

/-- Atomics and reductions, 0x90 to 0x9C (R208). -/
def decodeAtomic (w : Nat) : Except Reject Instr :=
  match w / 2 ^ 24 % 2 ^ 8 with
  | 0x90 => .ok (.aadd (opAt w 16) (opAt w 8) (opAt w 0))
  | 0x91 => .ok (.afadd (opAt w 16) (opAt w 8) (opAt w 0))
  | 0x92 => .ok (.amin (opAt w 16) (opAt w 8) (opAt w 0))
  | 0x93 => .ok (.amax (opAt w 16) (opAt w 8) (opAt w 0))
  | 0x94 => .ok (.aand (opAt w 16) (opAt w 8) (opAt w 0))
  | 0x95 => .ok (.aor (opAt w 16) (opAt w 8) (opAt w 0))
  | 0x96 => .ok (.axor (opAt w 16) (opAt w 8) (opAt w 0))
  | 0x97 => .ok (.axch (opAt w 16) (opAt w 8) (opAt w 0))
  | 0x98 => .ok (.acas (opAt w 16) (opAt w 8) (opAt w 0))
  | 0x99 => if w / 2 ^ 16 % 2 ^ 8 = 0 then .ok (.redadd (opAt w 8) (opAt w 0)) else .error (.unusedField 0x99)
  | 0x9A => if w / 2 ^ 16 % 2 ^ 8 = 0 then .ok (.redfadd (opAt w 8) (opAt w 0)) else .error (.unusedField 0x9A)
  | 0x9B => if w / 2 ^ 16 % 2 ^ 8 = 0 then .ok (.redmin (opAt w 8) (opAt w 0)) else .error (.unusedField 0x9B)
  | 0x9C => if w / 2 ^ 16 % 2 ^ 8 = 0 then .ok (.redmax (opAt w 8) (opAt w 0)) else .error (.unusedField 0x9C)
  | _ => .ok (.reservedOpcode (BitVec.ofNat 32 w))

/-- Asynchronous engines, 0xA0 to 0xAA. -/
def decodeEngine (w : Nat) : Except Reject Instr :=
  match w / 2 ^ 24 % 2 ^ 8 with
  | 0xA0 => .ok (.cpy (opAt w 16) (opAt w 8) (opAt w 0))
  | 0xA1 => .ok (.cpy2 (opAt w 16) (opAt w 8) (opAt w 0))
  | 0xA2 => .ok (.gthr (opAt w 16) (opAt w 8) (opAt w 0))
  | 0xA3 => .ok (.sctr (opAt w 16) (opAt w 8) (opAt w 0))
  | 0xA4 => if w / 2 ^ 3 % 2 ^ 5 = 0 ∧ w / 2 ^ 16 % 2 ^ 8 = 0 then .ok (.waitc (opAt w 8) (finAt 3 w 0)) else .error (.unusedField 0xA4)
  | 0xA5 => if w / 2 ^ 3 % 2 ^ 13 = 0 then .ok (.rdcnt (opAt w 16) (finAt 3 w 0)) else .error (.unusedField 0xA5)
  | 0xA6 => if w % 2 ^ 8 = 0 then .ok (.htest (opAt w 16) (opAt w 8)) else .error (.unusedField 0xA6)
  | 0xA7 => if w % 2 ^ 8 = 0 then .ok (.hcanc (opAt w 16) (opAt w 8)) else .error (.unusedField 0xA7)
  | 0xA8 => if w % 2 ^ 8 = 0 then .ok (.hprom (opAt w 16) (opAt w 8)) else .error (.unusedField 0xA8)
  | 0xA9 => if w % 2 ^ 8 = 0 then .ok (.hstat (opAt w 16) (opAt w 8)) else .error (.unusedField 0xA9)
  | 0xAA => .ok (.coll (opAt w 16) (opAt w 8) (finAt 4 w 4) (finAt 4 w 0))
  | _ => .ok (.reservedOpcode (BitVec.ofNat 32 w))

/-- Barriers, grace periods and queues, 0xB0 to 0xBB. -/
def decodeSync (w : Nat) : Except Reject Instr :=
  match w / 2 ^ 24 % 2 ^ 8 with
  | 0xB0 => if w / 2 ^ 4 % 2 ^ 2 = 0 ∧ w / 2 ^ 16 % 2 ^ 8 = 0 then .ok (.bar (opAt w 8) (finAt 2 w 6) (finAt 4 w 0)) else .error (.unusedField 0xB0)
  | 0xB1 => if w / 2 ^ 4 % 2 ^ 2 = 0 ∧ w / 2 ^ 16 % 2 ^ 8 = 0 then .ok (.bara (opAt w 8) (finAt 2 w 6) (finAt 4 w 0)) else .error (.unusedField 0xB1)
  | 0xB2 => if w / 2 ^ 4 % 2 ^ 2 = 0 ∧ w / 2 ^ 8 % 2 ^ 16 = 0 then .ok (.barw (finAt 2 w 6) (finAt 4 w 0)) else .error (.unusedField 0xB2)
  | 0xB3 => if w / 2 ^ 4 % 2 ^ 2 = 0 ∧ w / 2 ^ 8 % 2 ^ 8 = 0 then .ok (.barq (opAt w 16) (finAt 2 w 6) (finAt 4 w 0)) else .error (.unusedField 0xB3)
  | 0xB4 => if w % 2 ^ 24 = 0 then .ok .rsb else .error (.unusedField 0xB4)
  | 0xB5 => if w % 2 ^ 24 = 0 then .ok .rse else .error (.unusedField 0xB5)
  | 0xB6 => if w % 2 ^ 8 = 0 ∧ w / 2 ^ 16 % 2 ^ 8 = 0 then .ok (.gpwait (opAt w 8)) else .error (.unusedField 0xB6)
  | 0xB7 => if w % 2 ^ 16 = 0 then .ok (.gpseq (opAt w 16)) else .error (.unusedField 0xB7)
  | 0xB8 => if w / 2 ^ 16 % 2 ^ 8 = 0 then .ok (.dfree (opAt w 8) (opAt w 0)) else .error (.unusedField 0xB8)
  | 0xB9 => .ok (.qpush (opAt w 16) (opAt w 8) (opAt w 0))
  | 0xBA => if w % 2 ^ 8 = 0 then .ok (.qpop (opAt w 16) (opAt w 8)) else .error (.unusedField 0xBA)
  | 0xBB => if w / 2 ^ 23 % 2 ^ 1 = 0 then .ok (.qtry (finAt 4 w 19) (finAt 3 w 16) (opAt w 8) (opAt w 0)) else .error (.unusedField 0xBB)
  | _ => .ok (.reservedOpcode (BitVec.ofNat 32 w))

/-- Matrix units, 0xC0 to 0xCB. -/
def decodeMatrix (w : Nat) : Except Reject Instr :=
  match w / 2 ^ 24 % 2 ^ 8 with
  | 0xC0 => .ok (.mma (finAt 3 w 21) (finAt 3 w 18) (finAt 2 w 16) (opAt w 8) (opAt w 0))
  | 0xC1 => .ok (.mmas (finAt 3 w 21) (finAt 3 w 18) (finAt 2 w 16) (opAt w 8) (opAt w 0))
  | 0xC2 => .ok (.mmal (finAt 3 w 21) (finAt 3 w 18) (finAt 2 w 16) (opAt w 8) (opAt w 0))
  | 0xC3 => if w % 2 ^ 16 = 0 ∧ w / 2 ^ 19 % 2 ^ 5 = 0 then .ok (.accz (bitAt w 18) (finAt 2 w 16)) else .error (.unusedField 0xC3)
  | 0xC4 => if w / 2 ^ 11 % 2 ^ 5 = 0 then .ok (.accrd (opAt w 16) (bitAt w 10) (finAt 2 w 8) (opAt w 0)) else .error (.unusedField 0xC4)
  | 0xC5 => if w / 2 ^ 19 % 2 ^ 5 = 0 then .ok (.accwr (bitAt w 18) (finAt 2 w 16) (opAt w 8) (opAt w 0)) else .error (.unusedField 0xC5)
  | 0xC6 => .ok (.csld (opAt w 16) (opAt w 8) (opAt w 0))
  | 0xC7 => if w % 2 ^ 8 = 0 ∧ w / 2 ^ 16 % 2 ^ 8 = 0 then .ok (.gang (opAt w 8)) else .error (.unusedField 0xC7)
  | 0xC8 => if w % 2 ^ 8 = 0 ∧ w / 2 ^ 16 % 2 ^ 8 = 0 then .ok (.mxhint (opAt w 8)) else .error (.unusedField 0xC8)
  | 0xC9 => .ok (.mxgemm (opAt w 16) (opAt w 8) (opAt w 0))
  | 0xCA => .ok (.quant (opAt w 16) (opAt w 8) (opAt w 0))
  | 0xCB => if w / 2 ^ 2 % 2 ^ 14 = 0 then .ok (.mxstat (opAt w 16) (finAt 2 w 0)) else .error (.unusedField 0xCB)
  | _ => .ok (.reservedOpcode (BitVec.ofNat 32 w))

/-- Retrieval tables, 0xD0 to 0xD8. -/
def decodeTable (w : Nat) : Except Reject Instr :=
  match w / 2 ^ 24 % 2 ^ 8 with
  | 0xD0 => if w / 2 ^ 2 % 2 ^ 6 = 0 then .ok (.hfam (opAt w 16) (opAt w 8) (finAt 2 w 0)) else .error (.unusedField 0xD0)
  | 0xD1 => .ok (.hash (opAt w 16) (opAt w 8) (opAt w 0))
  | 0xD2 => .ok (.probe (opAt w 16) (opAt w 8) (opAt w 0))
  | 0xD3 => .ok (.tins (opAt w 16) (opAt w 8) (opAt w 0))
  | 0xD4 => .ok (.tdel (opAt w 16) (opAt w 8) (opAt w 0))
  | 0xD5 => .ok (.rehash (opAt w 16) (opAt w 8) (opAt w 0))
  | 0xD6 => .ok (.rmul (opAt w 16) (opAt w 8) (opAt w 0))
  | 0xD7 => if w / 2 ^ 2 % 2 ^ 2 = 0 ∧ w / 2 ^ 8 % 2 ^ 8 = 0 then .ok (.tstat (opAt w 16) (finAt 4 w 4) (finAt 2 w 0)) else .error (.unusedField 0xD7)
  | 0xD8 => if w % 2 ^ 24 = 0 then .ok .tfence else .error (.unusedField 0xD8)
  | _ => .ok (.reservedOpcode (BitVec.ofNat 32 w))

/-- Supervisor instructions, 0xE0 to 0xE5. -/
def decodeSupervisor (w : Nat) : Except Reject Instr :=
  match w / 2 ^ 24 % 2 ^ 8 with
  | 0xE0 => if w % 2 ^ 16 = 0 then .ok (.mbxget (opAt w 16)) else .error (.unusedField 0xE0)
  | 0xE1 => .ok (.mbxput (opAt w 16) (opAt w 8) (opAt w 0))
  | 0xE2 => if w / 2 ^ 3 % 2 ^ 5 = 0 then .ok (.tlbi (opAt w 16) (opAt w 8) (finAt 3 w 0)) else .error (.unusedField 0xE2)
  | 0xE3 => .ok (.ctxld (opAt w 16) (opAt w 8) (opAt w 0))
  | 0xE4 => .ok (.ctxst (opAt w 16) (opAt w 8) (opAt w 0))
  | 0xE5 => if w / 2 ^ 1 % 2 ^ 7 = 0 then .ok (.pmset (opAt w 16) (opAt w 8) (bitAt w 0)) else .error (.unusedField 0xE5)
  | _ => .ok (.reservedOpcode (BitVec.ofNat 32 w))

/-- The instruction of a 32-bit word. A word with a reserved opcode decodes to the event that raises ILLEGAL (R36). -/
def decode (w : Nat) : Except Reject Instr :=
  match w / 2 ^ 28 % 16 with
  | 0 | 1 => decodeControl w
  | 2 => decodeInteger w
  | 3 => decodeLogic w
  | 4 => decodeFloat w
  | 5 => decodeConvert w
  | 6 => decodeLane w
  | 7 => decodeRegister w
  | 8 => decodeMemory w
  | 9 => decodeAtomic w
  | 10 => decodeEngine w
  | 11 => decodeSync w
  | 12 => decodeMatrix w
  | 13 => decodeTable w
  | 14 => decodeSupervisor w
  | _ => .ok (.reservedOpcode (BitVec.ofNat 32 w))

/-- Decoding from bytes, least significant first (R3): the instruction and the bytes after it. -/
def decodeBytes (l : List (BitVec 8)) : Except Reject (Instr × List (BitVec 8)) :=
  match l with
  | b0 :: b1 :: b2 :: b3 :: r =>
    match decode (b0.toNat + 2 ^ 8 * b1.toNat + 2 ^ 16 * b2.toNat + 2 ^ 24 * b3.toNat) with
    | .ok i => .ok (i, r)
    | .error e => .error e
  | _ => .error .short

/-- An opcode and fields placed at their low bits. -/
def packWord (op : Nat) (fs : List (Nat × Nat)) : Nat := op * 2 ^ 24 + (fs.map fun f => f.1 * 2 ^ f.2).sum

/-- What stands for the word of an event, which has none. -/
def noWord : Nat := 0xFFFFFFFF

/-- The word of an instruction. An event has none and is given the fill value, which is reserved (R33). -/
def encode (i : Instr) : Nat :=
  match i with
  | .nop => packWord 0x00 []
  | .bra d => packWord 0x01 [(d.toNat, 0)]
  | .br n p d => packWord 0x02 [(n.toNat, 23), (p.val, 20), (d.toNat, 0)]
  | .brx a => packWord 0x03 [(a.code, 8)]
  | .call d => packWord 0x04 [(d.toNat, 0)]
  | .callx d a => packWord 0x05 [(d.code, 16), (a.code, 8)]
  | .ret => packWord 0x06 []
  | .retx a => packWord 0x07 [(a.code, 8)]
  | .rcvp d => packWord 0x08 [(d.toNat, 0)]
  | .regang => packWord 0x09 []
  | .exit => packWord 0x0A []
  | .yield => packWord 0x0B []
  | .mode a => packWord 0x0C [(a.code, 8)]
  | .modef a i => packWord 0x0D [(a.code, 8), (i.toNat, 0)]
  | .trap d a c => packWord 0x0E [(d.code, 16), (a.code, 8), (c.toNat, 0)]
  | .brkpt => packWord 0x0F []
  | .sleep a => packWord 0x10 [(a.code, 8)]
  | .svc d a i => packWord 0x11 [(d.code, 16), (a.code, 8), (i.toNat, 0)]
  | .uintr d a b => packWord 0x12 [(d.code, 16), (a.code, 8), (b.code, 0)]
  | .uiret => packWord 0x13 []
  | .hret a => packWord 0x14 [(a.code, 8)]
  | .hkill => packWord 0x15 []
  | .xrd d a b => packWord 0x16 [(d.code, 16), (a.code, 8), (b.code, 0)]
  | .xwr a b => packWord 0x17 [(a.code, 8), (b.code, 0)]
  | .rdsr d s => packWord 0x18 [(d.code, 16), (s.toNat, 0)]
  | .wrsr a s => packWord 0x19 [(a.code, 8), (s.toNat, 0)]
  | .iadd d a b => packWord 0x20 [(d.code, 16), (a.code, 8), (b.code, 0)]
  | .isub d a b => packWord 0x21 [(d.code, 16), (a.code, 8), (b.code, 0)]
  | .imul d a b => packWord 0x22 [(d.code, 16), (a.code, 8), (b.code, 0)]
  | .imulh d a b => packWord 0x23 [(d.code, 16), (a.code, 8), (b.code, 0)]
  | .imad d a b => packWord 0x24 [(d.code, 16), (a.code, 8), (b.code, 0)]
  | .idiv d a b => packWord 0x25 [(d.code, 16), (a.code, 8), (b.code, 0)]
  | .irem d a b => packWord 0x26 [(d.code, 16), (a.code, 8), (b.code, 0)]
  | .imin d a b => packWord 0x27 [(d.code, 16), (a.code, 8), (b.code, 0)]
  | .imax d a b => packWord 0x28 [(d.code, 16), (a.code, 8), (b.code, 0)]
  | .iabs d a => packWord 0x29 [(d.code, 16), (a.code, 8)]
  | .ineg d a => packWord 0x2A [(d.code, 16), (a.code, 8)]
  | .icmp c p a b => packWord 0x2B [(c.code, 19), (p.val, 16), (a.code, 8), (b.code, 0)]
  | .lea d a b => packWord 0x2C [(d.code, 16), (a.code, 8), (b.code, 0)]
  | .imulw d a b => packWord 0x2D [(d.code, 16), (a.code, 8), (b.code, 0)]
  | .and d a b => packWord 0x30 [(d.code, 16), (a.code, 8), (b.code, 0)]
  | .or d a b => packWord 0x31 [(d.code, 16), (a.code, 8), (b.code, 0)]
  | .xor d a b => packWord 0x32 [(d.code, 16), (a.code, 8), (b.code, 0)]
  | .andn d a b => packWord 0x33 [(d.code, 16), (a.code, 8), (b.code, 0)]
  | .not d a => packWord 0x34 [(d.code, 16), (a.code, 8)]
  | .shl d a b => packWord 0x35 [(d.code, 16), (a.code, 8), (b.code, 0)]
  | .shr d a b => packWord 0x36 [(d.code, 16), (a.code, 8), (b.code, 0)]
  | .sar d a b => packWord 0x37 [(d.code, 16), (a.code, 8), (b.code, 0)]
  | .rotl d a b => packWord 0x38 [(d.code, 16), (a.code, 8), (b.code, 0)]
  | .popc d a => packWord 0x39 [(d.code, 16), (a.code, 8)]
  | .clz d a => packWord 0x3A [(d.code, 16), (a.code, 8)]
  | .ctz d a => packWord 0x3B [(d.code, 16), (a.code, 8)]
  | .brev d a => packWord 0x3C [(d.code, 16), (a.code, 8)]
  | .bfx d a b => packWord 0x3D [(d.code, 16), (a.code, 8), (b.code, 0)]
  | .bfi d a b => packWord 0x3E [(d.code, 16), (a.code, 8), (b.code, 0)]
  | .sel d a b => packWord 0x3F [(d.code, 16), (a.code, 8), (b.code, 0)]
  | .fadd d a b => packWord 0x40 [(d.code, 16), (a.code, 8), (b.code, 0)]
  | .fsub d a b => packWord 0x41 [(d.code, 16), (a.code, 8), (b.code, 0)]
  | .fmul d a b => packWord 0x42 [(d.code, 16), (a.code, 8), (b.code, 0)]
  | .ffma d a b => packWord 0x43 [(d.code, 16), (a.code, 8), (b.code, 0)]
  | .ffms d a b => packWord 0x44 [(d.code, 16), (a.code, 8), (b.code, 0)]
  | .fmin d a b => packWord 0x45 [(d.code, 16), (a.code, 8), (b.code, 0)]
  | .fmax d a b => packWord 0x46 [(d.code, 16), (a.code, 8), (b.code, 0)]
  | .fabs d a => packWord 0x47 [(d.code, 16), (a.code, 8)]
  | .fneg d a => packWord 0x48 [(d.code, 16), (a.code, 8)]
  | .fdiv d a b => packWord 0x49 [(d.code, 16), (a.code, 8), (b.code, 0)]
  | .fsqrt d a => packWord 0x4A [(d.code, 16), (a.code, 8)]
  | .frcp d a => packWord 0x4B [(d.code, 16), (a.code, 8)]
  | .frsq d a => packWord 0x4C [(d.code, 16), (a.code, 8)]
  | .fexp2 d a => packWord 0x4D [(d.code, 16), (a.code, 8)]
  | .flog2 d a => packWord 0x4E [(d.code, 16), (a.code, 8)]
  | .fcmp c p a b => packWord 0x4F [(c.code, 19), (p.val, 16), (a.code, 8), (b.code, 0)]
  | .fclass d a => packWord 0x50 [(d.code, 16), (a.code, 8)]
  | .frnd d a i => packWord 0x51 [(d.code, 16), (a.code, 8), (i.toNat, 0)]
  | .fscale d a b => packWord 0x52 [(d.code, 16), (a.code, 8), (b.code, 0)]
  | .cvt d a t => packWord 0x53 [(d.code, 16), (a.code, 8), (t.toNat, 0)]
  | .cvts d a b => packWord 0x54 [(d.code, 16), (a.code, 8), (b.code, 0)]
  | .ladd d a b => packWord 0x55 [(d.code, 16), (a.code, 8), (b.code, 0)]
  | .lmul d a b => packWord 0x56 [(d.code, 16), (a.code, 8), (b.code, 0)]
  | .fdot2 d a b => packWord 0x57 [(d.code, 16), (a.code, 8), (b.code, 0)]
  | .shfl d a b => packWord 0x60 [(d.code, 16), (a.code, 8), (b.code, 0)]
  | .shflu d a n => packWord 0x61 [(d.code, 16), (a.code, 8), (n.val, 0)]
  | .shfld d a n => packWord 0x62 [(d.code, 16), (a.code, 8), (n.val, 0)]
  | .shflx d a n => packWord 0x63 [(d.code, 16), (a.code, 8), (n.val, 0)]
  | .vote k p n q => packWord 0x64 [(k.val, 19), (p.val, 16), (n.toNat, 11), (q.val, 8)]
  | .ballot d n q => packWord 0x65 [(d.code, 16), (n.toNat, 11), (q.val, 8)]
  | .matchL d a => packWord 0x66 [(d.code, 16), (a.code, 8)]
  | .rdlane d a b => packWord 0x67 [(d.code, 16), (a.code, 8), (b.code, 0)]
  | .wrlane d a b => packWord 0x68 [(d.code, 16), (a.code, 8), (b.code, 0)]
  | .pand p n q m r => packWord 0x69 [(p.val, 16), (n.toNat, 11), (q.val, 8), (m.toNat, 3), (r.val, 0)]
  | .por p n q m r => packWord 0x6A [(p.val, 16), (n.toNat, 11), (q.val, 8), (m.toNat, 3), (r.val, 0)]
  | .pxor p n q m r => packWord 0x6B [(p.val, 16), (n.toNat, 11), (q.val, 8), (m.toNat, 3), (r.val, 0)]
  | .pnot p n q => packWord 0x6C [(p.val, 16), (n.toNat, 11), (q.val, 8)]
  | .pmov p a => packWord 0x6D [(p.val, 16), (a.code, 8)]
  | .pset p a i => packWord 0x6E [(p.val, 16), (a.code, 8), (i.val, 0)]
  | .mov d a => packWord 0x70 [(d.code, 16), (a.code, 8)]
  | .movu d a => packWord 0x71 [(d.code, 16), (a.code, 8)]
  | .kill a => packWord 0x72 [(a.code, 8)]
  | .sete a => packWord 0x73 [(a.code, 8)]
  | .setf a => packWord 0x74 [(a.code, 8)]
  | .testf d a => packWord 0x75 [(d.code, 16), (a.code, 8)]
  | .cinv a => packWord 0x76 [(a.code, 8)]
  | .shape h a => packWord 0x77 [(h.val, 16), (a.code, 8)]
  | .shapeq d h => packWord 0x78 [(d.code, 16), (h.val, 8)]
  | .fslot d f => packWord 0x79 [(d.code, 16), (f.val, 0)]
  | .ld d a b => packWord 0x80 [(d.code, 16), (a.code, 8), (b.code, 0)]
  | .st d a b => packWord 0x81 [(d.code, 16), (a.code, 8), (b.code, 0)]
  | .ldx d a b => packWord 0x82 [(d.code, 16), (a.code, 8), (b.code, 0)]
  | .stx d a b => packWord 0x83 [(d.code, 16), (a.code, 8), (b.code, 0)]
  | .lda d a b => packWord 0x84 [(d.code, 16), (a.code, 8), (b.code, 0)]
  | .stl d a b => packWord 0x85 [(d.code, 16), (a.code, 8), (b.code, 0)]
  | .ldp d a b => packWord 0x86 [(d.code, 16), (a.code, 8), (b.code, 0)]
  | .stp d a b => packWord 0x87 [(d.code, 16), (a.code, 8), (b.code, 0)]
  | .ldc d a b => packWord 0x88 [(d.code, 16), (a.code, 8), (b.code, 0)]
  | .fence => packWord 0x89 []
  | .pf a b => packWord 0x8B [(a.code, 8), (b.code, 0)]
  | .cctl a o => packWord 0x8C [(a.code, 8), (o.val, 0)]
  | .aadd d a b => packWord 0x90 [(d.code, 16), (a.code, 8), (b.code, 0)]
  | .afadd d a b => packWord 0x91 [(d.code, 16), (a.code, 8), (b.code, 0)]
  | .amin d a b => packWord 0x92 [(d.code, 16), (a.code, 8), (b.code, 0)]
  | .amax d a b => packWord 0x93 [(d.code, 16), (a.code, 8), (b.code, 0)]
  | .aand d a b => packWord 0x94 [(d.code, 16), (a.code, 8), (b.code, 0)]
  | .aor d a b => packWord 0x95 [(d.code, 16), (a.code, 8), (b.code, 0)]
  | .axor d a b => packWord 0x96 [(d.code, 16), (a.code, 8), (b.code, 0)]
  | .axch d a b => packWord 0x97 [(d.code, 16), (a.code, 8), (b.code, 0)]
  | .acas d a b => packWord 0x98 [(d.code, 16), (a.code, 8), (b.code, 0)]
  | .redadd a b => packWord 0x99 [(a.code, 8), (b.code, 0)]
  | .redfadd a b => packWord 0x9A [(a.code, 8), (b.code, 0)]
  | .redmin a b => packWord 0x9B [(a.code, 8), (b.code, 0)]
  | .redmax a b => packWord 0x9C [(a.code, 8), (b.code, 0)]
  | .cpy d a b => packWord 0xA0 [(d.code, 16), (a.code, 8), (b.code, 0)]
  | .cpy2 d a b => packWord 0xA1 [(d.code, 16), (a.code, 8), (b.code, 0)]
  | .gthr d a b => packWord 0xA2 [(d.code, 16), (a.code, 8), (b.code, 0)]
  | .sctr d a b => packWord 0xA3 [(d.code, 16), (a.code, 8), (b.code, 0)]
  | .waitc a c => packWord 0xA4 [(a.code, 8), (c.val, 0)]
  | .rdcnt d c => packWord 0xA5 [(d.code, 16), (c.val, 0)]
  | .htest d a => packWord 0xA6 [(d.code, 16), (a.code, 8)]
  | .hcanc d a => packWord 0xA7 [(d.code, 16), (a.code, 8)]
  | .hprom d a => packWord 0xA8 [(d.code, 16), (a.code, 8)]
  | .hstat d a => packWord 0xA9 [(d.code, 16), (a.code, 8)]
  | .coll d a o k => packWord 0xAA [(d.code, 16), (a.code, 8), (o.val, 4), (k.val, 0)]
  | .bar a l n => packWord 0xB0 [(a.code, 8), (l.val, 6), (n.val, 0)]
  | .bara a l n => packWord 0xB1 [(a.code, 8), (l.val, 6), (n.val, 0)]
  | .barw l n => packWord 0xB2 [(l.val, 6), (n.val, 0)]
  | .barq d l n => packWord 0xB3 [(d.code, 16), (l.val, 6), (n.val, 0)]
  | .rsb => packWord 0xB4 []
  | .rse => packWord 0xB5 []
  | .gpwait a => packWord 0xB6 [(a.code, 8)]
  | .gpseq d => packWord 0xB7 [(d.code, 16)]
  | .dfree a b => packWord 0xB8 [(a.code, 8), (b.code, 0)]
  | .qpush d a b => packWord 0xB9 [(d.code, 16), (a.code, 8), (b.code, 0)]
  | .qpop d a => packWord 0xBA [(d.code, 16), (a.code, 8)]
  | .qtry k p a b => packWord 0xBB [(k.val, 19), (p.val, 16), (a.code, 8), (b.code, 0)]
  | .mma h g t a b => packWord 0xC0 [(h.val, 21), (g.val, 18), (t.val, 16), (a.code, 8), (b.code, 0)]
  | .mmas h g t a b => packWord 0xC1 [(h.val, 21), (g.val, 18), (t.val, 16), (a.code, 8), (b.code, 0)]
  | .mmal h g t a b => packWord 0xC2 [(h.val, 21), (g.val, 18), (t.val, 16), (a.code, 8), (b.code, 0)]
  | .accz w t => packWord 0xC3 [(w.toNat, 18), (t.val, 16)]
  | .accrd d w t b => packWord 0xC4 [(d.code, 16), (w.toNat, 10), (t.val, 8), (b.code, 0)]
  | .accwr w t a b => packWord 0xC5 [(w.toNat, 18), (t.val, 16), (a.code, 8), (b.code, 0)]
  | .csld d a b => packWord 0xC6 [(d.code, 16), (a.code, 8), (b.code, 0)]
  | .gang a => packWord 0xC7 [(a.code, 8)]
  | .mxhint a => packWord 0xC8 [(a.code, 8)]
  | .mxgemm d a b => packWord 0xC9 [(d.code, 16), (a.code, 8), (b.code, 0)]
  | .quant d a b => packWord 0xCA [(d.code, 16), (a.code, 8), (b.code, 0)]
  | .mxstat d s => packWord 0xCB [(d.code, 16), (s.val, 0)]
  | .hfam d a n => packWord 0xD0 [(d.code, 16), (a.code, 8), (n.val, 0)]
  | .hash d a b => packWord 0xD1 [(d.code, 16), (a.code, 8), (b.code, 0)]
  | .probe d a b => packWord 0xD2 [(d.code, 16), (a.code, 8), (b.code, 0)]
  | .tins d a b => packWord 0xD3 [(d.code, 16), (a.code, 8), (b.code, 0)]
  | .tdel d a b => packWord 0xD4 [(d.code, 16), (a.code, 8), (b.code, 0)]
  | .rehash d a b => packWord 0xD5 [(d.code, 16), (a.code, 8), (b.code, 0)]
  | .rmul d a b => packWord 0xD6 [(d.code, 16), (a.code, 8), (b.code, 0)]
  | .tstat d s n => packWord 0xD7 [(d.code, 16), (s.val, 4), (n.val, 0)]
  | .tfence => packWord 0xD8 []
  | .mbxget d => packWord 0xE0 [(d.code, 16)]
  | .mbxput d a b => packWord 0xE1 [(d.code, 16), (a.code, 8), (b.code, 0)]
  | .tlbi d a k => packWord 0xE2 [(d.code, 16), (a.code, 8), (k.val, 0)]
  | .ctxld d a b => packWord 0xE3 [(d.code, 16), (a.code, 8), (b.code, 0)]
  | .ctxst d a b => packWord 0xE4 [(d.code, 16), (a.code, 8), (b.code, 0)]
  | .pmset d a s => packWord 0xE5 [(d.code, 16), (a.code, 8), (s.toNat, 0)]
  | .reservedOpcode w => w.toNat
  | .bundleFetch _ _ => noWord
  | .arrival _ _ => noWord
  | .longLatencyComplete _ => noWord
  | .pageWalkComplete _ _ _ => noWord
  | .exchange _ => noWord
  | .forcedExchange _ => noWord
  | .registersDrowsy _ => noWord
  | .groupPark _ => noWord
  | .sleepWake _ => noWord
  | .userInterruptDelivery _ => noWord
  | .late _ => noWord
  | .engineOpComplete _ => noWord
  | .matrixStepEnd _ => noWord
  | .rampupEnd _ => noWord
  | .rampdownEnd _ => noWord
  | .heldTimeout _ => noWord
  | .hintEffect _ _ => noWord
  | .gangStepAccept _ => noWord
  | .macroStep _ => noWord
  | .queueRequestServe _ => noWord
  | .queueAnswer _ => noWord
  | .tableUpdateStep _ => noWord
  | .bucketCacheDrop _ => noWord
  | .gracePeriodComplete _ => noWord
  | .releaseRingAppend _ => noWord
  | .consumerReread _ => noWord
  | .recordFiled _ => noWord
  | .collectionWindow _ _ => noWord
  | .handlerPlacement _ _ => noWord
  | .laneResumed _ => noWord
  | .rejoinLimit _ => noWord
  | .softErrorCorrected _ _ _ => noWord
  | .softerr _ _ => noWord
  | .uncorrectableShared _ _ _ _ => noWord
  | .curatorReload _ => noWord
  | .curatorImageHandoff _ => noWord
  | .launchCheck _ => noWord
  | .blockPlacement _ => noWord
  | .kernelRetire _ => noWord
  | .contextSaveComplete _ => noWord
  | .sealCtx _ => noWord
  | .checkpoint _ => noWord
  | .migrate _ => noWord
  | .restore _ => noWord
  | .importCtx _ => noWord
  | .contextOpComplete _ => noWord
  | .deviceReset => noWord
  | .powerOn => noWord
  | .invalidationTimeout _ => noWord
  | .invalidationAck _ => noWord
  | .tokenRefill => noWord
  | .predictorQuiet _ _ => noWord
  | .create _ _ _ _ => noWord
  | .destroy _ _ => noWord
  | .launch _ _ _ => noWord
  | .killRequest _ _ _ => noWord
  | .preempt _ _ => noWord
  | .resume _ _ => noWord
  | .regionSync _ _ => noWord
  | .inval _ _ _ _ _ => noWord
  | .qgrant _ _ _ _ _ _ => noWord
  | .qrevoke _ _ _ => noWord
  | .svcNop _ _ => noWord
  | .svcLaunch _ _ => noWord
  | .svcKill _ _ => noWord
  | .yieldctx _ _ => noWord
  | .fwver _ _ => noWord
  | .qiEnable _ _ => noWord
  | .qiDisable _ => noWord
  | .notify _ _ _ _ _ => noWord
  | .pasidRevoke _ => noWord
  | .tdispError _ => noWord
  | .latencyToleranceWrite _ => noWord
  | .powerStateEntry => noWord
  | .powerStateExit _ => noWord
  | .readbackRead _ => noWord
  | .readbackWrite _ _ => noWord
  | .debugStopArm _ _ => noWord
  | .debugRelease _ => noWord
  | .deviceNumberWrite _ => noWord
  | .assignmentWordWrite _ _ _ => noWord
  | .zeroingComplete _ _ => noWord
  | .registerWrite _ _ _ => noWord
  | .portEnable _ => noWord
  | .portDisable _ => noWord
  | .lanesTrained _ _ => noWord
  | .trainingTimeout _ => noWord
  | .flitReceived _ _ _ _ => noWord
  | .ackTimeout _ => noWord
  | .replayLimit _ => noWord
  | .retrainTimeout _ => noWord
  | .peerRequestServe _ _ _ _ _ => noWord
  | .getMeasurements _ => noWord
  | .challenge _ => noWord
  | .keyExchange _ => noWord
  | .accessPerformed _ => noWord
  | .homeUnitAnswer _ => noWord
  | .originQuadrantAnswer _ => noWord
  | .requestRecordChecked _ => noWord
  | .codeInvalidationDone _ => noWord
  | .ringReadError _ => noWord
  | .badpkt _ => noWord
  | .tdispStateChange _ _ => noWord
  | .powerRemoval => noWord
  | .routeTableWrite _ _ _ => noWord
  | .msixVectorUnmask _ _ => noWord

/-- What the decoder reads from an instruction given by the opcode table's bits. -/
def decodeTableWord (nbits w : Nat) : Option Instr :=
  match decode (w % 2 ^ nbits % 2 ^ 32) with
  | .ok i => some i
  | .error _ => none

end Sys2Proof
end

