-- ==== Sys2Proof/Machine/Flags.lean ====
section
/-!
DEFINITION. Flags.lean: number formats, exact values, the rounding operation Round with its flags, and the LNS8 and
scale formats (chapter "Number Formats and Exact Arithmetic", R40 to R54).
An exact finite value is a sign, a magnitude m and an exponent e: m times 2^e.
-/
namespace Sys2Proof.Machine

/-- The four numeric flags (R46). -/
structure Flags where
  invalid : Bool := false
  divZero : Bool := false
  overflow : Bool := false
  underflow : Bool := false
  deriving DecidableEq, Repr

/-- The flags raised by either of two operations. -/
def Flags.join (a b : Flags) : Flags :=
  { invalid := a.invalid || b.invalid, divZero := a.divZero || b.divZero
    overflow := a.overflow || b.overflow, underflow := a.underflow || b.underflow }

/-- The status bits [3:0] of a trap record (R47). -/
def Flags.toNat (f : Flags) : Nat :=
  f.invalid.toNat + 2 * f.divZero.toNat + 4 * f.overflow.toNat + 8 * f.underflow.toNat

/-- The rounding modes of RND (R43). -/
inductive Rnd where
  | rne | rtz | rup | rdn | rna
  deriving DecidableEq, Repr

/-- The rounding mode of an RND code; the codes 5 to 7 never stand in a mode register (R73). -/
def Rnd.ofCode (n : Nat) : Rnd :=
  match n with
  | 1 => .rtz
  | 2 => .rup
  | 3 => .rdn
  | 4 => .rna
  | _ => .rne

/-- The element types of ETYPE (R40). -/
inductive EType where
  | fp64 | fp32 | bf16 | fp16 | bf16x2 | fp16x2 | lns8 | u8 | u16 | u32 | u64 | i8 | i16 | i32 | i64
  deriving DecidableEq, Repr

/-- The type of an ETYPE code; 7 and 16 to 31 name none (R40). -/
def EType.ofCode (n : Nat) : Option EType :=
  match n with
  | 0 => some .fp64 | 1 => some .fp32 | 2 => some .bf16 | 3 => some .fp16 | 4 => some .bf16x2 | 5 => some .fp16x2
  | 6 => some .lns8 | 8 => some .u8 | 9 => some .u16 | 10 => some .u32 | 11 => some .u64 | 12 => some .i8
  | 13 => some .i16 | 14 => some .i32 | 15 => some .i64 | _ => none

/-- A binary floating-point format: exponent bits and fraction bits (R41). -/
structure Fmt where
  ebits : Nat
  fbits : Nat
  deriving DecidableEq, Repr

/-- FP64. -/
def Fmt.fp64 : Fmt := { ebits := 11, fbits := 52 }
/-- FP32. -/
def Fmt.fp32 : Fmt := { ebits := 8, fbits := 23 }
/-- FP16. -/
def Fmt.fp16 : Fmt := { ebits := 5, fbits := 10 }
/-- BF16. -/
def Fmt.bf16 : Fmt := { ebits := 8, fbits := 7 }

/-- The exponent bias. -/
def Fmt.bias (f : Fmt) : Nat := 2 ^ (f.ebits - 1) - 1
/-- Bits of an element. -/
def Fmt.width (f : Fmt) : Nat := 1 + f.ebits + f.fbits
/-- The sign bit's weight. -/
def Fmt.signW (f : Fmt) : Nat := 2 ^ (f.ebits + f.fbits)
/-- The bits of plus infinity. -/
def Fmt.infBits (f : Fmt) : Nat := (2 ^ f.ebits - 1) * 2 ^ f.fbits
/-- The bits of the largest finite value. -/
def Fmt.maxBits (f : Fmt) : Nat := f.infBits - 1
/-- The bits of the canonical NaN (R41, R42). -/
def Fmt.nanBits (f : Fmt) : Nat := f.infBits + 2 ^ (f.fbits - 1)
/-- The exponent of the smallest subnormal. -/
def Fmt.emin (f : Fmt) : Int := 1 - (f.bias : Int) - f.fbits

/-- How a type is laid out: one float, a packed pair, a log number or an integer. -/
inductive Kind where
  | flt (f : Fmt)
  | packed (f : Fmt)
  | lns
  | int (w : Nat) (signed : Bool)
  deriving DecidableEq, Repr

/-- The kind of an element type (R40). -/
def EType.kind (t : EType) : Kind :=
  match t with
  | .fp64 => .flt .fp64
  | .fp32 => .flt .fp32
  | .bf16 => .flt .bf16
  | .fp16 => .flt .fp16
  | .bf16x2 => .packed .bf16
  | .fp16x2 => .packed .fp16
  | .lns8 => .lns
  | .u8 => .int 8 false
  | .u16 => .int 16 false
  | .u32 => .int 32 false
  | .u64 => .int 64 false
  | .i8 => .int 8 true
  | .i16 => .int 16 true
  | .i32 => .int 32 true
  | .i64 => .int 64 true

/-- Width(t), in bits (R147). -/
def EType.width (t : EType) : Nat :=
  match t.kind with
  | .flt f => f.width
  | .packed f => 2 * f.width
  | .lns => 8
  | .int w _ => w

/-- Bytes of an element in memory (R40). -/
def EType.bytes (t : EType) : Nat := t.width / 8

/-- Signed(t) (R147). -/
def EType.signed (t : EType) : Bool :=
  match t.kind with
  | .int _ sg => sg
  | _ => false

/-- Whether a type is an integer type: set INT (R147). -/
def EType.isInt (t : EType) : Bool :=
  match t.kind with
  | .int _ _ => true
  | _ => false

/-- Set FLT (R147). -/
def EType.isFlt (t : EType) : Bool :=
  match t.kind with
  | .flt _ | .packed _ => true
  | _ => false

/-- Whether a type is a packed pair. -/
def EType.isPacked (t : EType) : Bool :=
  match t.kind with
  | .packed _ => true
  | _ => false

/-- Int(r, w, sg): the low w bits of r, signed when sg (R149). -/
def intOf (r w : Nat) (sg : Bool) : Int :=
  let v := r % 2 ^ w
  if sg && v ≥ 2 ^ (w - 1) then (v : Int) - (2 ^ w : Nat) else v

/-- Range limits of an integer type (R48). -/
def intMin (w : Nat) (sg : Bool) : Int := if sg then -((2 ^ (w - 1) : Nat) : Int) else 0
/-- Range limits of an integer type (R48). -/
def intMax (w : Nat) (sg : Bool) : Int := if sg then ((2 ^ (w - 1) : Nat) : Int) - 1 else ((2 ^ w : Nat) : Int) - 1

/-- The register image of an exact integer taken modulo 2^w (R40, R49). -/
def intImage (v : Int) (w : Nat) (sg : Bool) : Word := BitVec.ofInt 64 (intOf (v % (2 ^ w : Nat)).toNat w sg)

/-- Clamp to the type's range (R49). -/
def clampInt (v : Int) (w : Nat) (sg : Bool) : Int :=
  if v > intMax w sg then intMax w sg else if v < intMin w sg then intMin w sg else v

/-- Fit(v, w, sg) of R149. -/
def fitInt (sat : Bool) (v : Int) (w : Nat) (sg : Bool) : Word :=
  intImage (if sat then clampInt v w sg else v) w sg

/-- The exact value an element stands for. -/
inductive Val where
  | nan (signalling : Bool)
  | inf (neg : Bool)
  /-- (-1)^neg times m times 2^e; a zero keeps its sign. -/
  | num (neg : Bool) (m : Nat) (e : Int)
  deriving DecidableEq, Repr

/-- Whether a value is a NaN. -/
def Val.isNan (v : Val) : Bool :=
  match v with
  | .nan _ => true
  | _ => false

/-- Whether a value is a signalling NaN. -/
def Val.isSNan (v : Val) : Bool :=
  match v with
  | .nan sg => sg
  | _ => false

/-- Whether a value is zero. -/
def Val.isZero (v : Val) : Bool :=
  match v with
  | .num _ m _ => m == 0
  | _ => false

/-- The sign of a value. -/
def Val.neg (v : Val) : Bool :=
  match v with
  | .nan _ => false
  | .inf n => n
  | .num n _ _ => n

/-- The value with its sign inverted. -/
def Val.negate (v : Val) : Val :=
  match v with
  | .nan s => .nan s
  | .inf n => .inf (!n)
  | .num n m e => .num (!n) m e

/-- The value of a float's bits (R41, R42). -/
def Fmt.unpack (f : Fmt) (bits : Nat) : Val :=
  let b := bits % 2 ^ f.width
  let neg := b / f.signW % 2 == 1
  let ex := b / 2 ^ f.fbits % 2 ^ f.ebits
  let fr := b % 2 ^ f.fbits
  if ex == 2 ^ f.ebits - 1 then
    if fr == 0 then .inf neg else .nan (fr < 2 ^ (f.fbits - 1))
  else if ex == 0 then .num neg fr f.emin
  else .num neg (2 ^ f.fbits + fr) (f.emin + (ex - 1 : Nat))

/-- Whether a value's bits are subnormal. -/
def Fmt.isSubnormal (f : Fmt) (bits : Nat) : Bool :=
  bits / 2 ^ f.fbits % 2 ^ f.ebits == 0 && bits % 2 ^ f.fbits != 0

/-- The flush of a subnormal operand's bits under FTZ (R45). -/
def Fmt.flush (f : Fmt) (ftz : Bool) (bits : Nat) : Nat :=
  if ftz && f.isSubnormal bits then bits % 2 ^ f.width / f.signW * f.signW else bits % 2 ^ f.width

/-- The operand of a floating-point instruction (R45). -/
def Fmt.operand (f : Fmt) (ftz : Bool) (bits : Nat) : Val := f.unpack (f.flush ftz bits)

/-- The bits of a signed zero. -/
def Fmt.zeroBits (f : Fmt) (neg : Bool) : Nat := if neg then f.signW else 0
/-- The bits of a signed infinity. -/
def Fmt.infOf (f : Fmt) (neg : Bool) : Nat := f.zeroBits neg + f.infBits

/-- A result: its bits and the flags it raises. -/
structure FRes where
  bits : Nat
  flags : Flags := {}
  deriving DecidableEq, Repr

/-- The canonical NaN of a format, with or without invalid. -/
def Fmt.nanRes (f : Fmt) (invalid : Bool) : FRes := { bits := f.nanBits, flags := { invalid := invalid } }

/-- Whether the discarded part rem of d bits, with the sticky bit, rounds the magnitude up (R43). -/
def roundsUp (rm : Rnd) (neg : Bool) (mant rem d : Nat) (sticky : Bool) : Bool :=
  let half := 2 ^ (d - 1)
  match rm with
  | .rne => rem > half || (rem == half && (sticky || mant % 2 == 1))
  | .rna => rem ≥ half
  | .rtz => false
  | .rup => !neg && (rem != 0 || sticky)
  | .rdn => neg && (rem != 0 || sticky)

/-- A magnitude m with its lowest d bits (d > 0) rounded off, and whether anything was lost. -/
def roundOff (rm : Rnd) (neg : Bool) (m d : Nat) (sticky : Bool) : Nat × Bool :=
  let k := min d (Nat.log2 m + 2)
  let q := m / 2 ^ k
  let rem := m % 2 ^ k
  (if roundsUp rm neg q rem k sticky then q + 1 else q, rem != 0 || sticky)

/-- The overflow result of R44. -/
def Fmt.overflowBits (f : Fmt) (rm : Rnd) (neg : Bool) : Nat :=
  let toInf := match rm with
    | .rne | .rna => true
    | .rtz => false
    | .rup => !neg
    | .rdn => neg
  f.zeroBits neg + if toInf then f.infBits else f.maxBits

/-- Round(x, t, m) for a nonzero x (R44): x lies at m times 2^e, or, with sticky, strictly between that and the next multiple
of 2^e. Sticky is used only where m has at least 66 bits. -/
def Fmt.round (f : Fmt) (ftz : Bool) (rm : Rnd) (neg : Bool) (m : Nat) (e : Int) (sticky : Bool := false) : FRes :=
  let m := m * 2 ^ 66
  let e := e - 66
  let lead : Int := Nat.log2 m + e
  let d := Nat.log2 m - f.fbits
  let r := roundOff rm neg m d sticky
  let carried := r.1 == 2 ^ (f.fbits + 1)
  let biased : Int := lead + f.bias
  if biased + (if carried then 1 else 0) ≥ (2 ^ f.ebits : Nat) - 1 then
    { bits := f.overflowBits rm neg, flags := { overflow := true } }
  else if biased < 1 then
    if ftz then { bits := f.zeroBits neg, flags := { underflow := true } }
    else
      let r := roundOff rm neg m (f.emin - e).toNat sticky
      { bits := f.zeroBits neg + r.1, flags := { underflow := r.2 } }
  else { bits := f.zeroBits neg + (biased.toNat * 2 ^ f.fbits + (r.1 - 2 ^ f.fbits)) }

/-- Round for an exact value whose sign is kept when it is zero. -/
def Fmt.roundVal (f : Fmt) (ftz : Bool) (rm : Rnd) (v : Val) : FRes :=
  match v with
  | .nan sg => f.nanRes sg
  | .inf n => { bits := f.infOf n }
  | .num n m e => if m = 0 then { bits := f.zeroBits n } else f.round ftz rm n m e

/-- A finite value as a signed multiple of 2^base, where base is at most its exponent. -/
def alignTo (neg : Bool) (m : Nat) (e base : Int) : Int :=
  let v : Int := (m * 2 ^ (e - base).toNat : Nat)
  if neg then -v else v

/-- The value of a signed multiple of 2^e, or the given signed zero. -/
def ofScaled (v : Int) (e : Int) (zeroNeg : Bool) : Val :=
  if v = 0 then .num zeroNeg 0 0 else .num (v < 0) v.natAbs e

/-- An exact sum (R44, step 5 for zeros; invalid for opposite infinities). The flag is raised also for a signalling NaN. -/
def Val.add (rm : Rnd) (a b : Val) : Val × Bool :=
  match a, b with
  | .nan s, y => (.nan false, s || y.isSNan)
  | x, .nan s => (.nan false, s || x.isSNan)
  | .inf n, .inf k => if n == k then (.inf n, false) else (.nan false, true)
  | .inf n, _ => (.inf n, false)
  | _, .inf n => (.inf n, false)
  | .num n m e, .num k p g =>
    let base := min e g
    (ofScaled (alignTo n m e base + alignTo k p g base) base (if n == k then n else rm == .rdn), false)

/-- An exact product (zero times infinity is invalid). -/
def Val.mul (a b : Val) : Val × Bool :=
  match a, b with
  | .nan s, y => (.nan false, s || y.isSNan)
  | x, .nan s => (.nan false, s || x.isSNan)
  | .inf n, y => if y.isZero then (.nan false, true) else (.inf (xor n y.neg), false)
  | x, .inf n => if x.isZero then (.nan false, true) else (.inf (xor n x.neg), false)
  | .num n m e, .num k p g => (.num (xor n k) (m * p) (e + g), false)

/-- A rounded result with an additional invalid flag. -/
def FRes.raise (r : FRes) (invalid : Bool) : FRes :=
  { r with flags := { r.flags with invalid := r.flags.invalid || invalid } }

/-- A value of the pair (value, invalid) rounded once (R62). -/
def Fmt.finish (f : Fmt) (ftz : Bool) (rm : Rnd) (v : Val × Bool) : FRes := (f.roundVal ftz rm v.1).raise v.2

/-- Integer square root by bits, k bits still to try. -/
def isqrtGo (n : Nat) (k r : Nat) : Nat :=
  match k with
  | 0 => r
  | k + 1 =>
    let t := r + 2 ^ k
    isqrtGo n k (if t * t ≤ n then t else r)

/-- The integer square root. -/
def isqrt (n : Nat) : Nat := isqrtGo n (Nat.log2 n / 2 + 1) 0

/-- FDIV (R156). -/
def Fmt.div (f : Fmt) (ftz : Bool) (rm : Rnd) (a b : Val) : FRes :=
  match a, b with
  | .nan s, y => f.nanRes (s || y.isSNan)
  | x, .nan s => f.nanRes (s || x.isSNan)
  | .inf _, .inf _ => f.nanRes true
  | .inf n, y => { bits := f.infOf (xor n y.neg) }
  | x, .inf n => { bits := f.zeroBits (xor n x.neg) }
  | .num n m e, .num k p g =>
    let neg := xor n k
    if p = 0 then
      if m = 0 then f.nanRes true else { bits := f.infOf neg, flags := { divZero := true } }
    else if m = 0 then { bits := f.zeroBits neg }
    else
      let num := m * 2 ^ 160
      f.round ftz rm neg (num / p) (e - g - 160) (num % p != 0)

/-- FSQRT (R156). -/
def Fmt.sqrt (f : Fmt) (ftz : Bool) (rm : Rnd) (a : Val) : FRes :=
  match a with
  | .nan s => f.nanRes s
  | .inf n => if n then f.nanRes true else { bits := f.infOf false }
  | .num n m e =>
    if m = 0 then { bits := f.zeroBits n }
    else if n then f.nanRes true
    else
      let odd := (e % 2).toNat
      let x := m * 2 ^ (200 + odd)
      let r := isqrt x
      f.round ftz rm false r ((e - odd - 200) / 2) (r * r != x)

/-- FRSQ (R156). -/
def Fmt.rsqrt (f : Fmt) (ftz : Bool) (rm : Rnd) (a : Val) : FRes :=
  match a with
  | .nan s => f.nanRes s
  | .inf n => if n then f.nanRes true else { bits := f.zeroBits false }
  | .num n m e =>
    if m = 0 then { bits := f.infOf n, flags := { divZero := true } }
    else if n then f.nanRes true
    else
      let odd := (e % 2).toNat
      let y := m * 2 ^ odd
      let r := isqrt (2 ^ 320 / y)
      f.round ftz rm false r (-((e - odd) / 2) - 160) (r * r * y != 2 ^ 320)

/-- The natural logarithm of 2, times 2^320, truncated. -/
def ln2Fixed : Nat :=
  0xb17217f7d1cf79abc9e3b39803f2f6af40f343267298b62d8a0d175b8baafa2be7b876206debac98

/-- The sum of x^k / k! from k on, all times 2^320; fuel terms. -/
def expTail (x : Nat) (fuel k term acc : Nat) : Nat :=
  match fuel with
  | 0 => acc
  | fuel + 1 =>
    let t := term * x / 2 ^ 320 / k
    expTail x fuel (k + 1) t (acc + t)

/-- The sum of z^(2k+1) / (2k+1) from k on, all times 2^320; z2 is z squared. -/
def atanhTail (z2 : Nat) (fuel k power acc : Nat) : Nat :=
  match fuel with
  | 0 => acc
  | fuel + 1 => atanhTail z2 fuel (k + 2) (power * z2 / 2 ^ 320) (acc + power / k)

/-- FEXP2 (R156). An argument that is no integer has an irrational power of 2, computed to about 310 bits; log 10. -/
def Fmt.exp2 (f : Fmt) (ftz : Bool) (rm : Rnd) (a : Val) : FRes :=
  match a with
  | .nan s => f.nanRes s
  | .inf n => if n then { bits := f.zeroBits false } else { bits := f.infOf false }
  | .num n m e =>
    if m = 0 then f.round ftz rm false 1 0
    else if Nat.log2 m + e < -80 then
      if n then f.round ftz rm false (2 ^ 320 - 1) (-320) true else f.round ftz rm false (2 ^ 320) (-320) true
    else if Nat.log2 m + e > 20 then f.round ftz rm false 1 (if n then -2097152 else 2097152)
    else
      let fx : Int := if e ≥ 0 then (m * 2 ^ (e.toNat + 320) : Nat) else (m * 2 ^ 320 / 2 ^ (-e).toNat : Nat)
      let fx := if n then -fx else fx
      let whole := fx / (2 ^ 320 : Nat)
      let frac := (fx % (2 ^ 320 : Nat)).toNat
      if frac = 0 then f.round ftz rm false 1 whole
      else
        let x := frac * ln2Fixed / 2 ^ 320
        f.round ftz rm false (expTail x 80 1 (2 ^ 320) (2 ^ 320)) (whole - 320) true

/-- FLOG2 (R156). The logarithm of a value that is no power of 2 is irrational, computed to about 310 bits; log 10. -/
def Fmt.log2 (f : Fmt) (ftz : Bool) (rm : Rnd) (a : Val) : FRes :=
  match a with
  | .nan s => f.nanRes s
  | .inf n => if n then f.nanRes true else { bits := f.infOf false }
  | .num n m e =>
    if m = 0 then { bits := f.infOf true, flags := { divZero := true } }
    else if n then f.nanRes true
    else
      let k := Nat.log2 m
      let lead : Int := k + e
      if m = 2 ^ k then f.roundVal ftz rm (ofScaled lead 0 false)
      else
        let z := (m - 2 ^ k) * 2 ^ 320 / (m + 2 ^ k)
        let at2 := 2 * atanhTail (z * z / 2 ^ 320) 110 1 z 0
        let fr : Nat := at2 * 2 ^ 320 / ln2Fixed
        let v := lead * (2 ^ 320 : Nat) + fr
        f.round ftz rm (v < 0) v.natAbs (-320) true

/-- FSCALE: a times 2^n (R155, R156). -/
def Fmt.scale (f : Fmt) (ftz : Bool) (rm : Rnd) (a : Val) (n : Int) : FRes :=
  match a with
  | .num s m e => f.roundVal ftz rm (.num s m (e + n))
  | v => f.roundVal ftz rm v

/-- A magnitude m times 2^e rounded to an integer. -/
def roundInt (rm : Rnd) (neg : Bool) (m : Nat) (e : Int) : Nat :=
  if e ≥ 0 then m * 2 ^ e.toNat
  else if m = 0 then 0
  else (roundOff rm neg m (-e).toNat false).1

/-- FRND: rounding to an integral value that keeps the sign (R157). -/
def Fmt.rint (f : Fmt) (rm : Rnd) (bits : Nat) (a : Val) : FRes :=
  match a with
  | .nan s => f.nanRes s
  | .inf n => { bits := f.infOf n }
  | .num n m e =>
    if e ≥ 0 then { bits := bits }
    else
      let r := roundInt rm n m e
      if r = 0 then { bits := f.zeroBits n } else f.round false rm n r 0

/-- Numeric order of two values that are no NaN: -1, 0 or 1. -/
def Val.cmp (a b : Val) : Int :=
  match a, b with
  | .inf n, .inf k => if n == k then 0 else if n then -1 else 1
  | .inf n, _ => if n then -1 else 1
  | _, .inf n => if n then 1 else -1
  | .num n m e, .num k p g =>
    let base := min e g
    let d := alignTo n m e base - alignTo k p g base
    if d < 0 then -1 else if d = 0 then 0 else 1
  | .nan _, _ => 0
  | _, .nan _ => 0

/-- FMIN and FMAX on bits already flushed (R157). -/
def Fmt.minMax (f : Fmt) (isMax : Bool) (x y : Nat) : FRes :=
  let a := f.unpack x
  let b := f.unpack y
  let fl : Flags := { invalid := a.isSNan || b.isSNan }
  if a.isNan && b.isNan then { bits := f.nanBits, flags := fl }
  else if a.isNan then { bits := y, flags := fl }
  else if b.isNan then { bits := x, flags := fl }
  else
    let c := a.cmp b
    let less := c < 0 || (c = 0 && a.neg && !b.neg)
    { bits := if less != isMax then x else y, flags := fl }

/-- FCLASS of one element (R157). -/
def Val.classBit (v : Val) (subnormal : Bool) : Nat :=
  match v with
  | .nan s => if s then 8 else 9
  | .inf n => if n then 0 else 7
  | .num n m _ =>
    if m = 0 then (if n then 3 else 4)
    else if subnormal then (if n then 2 else 5)
    else if n then 1 else 6

/-! ### LNS8 (R51 to R53) and scales (R54) -/

/-- The kinds of an LNS8 code. -/
inductive Lns where
  | fin (neg : Bool) (n : Int)
  | zero (neg : Bool)
  | inf (neg : Bool)
  | nan
  deriving DecidableEq, Repr

/-- Reading an LNS8 code; a non-canonical code is a NaN (R51). -/
def Lns.ofCode (c : Nat) : Lns :=
  let neg := c / 128 % 2 == 1
  let l := c % 32
  match c / 32 % 4 with
  | 0 => .fin neg (intOf l 5 true)
  | 1 => if l = 0 then .zero neg else .nan
  | 2 => if l = 0 then .inf neg else .nan
  | _ => .nan

/-- The canonical code. -/
def Lns.code (v : Lns) : Nat :=
  match v with
  | .fin neg n => (if neg then 128 else 0) + (n % 32).toNat
  | .zero neg => if neg then 0xA0 else 0x20
  | .inf neg => if neg then 0xC0 else 0x40
  | .nan => 0x60

/-- The table T (R51). -/
def lnsT (i : Nat) : Nat :=
  match i with
  | 0 => 0x800000
  | 1 => 0x9837F0
  | 2 => 0xB504F3
  | _ => 0xD744FD

/-- The linear value of an LNS8 code (R51). -/
def Lns.linear (v : Lns) : Val :=
  match v with
  | .fin neg n => .num neg (lnsT (n % 4).toNat) (n / 4 - 23)
  | .zero neg => .num neg 0 0
  | .inf neg => .inf neg
  | .nan => .nan false

/-- Whether a directed rounding takes a magnitude outwards. -/
def outward (rm : Rnd) (neg : Bool) : Bool :=
  match rm with
  | .rup => !neg
  | .rdn => neg
  | _ => false

/-- Range handling of an integer log (R52, steps 3 and 4). -/
def lnsRange (rm : Rnd) (neg : Bool) (n : Int) : FRes :=
  let s := if neg then 128 else 0
  if n > 15 then
    let toInf := match rm with
      | .rne | .rna => true
      | .rtz => false
      | _ => outward rm neg
    { bits := s + if toInf then 0x40 else 0x0F, flags := { overflow := true } }
  else if n < -16 then
    { bits := s + if outward rm neg then 0x10 else 0x20, flags := { underflow := true } }
  else { bits := (Lns.fin neg n).code }

/-- A real value turned into LNS8 (R52). The logarithm in quarters is found by exact powers. -/
def toLns (rm : Rnd) (v : Val) : FRes :=
  match v with
  | .nan _ => { bits := 0x60 }
  | .inf n => { bits := (Lns.inf n).code }
  | .num neg m e =>
    if m = 0 then { bits := (Lns.zero neg).code }
    else
      let fl : Int := Nat.log2 (m ^ 4) + 4 * e
      let exact := m == 2 ^ Nat.log2 m
      let eighth : Int := Nat.log2 (m ^ 8) + 8 * e
      let n := match rm with
        | .rne | .rna => (eighth + 1) / 2
        | .rtz => fl
        | _ => if outward rm neg && !exact then fl + 1 else fl
      lnsRange rm neg n

/-- LMUL (R53). -/
def lnsMul (rm : Rnd) (a b : Lns) : FRes :=
  match a, b with
  | .nan, _ => { bits := 0x60 }
  | _, .nan => { bits := 0x60 }
  | .inf _, .zero _ => { bits := 0x60, flags := { invalid := true } }
  | .zero _, .inf _ => { bits := 0x60, flags := { invalid := true } }
  | .fin s n, .fin t k => lnsRange rm (xor s t) (n + k)
  | .inf s, .inf t => { bits := (Lns.inf (xor s t)).code }
  | .inf s, .fin t _ => { bits := (Lns.inf (xor s t)).code }
  | .fin s _, .inf t => { bits := (Lns.inf (xor s t)).code }
  | .zero s, .zero t => { bits := (Lns.zero (xor s t)).code }
  | .zero s, .fin t _ => { bits := (Lns.zero (xor s t)).code }
  | .fin s _, .zero t => { bits := (Lns.zero (xor s t)).code }

/-- LADD (R53): the exact sum of the linear values. -/
def lnsAdd (rm : Rnd) (a b : Lns) : FRes :=
  let r := a.linear.add rm b.linear
  (toLns rm r.1).raise r.2

/-- A scale code (R54): zero, NaN, or (8 + F) times 2^(E - 18). -/
inductive Scale where
  | zero
  | nan
  | val (e : Int) (f8 : Nat)
  deriving DecidableEq, Repr

/-- Reading a scale code: e is E - 15 and f8 is 8 + F (R54). -/
def Scale.ofCode (c : Nat) : Scale :=
  if c % 256 = 0 then .zero
  else if c % 256 = 255 then .nan
  else .val ((c / 8 % 32 : Nat) - 15) (8 + c % 8)

/-! ### Values of typed registers and conversions (R40, R50) -/

/-- The half of a packed pair. -/
def halfOf (f : Fmt) (r : Nat) (e : Nat) : Nat := r / 2 ^ (f.width * e) % 2 ^ f.width

/-- The exact value of an unpacked operand of a type, flushed under FTZ (R40, R45, R51). -/
def EType.value (t : EType) (ftz : Bool) (r : Nat) : Val :=
  match t.kind with
  | .flt f => f.operand ftz r
  | .packed f => f.operand ftz r
  | .lns => (Lns.ofCode (r % 256)).linear
  | .int w sg =>
    let v := intOf r w sg
    .num (v < 0) v.natAbs 0

/-- Float to integer (R50). -/
def toInt (rm : Rnd) (v : Val) (w : Nat) (sg : Bool) : FRes :=
  match v with
  | .nan _ => { bits := 0, flags := { invalid := true } }
  | .inf n => { bits := (intImage (if n then intMin w sg else intMax w sg) w sg).toNat, flags := { invalid := true } }
  | .num n m e =>
    if m ≠ 0 ∧ Nat.log2 m + e > 70 then
      { bits := (intImage (if n then intMin w sg else intMax w sg) w sg).toNat, flags := { invalid := true } }
    else
      let r : Int := roundInt rm n m e
      let r := if n then -r else r
      { bits := (intImage (clampInt r w sg) w sg).toNat, flags := { invalid := r != clampInt r w sg } }

/-- A real value converted once into an unpacked target type (R50); flags of a NaN source are the caller's. -/
def EType.ofVal (t : EType) (ftz : Bool) (rm : Rnd) (v : Val) : FRes :=
  match t.kind with
  | .flt f => f.roundVal ftz rm v
  | .packed f => f.roundVal ftz rm v
  | .lns => toLns rm v
  | .int w sg => toInt rm v w sg

/-- CVT of one unpacked element (R50, R158). R50 has no row from LNS8 to an integer: it takes that from a float, on the linear value
(DESIGN CHOICE, log 68). -/
def convert (src dst : EType) (ftz sat : Bool) (rm : Rnd) (r : Nat) : FRes :=
  match src.kind, dst.kind with
  | .int w sg, .int w2 sg2 => { bits := (fitInt sat (intOf r w sg) w2 sg2).toNat }
  | .lns, .lns => { bits := (Lns.ofCode (r % 256)).code }
  | _, _ =>
    let v := src.value ftz r
    (dst.ofVal ftz rm v).raise v.isSNan

end Sys2Proof.Machine
end

