-- ==== Sys2Proof/Machine/State.lean ====
section
/-!
DEFINITION. State.lean: the state of the device as plain data, what can stop a step, and the state after reset.
INVENTORY.md lists every field with the rule that names it and its reset value.
-/
namespace Sys2Proof.Machine

/-- Why the machine stops with a fault. -/
inductive Fault where
  /-- Raised by step: power has been removed (R87) and no agenda entry restores it. The device has no behaviour without
  power, so the stop is safe. -/
  | unpowered
  deriving DecidableEq, Repr

/-- Why the machine has no meaning for an instruction. -/
inductive Refusal where
  /-- Raised by exec for a constructor that has no meaning yet, with its mnemonic. The stop is safe. -/
  | notModelled (mnemonic : String)
  deriving DecidableEq, Repr

/-- A table of numbered items, by ascending number; an item it does not list has its kind's default value. -/
abbrev Store (α : Type) := List (Nat × α)

/-- The state of a g or s register (R69). A pending register names the producer that will fill it. -/
inductive RegState where
  | dead
  | pending (token : Nat)
  | opened
  | lost
  | full
  deriving DecidableEq, Repr

/-- A main-file register: its state and its 32 lanes (R68, R69). -/
structure GReg where
  st : RegState := .dead
  val : Lanes := []
  deriving DecidableEq, Repr

/-- A scalar register (R68, R69). -/
structure SReg where
  st : RegState := .dead
  val : Word := 0
  deriving DecidableEq, Repr

/-- A reconvergence-stack entry (R128, R132); implicit entries are those of R314. -/
structure RcvEntry where
  rpc : Word
  tag : Word
  member : SliceMask
  arrived : SliceMask := 0
  absent : SliceMask := 0
  mode : Word32
  retDepth : Nat
  isImplicit : Bool := false
  /-- A lane that was detached has rejoined under this entry (R66). -/
  rejoined : Bool := false
  deriving DecidableEq, Repr

/-- The record values a retried instruction reads in place of its sources (R323), for one lane. -/
structure Retry where
  a : Word
  b : Word
  c : Word
  deriving DecidableEq, Repr

/-- A deferred lane set (R122, R127), with the record values when it was set by a RETRY (R323). -/
structure Deferred where
  pc : Word
  mask : SliceMask
  depth : Nat
  retry : Option Retry := none
  /-- The set resumes at the slot where its trap was taken, which is no arrival (R32). -/
  noArrive : Bool := false
  deriving DecidableEq, Repr

/-- What a slice keeps of a spilled entry (R132): its tag, whether it is implicit, and whether a lane that was detached has rejoined under
it. -/
structure SpillNote where
  tag : Word
  isImplicit : Bool := false
  rejoined : Bool := false
  deriving DecidableEq, Repr

/-- What a slice does: run in a path, or wait at an arrival (R129) or a REGANG (R138). -/
inductive SliceStat where
  | running
  | waiting
  deriving DecidableEq, Repr

/-- Lanes of a slice that have reached a REGANG (R138): its code address, the slot after it, their level and KEEP. -/
structure Rendezvous where
  pc : Word
  next : Word
  depth : Nat
  tag : Word
  mask : SliceMask
  keep : Bool
  deriving DecidableEq, Repr

/-- A slice of four lanes (R122). Stacks are newest first; spilled counts the entries that stand in the call backing store (R132):
those of return addresses fill blocks of 8 from the first, and a cut (R129) may leave the newest block partly filled. -/
structure Slice where
  idx : Nat
  pc : Word := 0
  run : SliceMask := 0
  detached : SliceMask := 0
  /-- Lanes exited, killed or never present (R129). -/
  gone : SliceMask := 15
  deferred : List Deferred := []
  ret : List Word := []
  retSpilled : Nat := 0
  rcv : List RcvEntry := []
  rcvSpilled : Nat := 0
  /-- For each spilled entry, newest first, what the slice keeps of it. -/
  rcvNotes : List SpillNote := []
  /-- A fill has faulted, and is made again when the slice resumes at %tpc, or pushes or pops once more (R133). -/
  fillFault : Bool := false
  mode : Word32 := 0
  /-- Read-side depth (R273). -/
  depth : Nat := 0
  /-- Read-side depths carried by the four lanes while detached (R274). -/
  carried : List Nat := [0, 0, 0, 0]
  /-- Detached handler lanes whose origin threads have been retired: they go when the group next reaches the entry that awaits them (R326,
  R344). -/
  doomed : SliceMask := 0
  path : Nat := 0
  stat : SliceStat := .running
  /-- Of a slice that waits: the stamp of the last issue of the path that it left, and whether a group-handler run holds it. -/
  last : Nat := 0
  held : Bool := false
  rdv : List Rendezvous := []
  /-- Arrival flags of the four group barriers: the phase arrived in (R203). -/
  flags : Store Nat := []
  deriving DecidableEq, Repr

/-- The levels of barriers (R201). -/
inductive BarLevel where
  | group | block | cluster | grid
  deriving DecidableEq, Repr

/-- A barrier's registers (R201); it is FILLING exactly when its count is not 0. -/
structure Barrier where
  phase : Nat := 0
  count : Nat := 0
  arrived : Nat := 0
  /-- The phases whose release may still be on its way, each with the clk at which it completed, the latest first (R211). -/
  dones : List (Nat × Nat) := []
  deriving DecidableEq, Repr

/-- A register named by a specifier byte (R24): 0x10 to 0x2F an s register, 0x30 to 0xFF a g register. -/
abbrev RegCode := Nat

/-- What a path waits for. -/
inductive Why where
  /-- Registers to become readable (sources) or no longer pending (destinations) (R69, R70). -/
  | regs (srcs dsts : List RegCode)
  /-- %cyc to reach a value (R140). -/
  | clock (until_ : Word)
  /-- The answer of a unit (R263, R288, R332, R89). -/
  | answer
  /-- Every earlier access of the path to be performed (R177). -/
  | performed
  /-- Every earlier access of the group to be performed (R104). -/
  | allPerformed
  /-- The path's earlier accesses by a peer link to be acknowledged (R175, R358). -/
  | links
  /-- So many free memory request entries of the core (R8, R182). -/
  | requestRoom (n : Nat)
  /-- A phase of a barrier to complete (R205). -/
  | phase (level : BarLevel) (n phase : Nat)
  /-- An engine counter to fall to a limit (R195). -/
  | count (cls limit : Nat)
  /-- A grace period (R279). -/
  | grace (target : Nat)
  /-- Room in the partition's deferred-free queue (R279). -/
  | freeRoom
  /-- A mailbox entry (R365). -/
  | mailbox
  /-- Room in the core's mailbox (R364). -/
  | mailRoom
  /-- Room in an engine's queue and counter (R189). -/
  | engineRoom (cls : Nat)
  /-- The gang rendezvous of the core (R237). -/
  | gang
  /-- A place for a step, with no macro-operation outstanding on its tiles (R235, R245). -/
  | stepRoom (tiles : List Nat)
  /-- The end of every step and macro-operation on tiles (R236, R245). -/
  | tiles (ts : List Nat)
  /-- The end of the group's steps and QUANT operations (R246). -/
  | matrixIdle
  /-- The superseded versions that the path's updates have left are dropped (R298). -/
  | tables
  /-- The shipped firmware's own: what it does is in the events of R367, and its program is no part of the model (log 64). -/
  | firmware
  deriving DecidableEq, Repr

/-- What a table instruction has still to do once its request is answered, if a pre-emption halts the group past it (R295): the request's
token, the code address, word and next address, the destination byte, the lanes that it acts on and those of its path, the sources, the
registers that its dead marks name, and for HFAM the register and the descriptor that it binds; and what its destination's state was. -/
structure Passed where
  token : Nat
  pc : Word
  instr : Word32
  next : Word
  dest : RegCode
  act : LaneMask
  by_ : LaneMask
  a : Lanes
  b : Lanes
  dead : List RegCode
  hf : Option (Nat × Word) := none
  /-- Half the registers of its code block (R290). -/
  half : Nat := 1
  /-- The read-side depths of the slices at the instruction (R274). -/
  depths : Store Nat := []
  was : RegState := .dead
  /-- The group has not been resumed since: the answer is kept. -/
  held : Bool := true
  deriving DecidableEq, Repr

/-- A wait of a path: the age-latch and cache sources latched at first issue (R66), KEEP, and the stage the instruction
has reached. -/
structure Wait where
  why : Why
  keep : Bool
  a : Option Lanes := none
  b : Option Lanes := none
  c : Option Lanes := none
  stage : Nat := 0
  arg : Nat := 0
  /-- The clk at which the wait began. -/
  since : Nat := 0
  /-- The instruction has waited under R70; a stall in place is not such a wait (R189). -/
  waited : Bool := true
  /-- No delivery abandons the wait (R295). -/
  firm : Bool := false
  /-- What a pre-emption lets the group leave behind (R295). -/
  past : Option Passed := none
  deriving DecidableEq, Repr

/-- A fetched bundle: its address, control word and six slots (R15). -/
structure Bundle where
  addr : Word
  control : Word
  slots : List Word32
  deriving DecidableEq, Repr

/-- A path of a group (R124). -/
structure Path where
  id : Nat
  /-- Stamp of its last issue, for the choice of R125. -/
  last : Nat := 0
  /-- Instructions issued in a row (R125). -/
  streak : Nat := 0
  /-- The clk from which it may issue, after a transfer, a switch or a pop (R145). -/
  issueFrom : Nat := 0
  wait : Option Wait := none
  /-- What a unit answered to the waiting instruction. -/
  answer : Option (List Word) := none
  /-- The bundle the path stands in, once fetched and checked (R19, R38). -/
  buf : Option Bundle := none
  noArrive : Bool := false
  retry : Option Retry := none
  /-- Held by a group handler or a delivery (R143, R329). -/
  held : Bool := false
  /-- The debugger has released the group at the BRK slot where it stopped (R39). -/
  brkOk : Bool := false
  deriving DecidableEq, Repr

/-- The kinds of group (R10, R35). -/
inductive GKind where
  | user | handler | curator
  deriving DecidableEq, Repr

/-- The states of a group (R123); RETIRED is its absence. A stopped group remembers whether it held an active place. -/
inductive GState where
  | pending
  | active
  | sleeping
  | parked
  | stopped (wasActive : Bool)
  | halted
  deriving DecidableEq, Repr

/-- What a soft error in a group's state has come to (R371): it has halted the group, or a reply other than DONE has come, which retires
the group once it is resident. -/
inductive SoftErr where
  | none | raised | refused
  deriving DecidableEq, Repr

/-- The kinds of group-handler run (R329). -/
inductive HKind where
  | gtrap | delivery
  deriving DecidableEq, Repr

/-- A group-handler run: its kind and the slot-0 address at which it interrupted its path, if it did so at slot 0 (R32). -/
structure HFrame where
  kind : HKind
  atSlot0 : Option Word
  /-- The barrier wait that a delivery interrupted, which a return to its code address resumes (R210). -/
  barWait : Option (Word × Wait) := none
  /-- The retried instruction that the run interrupted, by its code address, with the record values that it reads (R323). -/
  retry : Option (Word × Retry) := none
  deriving DecidableEq, Repr

/-- A table binding hf0 to hf3 (R289): the descriptor's address, the third word and validity. -/
structure Binding where
  desc : Word := 0
  lm1 : Word := 0
  valid : Bool := false
  deriving DecidableEq, Repr

/-- The thread record of a detached lane (R315), with what the registrar needs. -/
structure TrapRec where
  ctx : Nat
  core : Nat
  slot : Nat
  lane : Nat
  cause : Nat
  level : Nat := 0
  fatal : Bool := false
  reason : Nat := 0
  dest : Nat
  status : Nat
  instr : Word32
  pc : Word
  fault : Word
  a : Word
  b : Word
  c : Word
  repair : Word
  /-- The group and lane the record repairs, the partition and world, and whether it is a fetch fault that charges no
  instruction (R100). -/
  unit : Nat
  serial : Nat
  part : Nat
  world : Nat
  kernel : Nat := 0
  fetch : Bool := false
  /-- The read-side depth the lane carries (R274). -/
  depth : Nat := 0
  /-- It has been sent on to the registrar half that holds its folio (R318, R334). -/
  forwarded : Bool := false
  /-- The clk at which it reaches a registrar half, and that of its filing (R319, R335). -/
  due : Nat := 0
  filed : Nat := 0
  deriving DecidableEq, Repr

/-- The origin of a bound handler lane: its folio and position (R319). -/
structure Bound where
  folio : Nat
  pos : Nat
  deriving DecidableEq, Repr

/-- A pending user-interrupt vector, the sender's SCOPE, and the clk from which it is deliverable (R142, R145). -/
structure IntReq where
  vec : Nat
  scope : Nat
  due : Nat
  deriving DecidableEq, Repr

/-- A group (R122, R123 and the registers of R64 to R75). -/
structure Group where
  /-- 64 times core plus core-wide slot (R9). -/
  unit : Nat
  /-- A number that no other group of the device ever has. -/
  serial : Nat := 0
  kind : GKind := .user
  st : GState := .pending
  ctx : Nat := 0
  part : Nat := 0
  world : Nat := 0
  gid : Nat := 0
  bid : Nat := 0
  cid : Nat := 0
  kernel : Nat := 0
  alloc : Nat := 16
  acc : Nat := 0
  gregs : Store GReg := []
  sregs : Store SReg := []
  preds : Store LaneMask := []
  shapes : Store Word := []
  hf : Store Binding := []
  fslots : Store Nat := []
  ages : List Lanes := []
  ageValid : List Bool := [false, false, false, false]
  caches : Store Lanes := []
  cacheValid : Store LaneMask := []
  /-- Accumulator slots: slot number to 1,024 words, row-major (R229). -/
  tiles : Store (Store Word32) := []
  tpc : Word := 0
  tcause : Nat := 0
  uipc : Word := 0
  cbase : Word := 0
  csize : Nat := 0
  inst : Nat := 1
  slices : List Slice := []
  paths : List Path := []
  cur : Nat := 0
  /-- The path that issued the group's previous instruction (R65). -/
  lastPath : Nat := 0
  nextPath : Nat := 1
  hdl : List HFrame := []
  /-- Pending user-interrupt vectors (R142). -/
  ints : List IntReq := []
  /-- Engine counters and sequence numbers per class (R184). -/
  cnt : Store Nat := []
  seq : Store Nat := []
  gang : Word := 0
  /-- Matrix status flags NV, OF, UF (R246). -/
  mxFlags : Nat := 0
  bars : Store Barrier := []
  /-- Arrival flags: 16 times level plus number, to the phase (R203). -/
  flags : Store Nat := []
  wake : Option Word := none
  drowsy : Bool := false
  linkLost : Bool := false
  /-- The clk at which the wait on absent lanes began (R325). -/
  absentSince : Option Nat := none
  /-- The clk at which the group entered its present scheduling set, from which it may issue there, and of its last issue
  (R115 to R117). -/
  setSince : Nat := 0
  issueFrom : Nat := 0
  lastIssue : Nat := 0
  /-- The clk at which the group, in the pending set, became ready (R117). -/
  readySince : Option Nat := none
  /-- Handler groups: the bound record of each lane (R319), and the entry's owner. -/
  bound : Store Bound := []
  /-- Late copy operations for which LATE is still to be raised (R198). -/
  late : List Nat := []
  /-- Table instructions that a pre-emption has halted the group past, and whose answers are still to come (R295). -/
  passed : List Passed := []
  soft : SoftErr := .none
  /-- YIELD with KEEP = 0 offers the active place (R139). -/
  yielding : Bool := false
  /-- Stamp of the last control transfer or resumption (R38). -/
  xfer : Nat := 0
  /-- Curator: the version it runs (R370). -/
  fw : Nat := 0
  deriving DecidableEq, Repr

/-! ### Memory, translation and accesses -/

/-- The kinds of access (R96). -/
inductive Access where
  | read | write | atomic | fetch
  deriving DecidableEq, Repr

/-- A translation space: the tags, the two root tables, and the core whose TLB and whose die's structures serve it (R94, R97; log 7). -/
structure Space where
  core : Nat := 0
  ctx : Nat := 0
  world : Nat := 0
  part : Nat := 0
  dom : Nat := 0
  root1 : Nat := 0
  root2 : Nat := 0
  deriving DecidableEq, Repr

/-- A valid table entry that a walk has read and no invalidation has removed since (R96, R97): its stage, the die that holds it, the
space's tags, the entry's PA, the input range it serves and its value. -/
structure SeenEntry where
  stage2 : Bool
  die : Nat := 0
  ctx : Nat
  world : Nat := 0
  dom : Nat
  part : Nat
  pa : Nat
  base : Nat
  size : Nat
  value : Word
  /-- Its CONT group was a valid one, or it is no member of one, when the walk read it (R94). -/
  groupOk : Bool := true
  /-- Input ranges, by base and size, for which an invalidation has removed it. -/
  cleared : List (Nat × Nat) := []
  deriving DecidableEq, Repr

/-- A page that an unsettled access holds (R101): tags, VA and IPA of one byte, the page size, and when it was translated. -/
structure Held where
  ctx : Nat
  dom : Nat
  part : Nat
  va : Nat
  ipa : Nat
  size : Nat := 4096
  stamp : Nat := 0
  deriving DecidableEq, Repr

/-- A storing agent, as scopes see it (R173): its group's slot, serial number and place; of the device or the host, only
the unit number. -/
structure Agent where
  unit : Nat
  serial : Nat := 0
  part : Nat := 64
  kernel : Nat := 0
  bid : Nat := 0
  cid : Nat := 0
  deriving DecidableEq, Repr

/-- An element that an atomic or reduction updates by a peer link: its canonical PA and bytes, the opcode, ETYPE and mode copy, and the
values of v and c (R212, R216). -/
structure PeerElem where
  pa : Nat
  size : Nat
  opcode : Nat
  etype : Nat
  mode : Word32
  v : Nat
  c : Nat
  deriving DecidableEq, Repr

/-- What a lane's access by a peer link still does at its target, with the agent whose access it is (R356): bytes written at canonical
PAs, elements updated, or nothing beyond what the access that it shares with the lane before does. -/
inductive PeerAct where
  | write (agent : Agent) (parts : List (Nat × List Byte))
  | update (agent : Agent) (etype : Nat) (elems : List PeerElem)
  | shared
  deriving DecidableEq, Repr

/-- A lane of a load or atomic on its way: what its trap record would hold if it were aborted (R102, R118). -/
structure FlightLane where
  lane : Nat
  value : Word
  va : Word
  /-- The bytes that it accesses. -/
  size : Nat := 0
  a : Word
  b : Word
  c : Word
  /-- The access goes to the host or peer window, by peer-link ports, and its request has been lost (R358). -/
  window : Bool := false
  ports : List Nat := []
  lost : Bool := false
  /-- What it still does at its target, as no other access of the device to the line has followed it yet (R356). -/
  act : Option PeerAct := none
  /-- The read-side depth of its slice at the instruction (R274). -/
  depth : Nat := 0
  deriving DecidableEq, Repr

/-- A long-latency producer in flight (R69). -/
structure Flight where
  token : Nat
  unit : Nat
  serial : Nat
  reg : RegCode
  pc : Word
  instr : Word32
  atomic : Bool
  /-- Field D of the instruction, for the record of an aborted lane. -/
  dest : Nat
  lanes : List FlightLane
  held : List Held := []
  /-- The lanes of the path that issued it (R177), and the request entries that it takes (R170, R182). -/
  by_ : LaneMask := 0
  requests : Nat := 0
  deriving DecidableEq, Repr

/-- A store or reduction not yet performed (R177): also what the trap records of its lanes would hold if it were aborted (R102). -/
structure Unperformed where
  token : Nat
  unit : Nat
  serial : Nat
  held : List Held := []
  /-- The peer-link ports it uses. -/
  ports : List Nat := []
  pc : Word := 0
  instr : Word32 := 0
  access : Access := .write
  lanes : List FlightLane := []
  by_ : LaneMask := 0
  requests : Nat := 0
  deriving DecidableEq, Repr

/-- The request entries that a PF has taken, until its lines have come (R180, R182). -/
structure Prefetch where
  token : Nat
  core : Nat
  requests : Nat
  deriving DecidableEq, Repr

/-- An update-only copy of a line in one core's L1 (R217): its tag and, by element number, the partial values. -/
structure Partial where
  core : Nat
  line : Nat
  opcode : Nat
  etype : Nat
  rnd : Nat
  ftz : Bool
  agent : Agent
  /-- The world whose line it is (R83, R181). -/
  world : Nat := 0
  parts : Store Nat
  deriving DecidableEq, Repr

/-- The states of a contention-predictor line (R215). -/
inductive Contention where
  | near0 | near1 | far
  deriving DecidableEq, Repr

/-- A contention-predictor entry (R215), with whether another core has accessed the line since this core's last far atomic. -/
structure Predictor where
  core : Nat
  line : Nat
  world : Nat
  state : Contention := .near0
  quiet : Nat := 0
  touched : Bool := false
  deriving DecidableEq, Repr

/-- A code-cache invalidation (R181): the context, the agent that issued it with its scope, and its stamp. -/
structure CodeClear where
  ctx : Nat
  agent : Agent
  scope : Nat
  stamp : Nat
  deriving DecidableEq, Repr

/-- A bundle as it stood before a store, which a fetch may still return (R38): its PA, bytes and storing agent, and the
invalidations made since at a scope that holds that agent. -/
structure OldBundle where
  pa : Nat
  bytes : List Byte
  agent : Agent
  cleared : List CodeClear := []
  deriving DecidableEq, Repr

/-- An L2 token bucket's settings and content for one partition; every port has the same settings (R85). A port it does not list is
full. Accesses that have met an empty bucket spend the tokens that come next. -/
structure Bucket where
  rate : Nat := 0
  cap : Nat := 0
  tokens : Store Nat := []
  owed : Store Nat := []
  deriving DecidableEq, Repr

/-- The memory subsystem. -/
structure MemSys where
  /-- Memory by device physical address, canonical (R165). -/
  cells : List Host.Cell := []
  /-- Scratchpad contents: core times 524,288 plus the array offset (R167). -/
  sram : Store Byte := []
  /-- Column stores: chip-wide quadrant to bytes (R229). -/
  column : Store (Store Byte) := []
  seen : List SeenEntry := []
  flights : List Flight := []
  stores : List Unperformed := []
  prefetches : List Prefetch := []
  partials : List Partial := []
  /-- Newest first, at most 512 for each core. -/
  predictor : List Predictor := []
  /-- The lines that a core's L1 owns, by core, line and world: near atomics have brought them there (R215). -/
  owners : List (Nat × Nat × Nat) := []
  code : List OldBundle := []
  buckets : Store Bucket := []
  /-- Assignment words of quadrants and of SRAM banks, and the clk until which each is being zeroed (R82, R84). -/
  quadAssign : Store Word32 := []
  bankAssign : Store Word32 := []
  quadBusy : Store Nat := []
  bankBusy : Store Nat := []
  /-- Assignment words that take effect when the zeroing ends (R84). -/
  quadNext : Store Word32 := []
  bankNext : Store Word32 := []
  deriving DecidableEq, Repr

/-! ### Engines -/

/-- An asynchronous operation (R184 to R194). -/
structure EngineOp where
  token : Nat
  unit : Nat
  serial : Nat
  core : Nat
  gid : Nat
  cls : Nat
  seq : Nat
  opcode : Nat
  /-- The handle register bound to it, or none. -/
  dst : Option RegCode := none
  space : Space := {}
  kernel : Nat := 0
  part : Nat := 0
  world : Nat := 0
  /-- Its operands as read at issue, and its descriptor once the engine has read it. -/
  args : List Word := []
  desc : Option (List Byte) := none
  /-- The first unit not done, and the status reached; 0 while it works. -/
  done : Nat := 0
  status : Nat := 0
  cancel : Bool := false
  /-- The promise of R197, and the bytes it is to move. -/
  promise : Word := 0
  bytes : Nat := 0
  /-- Slices that were inside a read-side section at its issue (R274). -/
  sections : List Nat := []
  /-- The lanes of the path that issued it (R299). -/
  by_ : LaneMask := 0
  mode : Word32 := 0
  fslots : List Nat := []
  shapes : List Word := []
  /-- What an operation of several steps carries from one to the next. -/
  work : List Nat := []
  /-- The translations of the elements that it has translated and not yet settled, each with its side (R101, R187). -/
  held : List (Nat × Held) := []
  /-- Of a copy or gather operation, the units with requests on their way by a peer link: the unit, the port and the clk of its answer; and
  those whose request has been lost (R356, R359). -/
  flying : List (Nat × Nat × Nat) := []
  lost : List Nat := []
  deriving DecidableEq, Repr

/-! ### Contexts and kernels -/

/-- A folio of the registrar (R317 to R319). -/
structure Folio where
  num : Nat
  half : Nat
  part : Nat
  world : Nat
  cause : Nat
  entry : Word
  owner : Nat
  /-- 1 open, 2 forming, 3 bound. -/
  st : Nat := 1
  since : Nat := 0
  window : Nat := 2048
  recs : List (Option TrapRec) := []
  handler : Option Nat := none
  deriving DecidableEq, Repr

/-- The states of a context (R80). -/
inductive CtxState where
  | created | resident | preempted | sealedImg | checkpointed | migrated | destroyed
  deriving DecidableEq, Repr

/-- A resident block (R113): its core, scratchpad steps and block barriers. -/
structure Block where
  kernel : Nat
  bid : Nat
  core : Nat
  steps : List Nat := []
  bars : Store Barrier := []
  deriving DecidableEq, Repr

/-- A context (R80). -/
structure Context where
  id : Nat
  part : Nat
  world : Nat
  st : CtxState := .created
  busy : Bool := false
  region : Nat := 0
  pasid : Nat := 0
  space : Space := {}
  debugStop : Bool := false
  /-- Pre-emption in progress: groups halted, image not yet complete (R81). -/
  saving : Bool := false
  /-- A device reset has lost what the device held of it (R80). -/
  lost : Bool := false
  /-- The groups of its image. Of a sealed context the device keeps their depths and handles (R274, R364). -/
  saved : List Group := []
  /-- Blocks, scratchpad steps (kernel, block number and bytes) and column stores (old quadrant) of the image. -/
  savedBlocks : List Block := []
  savedOps : List EngineOp := []
  savedScratch : List (Nat × Nat × Store Byte) := []
  savedColumns : Store (Store Byte) := []
  /-- The packet of the pre-emption under way, until every group is halted (R118). -/
  packet : Option Nat := none
  /-- Records taken back from the registrar (R328), and, where a device reset has taken them from the registrar, the folios to which handler
groups of the image are bound. -/
  savedRecs : List TrapRec := []
  savedFolios : List Folio := []
  deriving DecidableEq, Repr

/-- The effective region values that a kernel keeps (R109 to R111). -/
structure Effective where
  budget : Nat := 0
  perCore : Nat := 0
  priority : Nat := 0
  fault : Nat := 0
  cap : Nat := 0
  rate : Nat := 0
  rdepth : Nat := 0
  cores : Nat := 0
  rejoin : Nat := 0
  window : Nat := 0
  areaBase : Nat := 0
  areaSize : Nat := 0
  cbase : Word := 0
  csize : Nat := 0
  handler : Word := 0
  table : Word := 0
  deriving DecidableEq, Repr

/-- The states of a kernel (R105). -/
inductive KState where
  | checking | waiting | running | halted
  deriving DecidableEq, Repr

/-- A kernel: the fields of its launch record (R106) and its progress. -/
structure Kernel where
  id : Nat
  ctx : Nat
  recVa : Word := 0
  st : KState := .checking
  cls : Nat := 0
  entry : Word := 0
  region : Nat := 0
  tag : Nat := 0
  bx : Nat := 0
  by_ : Nat := 0
  bz : Nat := 0
  gpb : Nat := 1
  bpc : Nat := 1
  gregs : Nat := 16
  acc : Nat := 0
  spsteps : Nat := 0
  mode : Word32 := 0
  fslots : List Nat := []
  groupMasks : List Nat := []
  gridEnable : Nat := 0
  params : List Word := []
  blockMasks : List Nat := []
  clusterMasks : List Nat := []
  completion : Word := 0
  eff : Effective := {}
  /-- Nodes from the kernel's own to the root: index, effective slot budget and per-core cap (R110). -/
  chain : List (Nat × Nat × Nat) := []
  nextBlock : Nat := 0
  firstCyc : Nat := 0
  placed : Bool := false
  retired : Nat := 0
  gridBars : Store Barrier := []
  clusterBars : Store (Store Barrier) := []
  /-- Its launch record has been read, so that its completion record address is known. -/
  named : Bool := false
  /-- The packet that asked for the launch: its PA, and its queue interface if it has one,
  with how often that had been enabled (R108, R252). -/
  packet : Option Nat := none
  qi : Option Nat := none
  qiEpoch : Nat := 0
  /-- The status with which the kernel is to end; 0 while it is not (R105). -/
  ending : Nat := 0
  accepted : Nat := 0
  deriving DecidableEq, Repr

/-! ### Grace periods, the registrar and the curator -/

/-- A holdout of a grace period (R275): a slice, with code 0, or the carried depth of a lane, with 1 more than its number (R375). -/
structure Holdout where
  unit : Nat
  serial : Nat
  slice : Nat
  code : Nat := 0
  deriving DecidableEq, Repr

/-- An entry of a deferred-free queue (R276). -/
structure FreeEntry where
  addr : Word
  size : Word
  stamp : Nat
  ctx : Nat
  deriving DecidableEq, Repr

/-- A thread that HRET resumes, on its way to its slice (R323, R331). -/
structure Resume where
  token : Nat
  rec_ : TrapRec
  skip : Bool
  deriving DecidableEq, Repr

/-- A partition's units: grace controller, deferred-free queue, registrar, region table and system entries. -/
structure Part where
  done : Nat := 0
  /-- The clk at which its last grace period completed (R282). -/
  doneAt : Nat := 0
  demand : Nat := 0
  running : Bool := false
  holdouts : List Holdout := []
  frees : List FreeEntry := []
  /-- Entries whose grace period has completed and which wait for room in the release ring (R277). -/
  ready : List FreeEntry := []
  regionTable : Nat := 0
  /-- The bytes of the root region node as it was last read from the node cache (R111); empty before that. -/
  rootNode : List Byte := []
  system : Store Word := []
  folios : List Folio := []
  /-- Records waiting for a folio, by registrar half: the first 256 of a half stand in it, and the lanes of the rest stay detached and
  unfiled until room frees (R318). -/
  unfiled : List (Nat × TrapRec) := []
  /-- The supervisor translation of the partition's curators (R320; log 7). -/
  space : Space := {}
  deriving DecidableEq, Repr

/-- A mailbox entry (R363, R364). -/
structure Mail where
  index : Nat
  words : List Word
  taken : Bool := false
  version : Nat := 0
  code : Nat := 0
  /-- The handle bound to it: group unit, serial and register. -/
  unit : Nat := 0
  serial : Nat := 0
  dst : Option RegCode := none
  token : Nat := 0
  order : Nat := 0
  deriving DecidableEq, Repr

/-- A record of the error log (R372). -/
structure ErrRec where
  cause : Nat
  kind : Nat
  unit : Nat
  part : Nat
  world : Nat
  cyc : Nat
  seq : Nat
  count : Nat := 1
  ctx : Nat := 0
  tag : Nat := 0
  addr : Nat := 0
  pc : Nat := 0
  data : Nat := 0
  /-- The full record of a confidential world, sealed under the world's key and kept beside the log. -/
  box : List Byte := []
  deriving DecidableEq, Repr

/-! ### Peer links (R353 to R357) -/

/-- The states of a port (R353). -/
inductive PortState where
  | down | training | up | degraded | retraining | failed
  deriving DecidableEq, Repr

/-- A flit in a port's replay buffer (R354): its sequence number, the other header bits and the payload, which no rule lays out, and the
token of the request that it carries. -/
structure Flit where
  seq : Nat
  routing : Word := 0
  payload : List Byte
  token : Nat := 0
  deriving DecidableEq, Repr

/-- A peer-link port: its state and lanes, the counts of R355, the sequence numbers of R354, the replay buffer, oldest
first, the replays of its oldest flit, and the clk of the last acknowledgement and of its last change of state. -/
structure Port where
  st : PortState := .down
  lanes : Nat := 0
  replays : Nat := 0
  retrains : Nat := 0
  txSeq : Nat := 0
  rxSeq : Nat := 0
  buffer : List Flit := []
  tries : Nat := 0
  ackSince : Nat := 0
  since : Nat := 0
  /-- A replay request is to be sent for the first sequence number that the port lacks. -/
  nak : Bool := false
  /-- The flits that it sent last, as they stood on the link. -/
  out : List (List Byte) := []
  deriving DecidableEq, Repr

/-! ### Matrix units (R229 to R246) -/

/-- The power states of a matrix unit (R240). -/
inductive MxState where
  | cold | rampup | busy | held | rampdown
  deriving DecidableEq, Repr

/-- What a step takes of its A operand: opcode, block with its scale or metadata register, shape record and Act (R234, R238). -/
structure MxA where
  opcode : Nat
  block : List Lanes
  shape : Word
  act : LaneMask
  deriving DecidableEq, Repr

/-- An accepted step with what the unit has latched (R235); the sequencer's unit of work carries its operation's token. -/
structure MxStep where
  stamp : Nat
  unit : Nat
  serial : Nat
  a : MxA
  tile : Nat
  shapeB : Word
  fsA : Nat
  fsB : Nat
  b : Word
  rnd : Nat
  ftz : Bool
  deriving DecidableEq, Repr

/-- A quadrant's matrix unit: state, the clk at which it began, the level in quarters at that clk, hint count, and the accepted
steps not finished, oldest first (R235, R240). -/
structure MxUnit where
  st : MxState := .cold
  since : Nat := 0
  level : Nat := 0
  hint : Nat := 0
  steps : List MxStep := []
  seq : Option (Nat × Nat) := none
  deriving DecidableEq, Repr

/-- An arrival at a rendezvous latch (R238): core, the leader's slot, the path that waits and its token, the gang word, the clk of
arrival, whether the member leads, and its step; the A operand of a follower's step is the leader's. -/
structure GangArrival where
  core : Nat
  leader : Nat
  path : Nat
  token : Nat
  gang : Word
  clk : Nat
  isLeader : Bool
  step : MxStep
  deriving DecidableEq, Repr

/-! ### Device queues (R257 to R263) -/

/-- A grantee of a device queue and its rights: push and pop (R257). -/
structure Grantee where
  ctx : Nat
  push : Bool
  pop : Bool
  deriving DecidableEq, Repr

/-- The kinds of queue request (R260). -/
inductive QKind where
  | push | pop | tryPush | tryPop
  deriving DecidableEq, Repr

/-- A queue request on its way, at its home gallery, or waiting there: the token its path waits on, who asks, and the packet of
a push. -/
structure QReq where
  token : Nat
  queue : Nat
  unit : Nat
  serial : Nat
  ctx : Nat
  kind : QKind
  packet : List Word := []
  /-- The clk at which it reaches the home gallery (R261, R264). -/
  due : Nat := 0
  /-- It has reached the home gallery and waits for room or a packet. -/
  waiting : Bool := false
  deriving DecidableEq, Repr

/-- An answer on its way to a group: token, status, packet. -/
structure QAnswer where
  token : Nat
  status : Nat
  packet : List Word := []
  deriving DecidableEq, Repr

/-- A GRANTED device queue; a FREE one is not listed (R257). The packets of its ring are its own, since no program access hits the
ring's lines (R258). -/
structure DevQueue where
  ring : Nat
  log2 : Nat
  packets : Store (List Word) := []
  head : Nat := 0
  tail : Nat := 0
  grantees : List Grantee := []
  deriving DecidableEq, Repr

/-! ### Retrieval tables (R283 to R298) -/

/-- The kinds of request that a home unit answers (R288). -/
inductive TKind where
  | hfam | tstat | tins | tdel | rehash
  deriving DecidableEq, Repr

/-- One lane of a TINS or TDEL: row and codes. -/
structure TLane where
  lane : Nat
  row : Nat
  cur : List Nat
  succ : List Nat
  deriving DecidableEq, Repr

/-- A request to a home unit: the token its path waits on, who asks, the descriptor, and its operands. -/
structure TReq where
  token : Nat
  unit : Nat
  serial : Nat
  kind : TKind
  desc : Word
  space : Space
  part : Nat
  world : Nat
  gallery : Nat
  lm1 : Nat := 0
  sel : Nat := 0
  lanes : List TLane := []
  /-- REHASH: bucket steps still to do, and rows dropped. -/
  steps : Nat := 0
  dropped : Nat := 0
  scope : Nat := 0
  /-- The clk at which it reaches its home unit; HFAM and TSTAT are on their second leg, or a step of the others is under way (R288). -/
  due : Nat := 0
  started : Bool := false
  /-- The format slots that the descriptor's slot field selects from (R284). -/
  slots : List Nat := []
  /-- The lanes of the path that asks (R298). -/
  by_ : LaneMask := 0
  deriving DecidableEq, Repr

/-- The answer to a table request: values for the path, or the trap that it raises, with the records of faulting lanes. -/
structure TAnswer where
  token : Nat
  vals : List Word := []
  trap : Option Nat := none
  /-- Faulting lanes: lane, cause, status, address. -/
  faults : List (Nat × Nat × Nat × Word) := []
  deriving DecidableEq, Repr

/-- A bucket version that a step has superseded and that some catalogue units still hold (R288, R299): the descriptor that the step was
asked for, the PA of the bucket's table, that of the bucket line, the lines of the bucket and its chain, the row ids in bucket order, the
units, and the step's group, path lanes and scope. Of a descriptor, at its own PA, the cursor that a REHASH step has superseded. -/
structure OldVersion where
  desc : Word
  table : Nat := 0
  pa : Nat
  lines : List Nat
  ids : List Nat
  units : List Nat
  serial : Nat
  by_ : LaneMask
  scope : Nat
  until_ : Nat
  stamp : Nat := 0
  /-- The cursor from which on no probe reads it (R299). -/
  below : Option Nat := none
  /-- The paths, by group and lanes, whose probes have read a later one (R299). -/
  seenBy : List (Nat × LaneMask) := []
  deriving DecidableEq, Repr

/-! ### The host interface (R251 to R256) -/

/-- The states of a queue interface (R252). -/
inductive QiState where
  | disabled | enabled | error | revoked
  deriving DecidableEq, Repr

/-- A queue interface: its control fields, ring address, HEAD and TAIL; EN cleared takes effect once the started packets have
completed (R251, R252). -/
structure Qi where
  en : Bool := false
  st : QiState := .disabled
  log2 : Nat := 0
  func : Nat := 0
  part : Nat := 0
  irte : Nat := 0
  pasid : Nat := 0
  ring : Word := 0
  head : Nat := 0
  tail : Nat := 0
  closing : Bool := false
  /-- How often it has been enabled. -/
  epoch : Nat := 0
  deriving DecidableEq, Repr

/-- A request packet fetched and not completed: its interface and index, or the curator group that posted it and its PA (R254,
R366). -/
structure Packet where
  id : Nat
  qi : Option Nat := none
  index : Nat := 0
  poster : Nat := 0
  /-- The core and tag of an SVC request for which the shipped firmware posted it (R364, R367). -/
  svc : Option (Nat × Nat) := none
  pa : Nat := 0
  part : Nat := 0
  irq : Bool := false
  order : Bool := false
  started : Bool := false
  bytes : List Byte := []
  deriving DecidableEq, Repr

/-- A function's MSI-X vectors that are masked, and those with a pending message (R256). -/
structure Msix where
  masked : List Nat := []
  pending : List Nat := []
  deriving DecidableEq, Repr

/-- An agent's copy of the readback registers (R374), and the value of its last read. -/
structure Readback where
  addr : Word := 0
  status : Nat := 0
  paid : Nat := 0
  data : Word := 0
  deriving DecidableEq, Repr

/-- An invalidation under way (R102): what it matches, the clk of its acceptance, and what it answers: a packet or a path's
token. -/
structure Inval where
  token : Nat
  kind : Nat
  addr : Word
  id : Nat
  part : Nat
  since : Nat
  aborted : Bool := false
  packet : Option Nat := none
  deriving DecidableEq, Repr

/-! ### The context engines (R86 to R92) -/

/-- An operation handed to a context engine, or on its way to the check (R89 to R92). -/
structure CtxOp where
  token : Nat
  die : Nat
  op : Nat
  ctx : Nat
  record : Nat
  image : Nat
  limit : Nat
  /-- The value that the seal counter took at its acceptance (R87), and the version of its image (R90). -/
  version : Nat := 0
  imageVersion : Nat := 0
  bytes : Nat := 0
  /-- The completion status reached; 0 while it works. -/
  status : Nat := 0
  part : Nat := 0
  /-- The instruction is CTXLD; the engine has accepted the request. -/
  load : Bool := false
  accepted : Bool := false
  deriving DecidableEq, Repr

/-- A sealed image that exists under a key of the device (R86): its bytes, and the context it holds. -/
structure Image where
  kind : Nat
  ctx : Nat
  part : Nat
  world : Nat
  version : Nat
  bytes : List Byte
  /-- The peer of the session whose key seals a MIGRATE image. -/
  peer : Nat := 0
  body : Context
  waiting : List Kernel := []
  deriving DecidableEq, Repr

/-! ### The management core (R369 to R373) -/

/-- The management core: firmware, measurement registers, seal counter and version entries, power. -/
structure Mgmt where
  /-- A curator image is loaded; it is the shipped one, whose behaviour R367 gives. -/
  booted : Bool := true
  shipped : Bool := true
  fwVersion : Nat := 0
  fwAccept : Nat := 3
  /-- The version and accepted set of an image that the curators still have to take over, and the cores that have (R370). -/
  pending : Option (Nat × Nat) := none
  switched : List Nat := []
  meas : Store (List Word) := []
  sealCount : Nat := 0
  versions : Store Nat := []
  sessions : List Nat := []
  hostTolerance : Nat := 0
  tolerances : Store Nat := []
  power : Nat := 0
  /-- The clk at which the power state was entered, and the stamp at the last look that found no group ready and no access
  outstanding (R373). -/
  powerSince : Nat := 0
  idleStamp : Option Nat := none
  /-- The answer to the last SPDM request. -/
  spdm : List Word := []
  /-- The kinds of image that failed at the last boot, as the management port reports them (R369): 1 management, 2 curator. -/
  failures : List Nat := []
  deriving DecidableEq, Repr

/-! ### The whole -/

/-- A due event: the clk from which it may happen, and the event or input. -/
structure Due where
  clk : Nat
  ev : Instr
  deriving DecidableEq, Repr

/-- The instruction slot being issued: group, path, code address, word, control bits and the literals bound to A and B. -/
structure Cur where
  unit : Nat := 0
  path : Nat := 0
  pc : Word := 0
  instr : Word32 := 0
  ctl : Nat := 0
  litA : Word32 := 0
  litB : Word32 := 0
  deriving DecidableEq, Repr

/-- The state of the device. -/
structure State where
  /-- %cyc (R12). -/
  cyc : Nat := 0
  powered : Bool := true
  /-- The model's own: the counter of free values, the counter of stamps, serials and tokens, the due events and the
  issuing slot. -/
  free : Nat := 0
  stamp : Nat := 1
  agenda : List Due := []
  cur : Cur := {}
  groups : List Group := []
  mm : MemSys := {}
  ctxs : List Context := []
  kernels : List Kernel := []
  blocks : List Block := []
  ops : List EngineOp := []
  parts : Store Part := []
  /-- The node caches of both dies (R111): 4,096 times partition plus index, to the node's bytes. -/
  nodeCache : Store (List Byte) := []
  /-- Records detached and not yet filed by the registrar, by token (R318). -/
  filing : List (Nat × TrapRec) := []
  resuming : List Resume := []
  mail : Store (List Mail) := []
  /-- Entry generations: 16 times core plus index (R364). -/
  mailGen : Store Nat := []
  /-- %sgh per core (R368). -/
  sgh : Store Word := []
  /-- The own device number in the peer window (R357). -/
  devno : Nat := 0
  /-- Ports, the route table and the inbound table (R353, R356). -/
  ports : Store Port := []
  routes : Store Nat := []
  inbound : Store Word := []
  /-- The error log, newest first, and the next sequence number (R372). -/
  errLog : List ErrRec := []
  errSeq : Nat := 0
  /-- Matrix units by chip-wide quadrant, and arrivals at the rendezvous latches (R235, R238). -/
  mx : Store MxUnit := []
  gangs : List GangArrival := []
  /-- Device queues, requests and answers (R257, R261, R263). -/
  queues : Store DevQueue := []
  qreqs : List QReq := []
  qanswers : List QAnswer := []
  /-- Requests to home units in their order, answers on their way, and superseded bucket versions (R288). -/
  treqs : List TReq := []
  tanswers : List TAnswer := []
  oldBuckets : List OldVersion := []
  /-- Queue interfaces, packets, remapping entries, MSI-X vectors, TDISP states (CONFIG_UNLOCKED 0, CONFIG_LOCKED 1, RUN 2,
  ERROR 3), and the messages sent, newest first (R251 to R256). -/
  qis : Store Qi := []
  packets : List Packet := []
  irtes : Store Word := []
  msix : Store Msix := []
  tdisp : Store Nat := []
  messages : List (Nat × Nat) := []
  /-- Readback registers of the host 0, the management core 1 and a curator 2, and the saved-group select (R374, R375). -/
  readback : Store Readback := []
  savedSelect : Nat := 0
  invals : List Inval := []
  ctxOps : List CtxOp := []
  images : List Image := []
  mgmt : Mgmt := {}
  /-- The answer to the last inbound peer request: a status (0 served, 1 refused) and its data (R356). -/
  peerAnswer : List Word := []
  deriving DecidableEq, Repr

/-- Cores of the device (R8). -/
def coreCount : Nat := 192

/-- The curator group of a core as the shipped firmware holds it (R10, R369): it stands in slot 63 with a place in the active set, at a wait
that only the events of R367 serve. Its registers are those of a curator that an image starts (log 12, log 64). -/
def firmwareGroup (serial0 cyc version core : Nat) : Group :=
  { unit := 64 * core + 63, serial := serial0 + core, kind := .curator, st := .active, alloc := 208
    sregs := [0, 1, 2, 3, 4, 5, 6, 7].map fun n => (n, { st := .full, val := 0 })
    slices := sliceIds.map fun x => { idx := x, run := 15, gone := 0, mode := 0x00006160 }
    paths := [{ id := 0, wait := some { why := .firmware, keep := false } }], setSince := cyc, lastIssue := cyc, fw := version }

/-- The curator groups of the shipped firmware, their serials from a number on. -/
def firmwareGroups (serial0 cyc version : Nat) : List Group := (List.range coreCount).map (firmwareGroup serial0 cyc version)

/-- The machine right after reset: both images have been verified (log 74), and the shipped firmware runs in every curator slot (R10, R369). -/
def State.reset : State := { groups := firmwareGroups 1 0 0, stamp := 1 + coreCount }

end Sys2Proof.Machine
end

