-- ==== Sys2Proof/Machine/Base.lean ====
section
/-!
DEFINITION. Base.lean: operations on tables, and the accessors of groups, slices, paths, modes and registers.
-/
namespace Sys2Proof.Machine

/-! ### Tables -/

/-- The item of a number, if listed. -/
def Store.get? {α : Type} (m : Store α) (k : Nat) : Option α :=
  match m with
  | [] => none
  | (i, v) :: r => if i = k then some v else Store.get? r k

/-- The item of a number, or a default. -/
def Store.getOr {α : Type} (m : Store α) (k : Nat) (d : α) : α := (Store.get? m k).getD d

/-- The table with an item set, kept ascending. -/
def Store.set {α : Type} (m : Store α) (k : Nat) (v : α) : Store α :=
  match m with
  | [] => [(k, v)]
  | (i, x) :: r => if i = k then (k, v) :: r else if k < i then (k, v) :: (i, x) :: r else (i, x) :: Store.set r k v

/-- The table without an item. -/
def Store.del {α : Type} (m : Store α) (k : Nat) : Store α :=
  match m with
  | [] => []
  | (i, x) :: r => if i = k then Store.del r k else (i, x) :: Store.del r k

/-- A list element by position, with a function applied. -/
def modAt {α : Type} (l : List α) (n : Nat) (f : α → α) : List α :=
  match l, n with
  | [], _ => []
  | x :: r, 0 => f x :: r
  | x :: r, n + 1 => x :: modAt r n f

/-! ### Stamps, free values and the agenda -/

/-- The agenda with an event inserted after those due at the same clk. -/
def insertDue (a : List Due) (d : Due) : List Due :=
  match a with
  | [] => [d]
  | x :: r => if d.clk < x.clk then d :: x :: r else x :: insertDue r d

/-- An event scheduled at a clk. -/
def State.scheduleAt (s : State) (clk : Nat) (ev : Instr) : State :=
  { s with agenda := insertDue s.agenda { clk := clk, ev := ev } }

/-- An event scheduled some clk from now. -/
def State.schedule (s : State) (delay : Nat) (ev : Instr) : State := s.scheduleAt (s.cyc + delay) ev

/-- The exit latency of a power state, in clk (R373). -/
def exitLatency (power : Nat) : Nat :=
  match power with
  | 0 => 0
  | 1 => 4000
  | 2 => 120000
  | _ => 10000000

/-- Whether an event is the return to PS0. -/
def isPowerExit (i : Instr) : Bool :=
  match i with
  | .powerStateExit _ => true
  | _ => false

/-- An exit event: the return to PS0 comes an exit latency later (R373). A device whose management image has failed at boot stays where it
is (R369). -/
def State.wakePower (s : State) : State :=
  if s.mgmt.power = 0 || s.mgmt.failures.contains 1 || s.agenda.any (fun d => isPowerExit d.ev) then s
  else s.schedule (exitLatency s.mgmt.power) (.powerStateExit 0)

/-- A flit or a notify, which is no exit event of PS3 (R373). -/
def State.wakeLink (s : State) : State := if s.mgmt.power ≤ 2 then s.wakePower else s

/-- The next stamp taken. -/
def State.tick (s : State) : State := { s with stamp := s.stamp + 1 }

/-- The next free choice (log 2). -/
def State.freeBit (s : State) : Bool := Config.freeBit s.free
/-- The next free value (log 2). -/
def State.freeWord (s : State) : Word := Config.freeValue s.free
/-- The state with n free values used. -/
def State.useFree (s : State) (n : Nat) : State := { s with free := s.free + n }

/-- %cyc advanced by some clk. -/
def State.spend (s : State) (clk : Nat) : State := { s with cyc := s.cyc + clk }

/-! ### Groups -/

/-- A group that stands for none: no lane of it is present. -/
def Group.absent (u : Nat) : Group := { unit := u, slices := [] }

/-- The group in a slot, or the absent group. -/
def State.grp (s : State) (u : Nat) : Group := (s.groups.find? fun g => g.unit == u).getD (Group.absent u)

/-- Whether a slot holds a group. -/
def State.hasGrp (s : State) (u : Nat) : Bool := s.groups.any fun g => g.unit == u

/-- The state with a group changed. -/
def State.modGrp (s : State) (u : Nat) (f : Group → Group) : State :=
  { s with groups := s.groups.map fun g => if g.unit = u then f g else g }

/-- The issuing group. -/
def State.g (s : State) : Group := s.grp s.cur.unit
/-- The state with the issuing group changed. -/
def State.modG (s : State) (f : Group → Group) : State := s.modGrp s.cur.unit f

/-- The core of a group. -/
def Group.core (g : Group) : Nat := g.unit / 64
/-- The core-wide slot. -/
def Group.slot (g : Group) : Nat := g.unit % 64
/-- The chip-wide quadrant (R9). -/
def Group.quadrant (g : Group) : Nat := 4 * g.core + g.slot / 16
/-- The die of a core (R9). -/
def dieOf (core : Nat) : Nat := core / 96
/-- The gallery of a core (R9). -/
def galleryOf (core : Nat) : Nat := core / 12

/-- A group that enters the pending set; its registers go drowsy once it has sat there for more than 4,096 clk (R71, R123). -/
def Group.toPending (g : Group) (cyc : Nat) : Group := { g with st := .pending, setSince := cyc, readySince := none }

/-- The look at a group that has sat in the pending set for more than 4,096 clk (R71). -/
def State.wantDrowsy (s : State) (u : Nat) : State := s.schedule 4097 (.registersDrowsy u)

/-- A group of a slot put into the pending set (R123). -/
def State.enterPending (s : State) (u : Nat) : State := (s.modGrp u fun g => g.toPending s.cyc).wantDrowsy u

/-- A path of a group. -/
def Group.path? (g : Group) (p : Nat) : Option Path := g.paths.find? fun q => q.id == p
/-- A path of a group, or one that waits for nothing. -/
def Group.path (g : Group) (p : Nat) : Path := (g.path? p).getD { id := p }
/-- A group with a path changed. -/
def Group.modPath (g : Group) (p : Nat) (f : Path → Path) : Group :=
  { g with paths := g.paths.map fun q => if q.id = p then f q else q }
/-- The issuing path. -/
def State.p (s : State) : Path := s.g.path s.cur.path
/-- The state with the issuing path changed. -/
def State.modP (s : State) (f : Path → Path) : State := s.modG fun g => g.modPath s.cur.path f

/-- Whether a slice runs in a path. -/
def Slice.inPath (x : Slice) (p : Nat) : Bool := x.path == p && x.stat == .running
/-- The slices of a path. -/
def Group.pathSlices (g : Group) (p : Nat) : List Slice := g.slices.filter fun x => x.inPath p
/-- A group with its slices changed. -/
def Group.modSlices (g : Group) (f : Slice → Slice) : Group := { g with slices := g.slices.map f }
/-- A group with the slices of a path changed. -/
def Group.modPathSlices (g : Group) (p : Nat) (f : Slice → Slice) : Group :=
  g.modSlices fun x => if x.inPath p then f x else x
/-- A slice by number. -/
def Group.slice (g : Group) (n : Nat) : Slice := (g.slices.find? fun x => x.idx == n).getD { idx := n }

/-- The code address of a path: that of its slices. -/
def Group.pathPc (g : Group) (p : Nat) : Word := ((g.pathSlices p).map (·.pc)).headD 0

/-- A path that leaves what it was at: no wait, answer, fetched bundle or resumption is left (R143, R329). -/
def Path.fresh (q : Path) : Path :=
  { q with wait := none, answer := none, buf := none, retry := none, noArrive := false, brkOk := false }

/-- A path that a transfer sends on: it leaves its bundle, and issues again some clk later (R145). -/
def Path.sent (q : Path) (from_ : Nat) : Path :=
  { q with buf := none, noArrive := false, retry := none, issueFrom := from_ }

/-- Depth of a slice's reconvergence stack (R124). -/
def Slice.rcvDepth (x : Slice) : Nat := x.rcv.length + x.rcvSpilled
/-- Depth of a slice's return stack (R132). -/
def Slice.retDepth (x : Slice) : Nat := x.ret.length + x.retSpilled
/-- Instance tag of the top entry, 0 for an empty stack (R124). -/
def Slice.topTag (x : Slice) : Word := (x.rcv.head?.map (·.tag)).getD 0

/-- A slice mask placed at its lanes in the group. -/
def Slice.place (x : Slice) (m : SliceMask) : LaneMask := (m.setWidth 32) <<< (4 * x.idx)
/-- The part of a lane mask that lies in a slice. -/
def Slice.part (x : Slice) (m : LaneMask) : SliceMask := (m >>> (4 * x.idx)).setWidth 4

/-- The undetached run lanes of a path. -/
def Group.live (g : Group) (p : Nat) : LaneMask :=
  (g.pathSlices p).foldl (fun m x => m ||| x.place x.run) 0

/-! ### The mode register (R73) -/

/-- Mode fields. -/
def modeGP (m : Word32) : Nat := m.toNat % 8
def modeGN (m : Word32) : Bool := m.getLsbD 3
def modeGE (m : Word32) : Bool := m.getLsbD 4
def modeEtypeCode (m : Word32) : Nat := bitsOf m.toNat 9 5
def modeEtype? (m : Word32) : Option EType := EType.ofCode (modeEtypeCode m)
def modeEtype (m : Word32) : EType := (modeEtype? m).getD .u64
def modeRnd (m : Word32) : Rnd := Rnd.ofCode (bitsOf m.toNat 12 10)
def modeScope (m : Word32) : Nat := bitsOf m.toNat 15 13
def modeSat (m : Word32) : Bool := m.getLsbD 16
def modeFtz (m : Word32) : Bool := m.getLsbD 17
def modeDzt (m : Word32) : Bool := m.getLsbD 18
def modeUnal (m : Word32) : Bool := m.getLsbD 19
def modeFpx (m : Word32) : Nat := bitsOf m.toNat 23 20
def modeFs (m : Word32) : Nat := bitsOf m.toNat 26 24

/-- Whether R73 allows a mode value. -/
def modeLegal (m : Word32) : Bool :=
  bitsOf m.toNat 31 27 == 0 && modeScope m < 6 && bitsOf m.toNat 12 10 < 5 && (EType.ofCode (modeEtypeCode m)).isSome

/-- The mode copy of a lane's own slice (R390). -/
def Group.modeOf (g : Group) (l : Nat) : Word32 := (g.slice (l / 4)).mode

/-- A predicate register (R72). -/
def Group.pred (g : Group) (n : Nat) : LaneMask := Store.getOr g.preds n 0

/-- Whether the guard of a lane's mode copy selects it (R6, R154). -/
def Group.guard (g : Group) (l : Nat) : Bool :=
  let m := g.modeOf l
  xor ((g.pred (modeGP m)).getLsbD l) (modeGN m)

/-- Active() of a path (R6, R390). -/
def Group.active (g : Group) (p : Nat) : LaneMask :=
  let live := g.live p
  maskOf fun l => live.getLsbD l && (!modeGE (g.modeOf l) || g.guard l)

/-- The mode copy of uniform results and effects made once: the lowest slice with an active lane, else the lowest slice of
the path (R390). -/
def Group.uniformMode (g : Group) (p : Nat) : Word32 :=
  let act := g.active p
  let xs := g.pathSlices p
  match xs.find? fun x => x.part act != 0 with
  | some x => x.mode
  | none => (xs.head?.map (·.mode)).getD 0

/-- The widest SCOPE of a path's slices (R390). -/
def Group.widestScope (g : Group) (p : Nat) : Nat :=
  (g.pathSlices p).foldl (fun m x => max m (modeScope x.mode)) 0

/-! ### Registers -/

/-- The state of a g or s register (R69). -/
def Group.regState (g : Group) (r : RegCode) : RegState :=
  if r < 0x30 then (Store.getOr g.sregs (r - 0x10) {}).st else (Store.getOr g.gregs (r - 0x30) {}).st

/-- The contents of a g or s register, whatever its state. -/
def Group.regVal (g : Group) (r : RegCode) : Lanes :=
  if r < 0x30 then Lanes.uniform (Store.getOr g.sregs (r - 0x10) {}).val else (Store.getOr g.gregs (r - 0x30) {}).val

/-- An s register's contents. -/
def Group.sval (g : Group) (n : Nat) : Word := (Store.getOr g.sregs n {}).val

/-- A register with its state set. -/
def Group.setRegState (g : Group) (r : RegCode) (st : RegState) : Group :=
  if r < 0x30 then { g with sregs := Store.set g.sregs (r - 0x10) { Store.getOr g.sregs (r - 0x10) {} with st := st } }
  else { g with gregs := Store.set g.gregs (r - 0x30) { Store.getOr g.gregs (r - 0x30) {} with st := st } }

/-- New values in the lanes of a mask, old ones elsewhere. -/
def mergeLanes (old new : Lanes) (m : LaneMask) : Lanes := Lanes.of fun l => if m.getLsbD l then new.at l else old.at l

/-- Values in the lanes of a mask, zero elsewhere. -/
def maskLanes (v : Lanes) (m : LaneMask) : Lanes := Lanes.of fun l => if m.getLsbD l then v.at l else 0

/-- A write of a register's lanes, which leaves it FULL (R69). An s register takes the value of the lowest lane written: where SEL's
guard differs between the active lanes (R154) the spec does not say whose choice it is (DESIGN CHOICE, log 57). -/
def Group.writeReg (g : Group) (r : RegCode) (v : Lanes) (m : LaneMask) : Group :=
  if m = 0 then g
  else if r < 0x30 then { g with sregs := Store.set g.sregs (r - 0x10) { st := .full, val := v.at (LaneMask.lowest m) } }
  else
    let old := Store.getOr g.gregs (r - 0x30) {}
    { g with gregs := Store.set g.gregs (r - 0x30) { st := .full, val := mergeLanes old.val v m } }

/-- A write of an operand-cache slot sets the valid bits of the lanes it writes (R66). -/
def Group.writeCache (g : Group) (n : Nat) (v : Lanes) (m : LaneMask) : Group :=
  { g with caches := Store.set g.caches n (mergeLanes (Store.getOr g.caches n []) v m)
           cacheValid := Store.set g.cacheValid n (Store.getOr g.cacheValid n 0 ||| m) }

/-- A write through a destination specifier. -/
def Group.writeOpnd (g : Group) (d : Opnd) (v : Lanes) (m : LaneMask) : Group :=
  match d with
  | .cache n => if m = 0 then g else g.writeCache n v m
  | .sreg n => g.writeReg (0x10 + n) v m
  | .greg n => g.writeReg (0x30 + n) v m
  | _ => g

/-- Push(v): the age latches take a value; inactive lanes push zero (R6, R64). -/
def Group.push (g : Group) (v : Lanes) (m : LaneMask) : Group :=
  { g with ages := (maskLanes v m :: g.ages).take 4, ageValid := (true :: g.ageValid).take 4 }

/-- The age latches invalidated (R65). -/
def Group.clearAges (g : Group) : Group := { g with ageValid := [false, false, false, false] }
/-- The operand cache invalidated (R66). -/
def Group.clearCache (g : Group) : Group := { g with cacheValid := [] }
/-- The upper levels invalidated (R65, R66). -/
def Group.clearUpper (g : Group) : Group := g.clearAges.clearCache

/-- A predicate written in the lanes of a mask. -/
def Group.writePred (g : Group) (n : Nat) (v m : LaneMask) : Group :=
  { g with preds := Store.set g.preds n ((g.pred n &&& ~~~m) ||| (v &&& m)) }

/-! ### Code addresses (R15) -/

/-- The bundle address of a code address. -/
def bundleOf (pc : Word) : Word := pc &&& ~~~31
/-- The slot a code address names. -/
def slotOf (pc : Word) : Nat := pc.toNat % 8
/-- Whether a code address is well formed. -/
def codeOk (pc : Word) : Bool := pc.toNat % 32 < 6
/-- The bundle after a code address's. -/
def nextBundle (pc : Word) : Word := bundleOf pc + 32

/-- Control bits of a slot (R17). -/
def Bundle.ctl (b : Bundle) (n : Nat) : Nat := b.control.toNat / 2 ^ (10 * n) % 1024
/-- Whether a slot holds a literal. -/
def Bundle.isLit (b : Bundle) (n : Nat) : Bool := b.ctl n % 2 == 1
/-- The word of a slot. -/
def Bundle.word (b : Bundle) (n : Nat) : Word32 := b.slots.getD n 0
/-- Whether a slot is an instruction slot (R18). -/
def Bundle.isInstr (b : Bundle) (n : Nat) : Bool := !b.isLit n && b.word n != 0
/-- RCV and ENTRY (R16). -/
def Bundle.rcv (b : Bundle) : Bool := b.control.getLsbD 60
def Bundle.entry (b : Bundle) : Bool := b.control.getLsbD 61

/-- The slots of a bundle, ascending. -/
def slotIds : List Nat := [0, 1, 2, 3, 4, 5]

/-- The first slot at or after n that issues: an instruction slot, or a NOP slot before a later one (R18). -/
def Bundle.nextSlot (b : Bundle) (n : Nat) : Option Nat :=
  slotIds.find? fun j => n ≤ j && !b.isLit j && slotIds.any fun k => j ≤ k && b.isInstr k

/-- The code address after slot n of a bundle. -/
def Bundle.after (b : Bundle) (n : Nat) : Word :=
  match b.nextSlot (n + 1) with
  | some j => b.addr + BitVec.ofNat 64 j
  | none => b.addr + 32

end Sys2Proof.Machine
end

