-- ==== Sys2Proof/Machine/Mem.lean ====
section
/-!
DEFINITION. Mem.lean: memory by device physical address, the update-only lines that a later access combines (R217), the
bundles a fetch may still return (R38), and two-stage translation (R93 to R98).
-/
namespace Sys2Proof.Machine

/-! ### Bytes -/

/-- What an address that memory does not list reads as (log 5). -/
def unlistedByte (_pa : Nat) : Byte := 0

/-- One byte of memory. -/
def MemSys.byte (mm : MemSys) (pa : Nat) : Byte := (Store.get? mm.cells pa).getD (unlistedByte pa)

/-- Memory with one byte written, in canonical form. -/
def writeCell (cells : List Host.Cell) (pa : Nat) (b : Byte) : List Host.Cell :=
  if b = unlistedByte pa then Store.del cells pa else Store.set cells pa b

/-- One byte written. -/
def MemSys.setByte (mm : MemSys) (pa : Nat) (b : Byte) : MemSys := { mm with cells := writeCell mm.cells pa b }

/-- n bytes from an address on. -/
def MemSys.bytes (mm : MemSys) (pa n : Nat) : List Byte :=
  match n with
  | 0 => []
  | n + 1 => mm.byte pa :: mm.bytes (pa + 1) n

/-- Bytes written from an address on. -/
def MemSys.setBytes (mm : MemSys) (pa : Nat) (bs : List Byte) : MemSys :=
  match bs with
  | [] => mm
  | b :: r => (mm.setByte pa b).setBytes (pa + 1) r

/-- The number that little-endian bytes hold (R3). -/
def leNat (bs : List Byte) : Nat :=
  match bs with
  | [] => 0
  | b :: r => b.toNat + 256 * leNat r

/-- The n little-endian bytes of a number (R3). -/
def leBytes (v n : Nat) : List Byte :=
  match n with
  | 0 => []
  | n + 1 => BitVec.ofNat 8 v :: leBytes (v / 256) n

/-- An n-byte number in memory. -/
def MemSys.num (mm : MemSys) (pa n : Nat) : Nat := leNat (mm.bytes pa n)

/-- Canonical form: addresses strictly rising, and no entry equal to what an unlisted address reads as. -/
def cellsWf (cells : List Host.Cell) : Bool :=
  match cells with
  | [] => true
  | [(a, b)] => b != unlistedByte a
  | (a, b) :: (c, d) :: r => b != unlistedByte a && a < c && cellsWf ((c, d) :: r)

/-- The canonical form of the memory. -/
abbrev MemSys.wf (mm : MemSys) : Prop := cellsWf mm.cells = true

/-! ### Elements of atomics (R213, R214) -/

/-- Bytes of an atomic's element: each half of a packed pair is one (R213). -/
def EType.elemBytes (t : EType) : Nat := if t.isPacked then 2 else t.bytes

/-- AFADD of one element, flags dropped (R214). -/
def floatAdd (t : EType) (rnd : Rnd) (ftz : Bool) (m v : Nat) : Nat :=
  match t.kind with
  | .flt f | .packed f => (f.finish ftz rnd ((f.operand ftz m).add rnd (f.operand ftz v))).bits
  | .lns => m
  | .int w _ => (m + v) % 2 ^ w

/-- AMIN and AMAX of one element (R214). -/
def elemMinMax (t : EType) (isMax : Bool) (m v : Nat) : Nat :=
  match t.kind with
  | .flt f | .packed f => (f.minMax isMax m v).bits
  | .lns => m
  | .int w sg => if (intOf v w sg < intOf m w sg) != isMax then v else m

/-- The new element value of an atomic opcode (R212). -/
def atomicNew (opcode : Nat) (t : EType) (rnd : Rnd) (ftz : Bool) (m v c : Nat) : Nat :=
  let w := 8 * t.elemBytes
  match opcode with
  | 0x90 | 0x99 => (m + v) % 2 ^ w
  | 0x91 | 0x9A => floatAdd t rnd ftz m v
  | 0x92 | 0x9B => elemMinMax t false m v
  | 0x93 | 0x9C => elemMinMax t true m v
  | 0x94 => m &&& v
  | 0x95 => m ||| v
  | 0x96 => m ^^^ v
  | 0x97 => v
  | _ => if m = c then v else m

/-- The addresses of the bundles that n bytes from an address on touch. -/
def bundlesAt (pa n : Nat) : List Nat := (List.range ((pa + n - 1) / 32 + 1 - pa / 32)).map fun i => 32 * (pa / 32 + i)

/-- Of some bundles, those that an agent's writes have changed are kept as they stood before, which a fetch may still return: an
instruction's writes change a bundle once (R38, R170). -/
def MemSys.keepOld (mm before : MemSys) (agent : Agent) (bundles : List Nat) : MemSys :=
  bundles.foldl (fun m a =>
    let old := before.bytes a 32
    if mm.bytes a 32 = old then m else { m with code := { pa := a, bytes := old, agent := agent } :: m.code }) mm

/-- One update-only copy applied to memory (R217). -/
def MemSys.applyPartial (mm : MemSys) (p : Partial) : MemSys :=
  let t := (EType.ofCode p.etype).getD .u64
  let after := p.parts.foldl (fun m e =>
    let pa := 128 * p.line + e.1
    m.setBytes pa (leBytes (atomicNew p.opcode t (.ofCode p.rnd) p.ftz (m.num pa t.elemBytes) e.2 0) t.elemBytes)) mm
  after.keepOld mm p.agent (bundlesAt (128 * p.line) 128)

/-- Combine: every update-only copy of a line, in ascending core number (R217). -/
def MemSys.combine (mm : MemSys) (line : Nat) : MemSys :=
  (mm.partials.filter fun p => p.line == line).foldl MemSys.applyPartial
    { mm with partials := mm.partials.filter fun p => p.line != line }

/-! ### The device address map (R165) -/

/-- The end of HBM. -/
def hbmEnd : Nat := 0x6000000000
/-- The peer window's start. -/
def peerBase : Nat := 0x8000000000000
/-- The host window's start. -/
def hostBase : Nat := 0x1000000000000

/-! ### Accesses by peer links (R356) -/

/-- The lines that n bytes from an address on touch. -/
def linesAt (pa n : Nat) : List Nat := (List.range ((pa + n - 1) / 128 + 1 - pa / 128)).map fun i => pa / 128 + i

/-- The lines that an access by a peer link still acts on. -/
def PeerAct.lines (a : PeerAct) : List Nat :=
  match a with
  | .write _ ps => ps.flatMap fun e => linesAt e.1 e.2.length
  | .update _ _ es => es.flatMap fun e => linesAt e.pa e.size
  | .shared => []

/-- One element updated at its target, with its old value (R212). -/
def MemSys.updatePeer (mm : MemSys) (agent : Agent) (e : PeerElem) : MemSys × Nat :=
  let t := (EType.ofCode e.etype).getD .u64
  let old := mm.num e.pa e.size
  let new := atomicNew e.opcode t (modeRnd e.mode) (modeFtz e.mode) old e.v e.c
  ((mm.setBytes e.pa (leBytes new e.size)).keepOld mm agent (bundlesAt e.pa e.size), old)

/-- An access by a peer link performed at its target, with the value that it returns. -/
def MemSys.actOn (mm : MemSys) (a : PeerAct) : MemSys × Word :=
  match a with
  | .write agent ps =>
    (ps.foldl (fun m e => (m.setBytes e.1 e.2).keepOld m agent (bundlesAt e.1 e.2.length)) mm, 0)
  | .update agent etype es =>
    let r := es.foldl (fun (r : MemSys × List Nat) e => let (m, old) := r.1.updatePeer agent e; (m, r.2 ++ [old])) (mm, [])
    let t := (EType.ofCode etype).getD .u64
    let v : Nat := r.2.headD 0 + 2 ^ 16 * r.2.getD 1 0
    (r.1, if t.isInt then intImage v t.width t.signed else word v)
  | .shared => (mm, 0)

/-- The lanes of an access that still act on one of some lines act, in ascending order; with the value that a lane returns go those that
share its access. -/
def MemSys.serveLanes (mm : MemSys) (lines : List Nat) (ls : List FlightLane) : MemSys × List FlightLane :=
  let r := ls.foldl (fun (r : MemSys × List FlightLane × Option Word) x =>
    match x.act, r.2.2 with
    | some .shared, some v => (r.1, r.2.1 ++ [{ x with act := none, value := v }], some v)
    | some .shared, none => (r.1, r.2.1 ++ [x], none)
    | some a, _ =>
      if a.lines.any lines.contains then
        let (m, v) := r.1.actOn a
        (m, r.2.1 ++ [{ x with act := none, value := v }], some v)
      else (r.1, r.2.1 ++ [x], none)
    | none, _ => (r.1, r.2.1 ++ [x], none)) (mm, [], none)
  (r.1, r.2.1)

/-- The access of a token acts on some lines. -/
def MemSys.serve (mm : MemSys) (lines : List Nat) (token : Nat) : MemSys :=
  match mm.flights.find? fun f => f.token == token with
  | some f =>
    let (m, ls) := mm.serveLanes lines f.lanes
    { m with flights := m.flights.map fun (x : Flight) => if x.token = token then { x with lanes := ls } else x }
  | none =>
    match mm.stores.find? fun x => x.token == token with
    | some x =>
      let (m, ls) := mm.serveLanes lines x.lanes
      { m with stores := m.stores.map fun (y : Unperformed) => if y.token = token then { y with lanes := ls } else y }
    | none => mm

/-- A number put into a rising list. -/
def insertNat (l : List Nat) (n : Nat) : List Nat :=
  match l with
  | [] => [n]
  | x :: r => if n < x then n :: x :: r else x :: insertNat r n

/-- Whether a lane still acts on one of some lines. -/
def FlightLane.actsOn (x : FlightLane) (lines : List Nat) : Bool := x.act.any fun a => a.lines.any lines.contains

/-- The accesses by peer links that still act on one of some lines do so now, in the order of their issue, before what follows them there
(R356). -/
def MemSys.servePeers (mm : MemSys) (lines : List Nat) : MemSys :=
  let toks := ((mm.flights.filter fun f => f.lanes.any fun x => x.actsOn lines).map (·.token)) ++
    (mm.stores.filter fun x => x.lanes.any fun y => y.actsOn lines).map (·.token)
  (toks.foldl insertNat []).foldl (fun m tok => m.serve lines tok) mm

/-- What a lane's access by a peer link still does is done. -/
def State.serveLane (s : State) (x : FlightLane) : State :=
  match x.act with
  | some a => { s with mm := s.mm.servePeers a.lines }
  | none => s

/-- The ports that an access still needs. -/
def Flight.links (f : Flight) : List Nat := (f.lanes.filter fun x => !x.lost).flatMap (·.ports)

/-- What is pending on the lines of n bytes from an address on takes effect: update-only copies (R217), and accesses by peer links (R356);
n is at most a page. -/
def MemSys.settle (mm : MemSys) (pa n : Nat) : MemSys :=
  let mm := if mm.partials.isEmpty then mm else (linesAt pa n).foldl MemSys.combine mm
  if pa + n < peerBase then mm else mm.servePeers (linesAt pa n)

/-- A PA with the own device's part of the peer window replaced by the HBM it reaches (R165). -/
def State.canonPa (s : State) (pa : Nat) : Nat :=
  if pa ≥ peerBase ∧ bitsOf pa 50 39 = s.devno then pa % 2 ^ 39 else pa

/-- Whether a canonical PA exists: HBM, the host window, or a peer offset in range. -/
def paExists (pa : Nat) : Bool :=
  pa < hbmEnd || (hostBase ≤ pa && pa < peerBase) || (peerBase ≤ pa && pa < 2 * peerBase && pa % 2 ^ 39 < hbmEnd)

/-- Whether a canonical PA lies in the host or peer window. -/
def inWindow (pa : Nat) : Bool := hostBase ≤ pa

/-! ### Storing agents and old versions of code (R38, R173) -/

/-- The unit numbers that stand for the device itself, for a partition's units and for the host, as storing agents. -/
def deviceUnit : Nat := 12288
def partUnit (part : Nat) : Nat := deviceUnit + 1 + part
def hostUnit : Nat := 12400

/-- A group as an agent. -/
def Group.agent (g : Group) : Agent :=
  { unit := g.unit, serial := g.serial, part := g.part, kernel := g.kernel, bid := g.bid, cid := g.cid }

/-- The agent of a slot's group, of a partition's units, of the device or of the host. -/
def State.agent (s : State) (unit : Nat) : Agent :=
  if s.hasGrp unit then (s.grp unit).agent
  else if deviceUnit < unit ∧ unit ≤ deviceUnit + 64 then { unit := unit, part := unit - deviceUnit - 1 }
  else { unit := unit }

/-- Whether an agent lies in the scope instance of a group's agent (R173). -/
def Agent.covers (a : Agent) (scope : Nat) (b : Agent) : Bool :=
  let grp := b.unit < deviceUnit
  match scope with
  | 0 => grp && b.serial == a.serial
  | 1 => grp && (b.serial == a.serial || (a.kernel != 0 && b.part == a.part && b.kernel == a.kernel && b.bid == a.bid))
  | 2 => grp && (b.serial == a.serial || (a.kernel != 0 && b.part == a.part && b.kernel == a.kernel && b.cid == a.cid))
  | 3 => b.unit != deviceUnit && b.unit != hostUnit && b.part == a.part
  | 4 => b.unit != hostUnit
  | _ => true

/-- A write of bytes by an agent: update-only copies are combined first, and old code versions kept. -/
def State.storeRaw (s : State) (unit pa : Nat) (bs : List Byte) : State :=
  if bs.isEmpty then s
  else
    let mm := s.mm.settle pa bs.length
    { s with mm := (mm.setBytes pa bs).keepOld mm (s.agent unit) (bundlesAt pa bs.length) }

/-- Bucket versions that hold a line of n bytes from an address on, removed from every bucket cache (R288). -/
def State.dropLines (s : State) (pa n : Nat) : State :=
  { s with oldBuckets := s.oldBuckets.filter fun v => !(v.lines.any fun l => pa / 128 ≤ l && l ≤ (pa + n - 1) / 128) }

/-- An ordinary write of bytes by an agent, which first removes its lines from every bucket cache (R288). -/
def State.store (s : State) (unit pa : Nat) (bs : List Byte) : State :=
  if bs.isEmpty then s else (s.dropLines pa bs.length).storeRaw unit pa bs

/-- A write of an instruction: the slot of its agent, the canonical PA and the bytes. -/
structure Write where
  unit : Nat
  pa : Nat
  bytes : List Byte
  deriving DecidableEq, Repr

/-- The old code versions of what an instruction's writes have changed are kept, by agent (R38). -/
def State.keepCode (s : State) (before : MemSys) (ws : List Write) : State :=
  (ws.map (·.unit)).eraseDups.foldl (fun s u =>
    let mine := ws.filter fun w => w.unit == u && !w.bytes.isEmpty
    let bundles := (mine.flatMap fun (w : Write) => bundlesAt w.pa w.bytes.length).eraseDups
    { s with mm := s.mm.keepOld before (s.agent u) bundles }) s

/-- The writes of one instruction, performed together; the later of two writes gives a byte that both name (R170). -/
def State.storeMany (s : State) (ws : List Write) : State :=
  let s := ws.foldl (fun (s : State) (w : Write) =>
    if w.bytes.isEmpty then s else { s.dropLines w.pa w.bytes.length with mm := s.mm.settle w.pa w.bytes.length }) s
  { s with mm := ws.foldl (fun (mm : MemSys) (w : Write) => mm.setBytes w.pa w.bytes) s.mm }.keepCode s.mm ws

/-- A read's effect on update-only lines. -/
def State.touch (s : State) (pa n : Nat) : State := { s with mm := s.mm.settle pa n }

/-- A number read by the device. -/
def State.readNum (s : State) (pa n : Nat) : Nat := (s.mm.settle pa n).num pa n

/-- Whether an invalidation made for a context at a scope has reached a group, with a transfer or resumption of the group since (R38). -/
def CodeClear.reached (c : CodeClear) (g : Group) : Bool := c.ctx == g.ctx && c.agent.covers c.scope g.agent && c.stamp < g.xfer

/-- Whether an old version may still be fetched by a group (R38). -/
def OldBundle.live (o : OldBundle) (g : Group) : Bool := !o.cleared.any fun c => c.reached g

/-- The bytes a fetch returns: those in memory, or, by a free choice for each, an old version (R38). -/
def State.fetchBytes (s : State) (g : Group) (pa : Nat) : State × List Byte :=
  let s := s.touch pa 32
  (s.mm.code.filter fun o => o.pa == pa && o.live g).foldl (fun (r : State × List Byte) o =>
    if o.bytes = r.2 then r else (r.1.useFree 1, if r.1.freeBit then o.bytes else r.2)) (s, s.mm.bytes pa 32)

/-! ### Translation -/

/-- A finished walk of one stage. -/
inductive Walk where
  /-- The output address, permissions R = 1, W = 2, X = 4, memory type and page size. -/
  | leaf (pa perm mt size : Nat)
  /-- Fault kind and stage (R98, R99). -/
  | bad (kind stage : Nat)
  deriving DecidableEq, Repr

/-- A finished translation: PA, IPA, memory type and page size (R95). -/
inductive Trans where
  | ok (pa ipa mt size : Nat)
  | fault (kind stage : Nat)
  deriving DecidableEq, Repr

/-- Entry fields (R94). -/
def entryV (e : Nat) : Bool := e % 2 == 1
def entryLeaf (e : Nat) : Bool := e / 2 % 2 == 1
def entryPerm (e : Nat) : Nat := e / 4 % 8
def entryMt (e : Nat) : Nat := e / 256 % 4
def entryCont (e : Nat) : Bool := e / 1024 % 2 == 1
def entryOa (e : Nat) : Nat := bitsOf e 51 12 * 4096

/-- Bytes of a page of a level, and of the page that an entry maps there (R94). -/
def levelSize (lvl : Nat) : Nat := 2 ^ (39 - 9 * lvl)
def pageSize (lvl e : Nat) : Nat := if entryCont e then 65536 else levelSize lvl

/-- Whether a valid entry is malformed, CONT group aside (R94). -/
def entryBad (lvl e : Nat) : Bool :=
  bitsOf e 63 52 != 0 || bitsOf e 11 11 != 0 || bitsOf e 7 5 != 0 || entryMt e == 3 ||
  (entryLeaf e && lvl == 0) || (!entryLeaf e && lvl == 3) || (entryCont e && lvl != 3) ||
  (entryLeaf e && entryOa e % levelSize lvl != 0) || (entryCont e && !entryLeaf e)

/-- Whether the 16 entries of a CONT group form a valid one (R94). -/
def contGroupOk (es : List Nat) : Bool :=
  let base := entryOa (es.headD 0)
  base % 65536 == 0 && (es.zipIdx.all fun (e, i) => entryCont e && e % 4096 == es.headD 0 % 4096 && entryOa e == base + 4096 * i)

/-- Whether a seen entry belongs to a space: the structures of its core's die hold it, and its tags match (R97). -/
def SeenEntry.of (x : SeenEntry) (sp : Space) (stage2 : Bool) (pa : Nat) : Bool :=
  x.stage2 == stage2 && x.pa == pa && x.die == dieOf sp.core && x.part == sp.part &&
  (if stage2 then x.dom == sp.dom else x.ctx == sp.ctx && x.world == sp.world)

/-- Whether an entry may still serve an input address: no invalidation has removed it there (R102). -/
def SeenEntry.serves (x : SeenEntry) (addr : Nat) : Bool := x.cleared.all fun c => !(c.1 ≤ addr && addr < c.1 + c.2)

/-- The check of a CONT leaf's group, in memory: the whole 128-byte group is read (R94). -/
def State.contOk (s : State) (pa e : Nat) : Bool :=
  !entryCont e || contGroupOk ((List.range 16).map fun i => s.readNum (pa / 128 * 128 + 8 * i) 8)

/-- A table entry that a walk has met, with whether its CONT group is valid. -/
structure Met where
  value : Nat
  ok : Bool
  deriving DecidableEq, Repr

/-- What the translation structures keep of a valid entry that a walk has met: the entry, and with a valid CONT group each of its
members, which the walk has read (R94, R97). -/
def State.seenOf (s : State) (sp : Space) (stage2 : Bool) (pa addr lvl : Nat) (m : Met) : List SeenEntry :=
  let size := if entryLeaf m.value then pageSize lvl m.value else levelSize lvl
  let e (pa v : Nat) : SeenEntry :=
    { stage2 := stage2, die := dieOf sp.core, ctx := sp.ctx, world := sp.world, dom := sp.dom, part := sp.part, pa := pa
      base := addr / size * size, size := size, value := word v, groupOk := m.ok }
  if !entryV m.value then []
  else if entryCont m.value && m.ok then (List.range 16).map fun i =>
    let p := pa / 128 * 128 + 8 * i
    if p = pa then e pa m.value else e p (s.readNum p 8)
  else [e pa m.value]

/-- A table entry read by a walk for an input address: the one in memory or, by a free choice, an altered valid one that a walk has
seen and no invalidation has removed, whole with its CONT group as it then was (R93, R96). -/
def State.readEntry (s : State) (sp : Space) (stage2 : Bool) (pa addr lvl : Nat) : State × Met :=
  let s := s.touch pa 8
  let v := s.mm.num pa 8
  let s := if entryCont v then s.touch (pa / 128 * 128) 128 else s
  let fresh : Met := { value := v, ok := s.contOk pa v }
  let olds := s.mm.seen.filter fun x => x.of sp stage2 pa && x.serves addr && (x.value.toNat != v || x.groupOk != fresh.ok)
  let r := olds.foldl (fun (r : State × Met) x =>
    (r.1.useFree 1, if r.1.freeBit then { value := x.value.toNat, ok := x.groupOk } else r.2)) (s, fresh)
  let new := if r.2 = fresh then (s.seenOf sp stage2 pa addr lvl fresh).filter fun e => !s.mm.seen.contains e else []
  ({ r.1 with mm := { r.1.mm with seen := new ++ r.1.mm.seen } }, r.2)

/-- Stage 2 of an IPA, from a table of a level on. -/
def State.walk2 (s : State) (sp : Space) (ipa : Nat) (levels : List Nat) (table : Nat) : State × Walk :=
  match levels with
  | [] => (s, .bad 2 1)
  | lvl :: rest =>
    let pa := s.canonPa (table + 8 * (ipa / levelSize lvl % 512))
    if !paExists pa then (s, .bad 2 1)
    else
      let (s, m) := s.readEntry sp true pa ipa lvl
      let e := m.value
      if !entryV e then (s, .bad 0 1)
      else if entryBad lvl e || !m.ok then (s, .bad 2 1)
      else if entryLeaf e then
        let out := s.canonPa (entryOa e + ipa % levelSize lvl)
        if paExists out then (s, .leaf out (entryPerm e) (entryMt e) (pageSize lvl e)) else (s, .bad 2 1)
      else s.walk2 sp ipa rest (entryOa e)

/-- An IPA translated by stage 2; addresses out of range are kind 2 (R95). The stage that put out such an address is stage 1 (DESIGN
CHOICE, log 61). -/
def State.stage2 (s : State) (sp : Space) (ipa : Nat) : State × Walk :=
  if ipa ≥ 2 ^ 48 then (s, .bad 2 0) else s.walk2 sp ipa [0, 1, 2, 3] sp.root2

/-- Stage 1 of a VA, from a table of a level on; each table address is an IPA that stage 2 translates (R95). -/
def State.walk1 (s : State) (sp : Space) (va : Nat) (levels : List Nat) (table : Nat) : State × Walk :=
  match levels with
  | [] => (s, .bad 2 0)
  | lvl :: rest =>
    match s.stage2 sp (table + 8 * (va / levelSize lvl % 512)) with
    | (s, .bad k st) => (s, .bad k st)
    | (s, .leaf pa perm _ _) =>
      if perm % 2 = 0 then (s, .bad 1 1)
      else
        let (s, m) := s.readEntry sp false pa va lvl
        let e := m.value
        if !entryV e then (s, .bad 0 0)
        else if entryBad lvl e || !m.ok then (s, .bad 2 0)
        else if entryLeaf e then (s, .leaf (entryOa e + va % levelSize lvl) (entryPerm e) (entryMt e) (pageSize lvl e))
        else s.walk1 sp va rest (entryOa e)

/-- The permissions an access kind needs (R96). -/
def Access.needs (k : Access) : Nat :=
  match k with
  | .read => 1
  | .write => 2
  | .atomic => 3
  | .fetch => 4

/-- The ACC code of R99. -/
def Access.code (k : Access) : Nat :=
  match k with
  | .read => 0
  | .write => 1
  | .atomic => 2
  | .fetch => 3

/-- Translate(va, k) (R95 to R98). A lack of permissions is reported with the stage whose leaf lacks one, that of stage 1 as soon as its
leaf is known (DESIGN CHOICE, log 61). -/
def State.translate (s : State) (sp : Space) (va : Word) (k : Access) : State × Trans :=
  let v := va.toNat
  let low := v % 2 ^ 48
  if v / 2 ^ 47 ≠ 0 ∧ v / 2 ^ 47 ≠ 2 ^ 17 - 1 then (s, .fault 2 0)
  else
    match s.walk1 sp low [0, 1, 2, 3] sp.root1 with
    | (s, .bad kind st) => (s, .fault kind st)
    | (s, .leaf ipa perm1 mt1 z1) =>
      if perm1 &&& k.needs ≠ k.needs then (s, .fault 1 0)
      else match s.stage2 sp ipa with
      | (s, .bad kind st) => (s, .fault kind st)
      | (s, .leaf pa perm2 mt2 z2) =>
        if perm2 &&& k.needs ≠ k.needs then (s, .fault 1 1)
        else (s, .ok pa ipa (max mt1 mt2) (min z1 z2))

/-- The status byte of a translation fault (R99). -/
def faultStatus (kind stage : Nat) (k : Access) : Nat := 8 * kind + 4 * stage + k.code

/-- The cause of a translation fault kind (R98): PAGEFAULT for the replayable ones, PROT for the others. -/
def faultCause (kind : Nat) : Nat := if kind = 0 ∨ kind = 3 then 0x04 else 0x05

/-- What an access that holds a translation is held against (R101). -/
def State.held (s : State) (sp : Space) (va ipa size : Nat) : Held :=
  { ctx := sp.ctx, dom := sp.dom, part := sp.part, va := va, ipa := ipa, size := size, stamp := s.stamp }

/-! ### Ports (R356) -/

/-- Whether a port carries requests. -/
def Port.usable (p : Port) : Bool := p.st == .up || p.st == .degraded

/-- The ports of a device's mask that are usable. -/
def State.portsTo (s : State) (device : Nat) : List Nat :=
  (List.range 16).filter fun p => (Store.getOr s.routes device 0).testBit p && (Store.getOr s.ports p {}).usable

/-- How an access reaches a canonical PA: locally or by the host link, by a port, or not at all. -/
inductive Reach where
  | direct
  | port (p : Nat)
  | lost
  deriving DecidableEq, Repr

/-- The port of a PA's request, if it needs one. -/
def State.reach (s : State) (pa : Nat) : Reach :=
  if pa < peerBase then .direct
  else
    match s.portsTo (bitsOf pa 50 39) with
    | p :: _ => .port p
    | [] => .lost

/-- The kind of fault that an access to a window comes back with, if it does. A peer refuses it by its own inbound table, which is a fault of
kind 1 (R356). A non-posted request to the host fails under IDE, which is one of kind 3 (R102). Either is a free choice (log 13). -/
def State.windowFault? (s : State) (k : Access) (pa : Nat) : State × Option Nat :=
  if pa < hostBase then (s, none)
  else if pa < peerBase then
    if k = .write then (s, none) else (s.useFree 1, if s.freeBit then some 3 else none)
  else if s.reach pa = .lost then (s, none)
  else (s.useFree 1, if s.freeBit then some 1 else none)

end Sys2Proof.Machine
end

