-- ==== Sys2Proof/Machine/Ops.lean ====
section
/-!
DEFINITION. Ops.lean: how the lanes of a group move, part, wait and meet (R122 to R139), how a thread is retired, and taking
an exception: TrapLane (R314) and TrapGroup (R329), with the return from one.
-/
namespace Sys2Proof.Machine

/-! ### Slices and paths -/

/-- A slice that has left its run lanes takes the oldest deferred set of its own depth, or waits (R127). -/
def Slice.turn (x : Slice) (newPath : Nat) : Slice :=
  match x.deferred.find? fun d => d.depth == x.rcvDepth with
  | some d => { x with run := d.mask, pc := d.pc, path := newPath, stat := .running, deferred := x.deferred.erase d }
  | none => { x with run := 0, stat := .waiting }

/-- Whether a slice must turn: its run lanes are all gone, or it waits and has a set of its own depth to run. -/
def Slice.mustTurn (x : Slice) : Bool :=
  x.run == 0 && (x.stat == .running || x.deferred.any fun d => d.depth == x.rcvDepth)

/-- Whether the members of a slice's top entry have arrived or are gone (R129). -/
def Slice.popReady (x : Slice) : Bool :=
  match x.rcv.head? with
  | some e => e.member &&& ~~~x.gone &&& ~~~e.arrived == 0
  | none => false

/-- A return stack cut to a total depth (R129); newest first. A cut into a spilled block leaves that block partly filled. -/
def Slice.cutReturns (x : Slice) (d : Nat) : Slice :=
  { x with ret := x.ret.drop (x.retDepth - max d x.retSpilled), retSpilled := min d x.retSpilled }

/-- The pop of a slice's top entry (R129); an implicit entry leaves the mode register (R314). -/
def Slice.pop (x : Slice) (path : Nat) : Slice :=
  match x.rcv with
  | [] => x
  | e :: r =>
    let x := { x with rcv := r, run := e.arrived &&& ~~~x.gone, pc := e.rpc, path := path, stat := .running
                      mode := if e.isImplicit then x.mode else e.mode, fillFault := false }
    x.cutReturns e.retDepth

/-- A slice's lanes that a REGANG at its level awaits (R138). -/
def Slice.awaited (x : Slice) : SliceMask :=
  match x.rcv.head? with
  | some e => e.member &&& ~~~x.gone
  | none => ~~~x.gone

/-- Whether two arrivals at REGANG belong to one rendezvous (R138). -/
def Rendezvous.same (r q : Rendezvous) : Bool := q.pc == r.pc && q.depth == r.depth && q.tag == r.tag

/-- The tag of a slice's entry at a depth, on chip or spilled. -/
def Slice.tagAt? (x : Slice) (depth : Nat) : Option Word :=
  (x.rcv.map (·.tag) ++ x.rcvNotes.map (·.tag))[x.rcvDepth - depth]?

/-- Whether a slice that stands deeper has passed through a level: its entry at that depth has the tag. -/
def Slice.passed (x : Slice) (depth : Nat) (tag : Word) : Bool := depth == 0 || x.tagAt? depth == some tag

/-- Whether a slice holds a rendezvous up: at its level with a lane that has not reached it, or deeper while lanes of the level are
deferred or wait there (R138). -/
def Slice.holdsUp (y : Slice) (r : Rendezvous) : Bool :=
  let there := (y.rdv.filter r.same).foldl (fun m q => m ||| q.mask) 0
  if y.rcvDepth = r.depth then y.topTag == r.tag && y.awaited &&& ~~~there != 0
  else r.depth < y.rcvDepth && y.passed r.depth r.tag && (there != 0 || y.deferred.any fun d => d.depth == r.depth)

/-- Whether a rendezvous has gathered every awaited lane of every slice of its level (R138). -/
def Group.rendezvousDone (g : Group) (r : Rendezvous) : Bool := g.slices.all fun y => !y.holdsUp r

/-- A path added, with the issue stamp it inherits and the clk from which it may issue (R145). -/
def Group.addPath (g : Group) (last from_ : Nat) : Group :=
  { g with paths := g.paths ++ [{ id := g.nextPath, last := last, issueFrom := from_ }], nextPath := g.nextPath + 1 }

/-- Paths that no slice runs are dropped. -/
def Group.dropPaths (g : Group) : Group :=
  { g with paths := g.paths.filter fun p => g.slices.any fun x => x.inPath p.id }

/-- The slices that a test selects turn to their deferred sets, each as a path of its own (R127). -/
def Group.turnSlice (g : Group) (n from_ : Nat) : Group :=
  let x := g.slice n
  let last := ((g.path? x.path).map (·.last)).getD x.last
  let d := x.deferred.find? fun d => d.depth == x.rcvDepth
  let g := g.addPath last from_
  let p := g.nextPath - 1
  let g := g.modSlices fun y => if y.idx = n then { y.turn p with last := last } else y
  let g := g.modPath p fun q => { q with retry := d.bind (·.retry), noArrive := (d.map (·.noArrive)).getD false, held := x.held }
  g.dropPaths

/-- The pop of every slice whose top entry has a tag (R129). The merged path is held if the slices are (R143, R329). -/
def Group.popTag (g : Group) (tag : Word) (from_ : Nat) : Group :=
  let ys := g.slices.filter fun y => y.topTag == tag && !y.rcv.isEmpty
  let back := ys.any fun y => (y.rcv.head?.map fun e => e.rejoined).getD false
  let last := ys.foldl (fun m y => max m y.last) 0
  let held := ys.all fun y => y.held
  let g := g.addPath last from_
  let p := g.nextPath - 1
  let g := g.modSlices fun y => if y.topTag == tag && !y.rcv.isEmpty then y.pop p else y
  let g := g.clearAges
  let g := if back then g.clearCache else g
  (g.modPath p fun q => { q with held := held }).dropPaths

/-- The completion of a rendezvous: its slices form one path at the next slot (R138). -/
def Group.completeRendezvous (g : Group) (r : Rendezvous) (from_ : Nat) : Group :=
  let ys := g.slices.filter fun y => y.rdv.any r.same
  let keep := ys.all fun y => (y.rdv.filter r.same).all (·.keep)
  let last := ys.foldl (fun m y => max m y.last) 0
  let held := ys.all fun y => y.held
  let g := g.addPath last from_
  let p := g.nextPath - 1
  let g := g.modSlices fun y =>
    if y.rdv.any r.same then
      { y with run := (y.rdv.filter r.same).foldl (fun m q => m ||| q.mask) 0 &&& ~~~y.gone, pc := r.next, path := p
               stat := .running, rdv := y.rdv.filter fun q => !r.same q }
    else y
  let g := g.clearAges
  ((if keep then g else g.clearCache).modPath p fun q => { q with held := held }).dropPaths

/-- Lanes removed from every mask of a group, as EXIT does (R139). -/
def Slice.retire (x : Slice) (m : SliceMask) : Slice :=
  { x with run := x.run &&& ~~~m, detached := x.detached &&& ~~~m, doomed := x.doomed &&& ~~~m, gone := x.gone ||| m
           deferred := (x.deferred.map fun d => { d with mask := d.mask &&& ~~~m }).filter fun d => d.mask != 0
           rcv := x.rcv.map fun e =>
             { e with member := e.member &&& ~~~m, absent := e.absent &&& ~~~m, arrived := e.arrived &&& ~~~m }
           rdv := x.rdv.map fun r => { r with mask := r.mask &&& ~~~m }
           carried := x.carried.zipIdx.map fun (d, n) => if m.getLsbD n then 0 else d }

/-- The doomed lanes of a slice that waits at the entry that awaits them (R326). -/
def Slice.reached (x : Slice) : SliceMask :=
  match x.rcv.head? with
  | some e => if x.run = 0 && x.stat == .waiting then x.doomed &&& e.absent else 0
  | none => 0

/-- One consequence of lanes having moved: a turn, the end of doomed lanes, a pop or a rendezvous completion. A slice whose stack must
first be filled waits for that (R132). -/
def Group.settleOnce (g : Group) (from_ : Nat) : Option Group :=
  let whole (y : Slice) : Bool := !(y.rcv.isEmpty && y.rcvSpilled > 0)
  match g.slices.find? fun x => whole x && x.mustTurn with
  | some x => some (g.turnSlice x.idx from_)
  | none =>
    if g.slices.any fun x => x.reached != 0 then some (g.modSlices fun x => x.retire x.reached)
    else
      match g.slices.find? fun x =>
          x.popReady && g.slices.all (fun y => !(y.topTag == x.topTag && !y.rcv.isEmpty) || y.popReady) with
      | some x => some (g.popTag x.topTag from_)
      | none =>
        match (g.slices.flatMap (·.rdv)).find? fun r => g.rendezvousDone r with
        | some r => some (g.completeRendezvous r from_)
        | none => none

/-- Every consequence of lanes having moved, up to a bound; the paths that they form may issue from a clk on. -/
def Group.settleN (g : Group) (from_ fuel : Nat) : Group :=
  match fuel with
  | 0 => g
  | fuel + 1 =>
    match g.settleOnce from_ with
    | some g' => g'.settleN from_ fuel
    | none => g

/-- A bound that no group reaches: each consequence uses up a deferred set, an entry or an arrival at REGANG of a slice, or makes a
slice wait that one of these, or an instruction, has left without a lane, or ends its doomed lanes. -/
def Group.settleBound (g : Group) : Nat :=
  24 + 2 * g.slices.foldl (fun n x => n + x.deferred.length + x.rcv.length + x.rdv.length) 0

/-- The slices of a path regrouped into paths by code address and level; the first keeps the path's number (R126). -/
def Group.regroup (g : Group) (p : Nat) : Group :=
  let old := g.path p
  let key (x : Slice) : Word × Nat × Word := (x.pc, x.rcvDepth, x.topTag)
  let xs := g.pathSlices p
  let keys := xs.foldl (fun (ks : List (Word × Nat × Word)) x => if ks.contains (key x) then ks else ks ++ [key x]) []
  keys.tail.foldl (fun g k =>
    let g := g.addPath old.last old.issueFrom
    let q := g.nextPath - 1
    (g.modPath q fun n => { n with held := old.held }).modPathSlices p fun x => if key x = k then { x with path := q } else x) g

/-- Lanes split by their target, in order of lowest lane. -/
def splitTargets (lanes : List Nat) (target : Nat → Word) : List (Word × SliceMask) :=
  lanes.foldl (fun acc n =>
    let t := target n
    let b : SliceMask := BitVec.ofNat 4 (2 ^ n)
    if acc.any fun e => e.1 == t then acc.map fun e => if e.1 = t then (t, e.2 ||| b) else e else acc ++ [(t, b)]) []

/-- A slice's part in a transfer (R126). -/
def Slice.transfer (x : Slice) (taken : LaneMask) (target : Nat → Word) (next : Word) : Slice :=
  let t := x.part taken &&& x.run
  if t = 0 then { x with pc := next }
  else
    let rest := x.run &&& ~~~t
    let sets := splitTargets (SliceMask.lanes t) (fun n => target (4 * x.idx + n)) ++ (if rest = 0 then [] else [(next, rest)])
    match sets with
    | [] => x
    | (pc, m) :: more =>
      { x with run := m, pc := pc
               deferred := x.deferred ++ more.map fun e => { pc := e.1, mask := e.2, depth := x.rcvDepth } }

/-- Transfer(taken, target) of the issuing path (R126). The part with the lowest taken lane becomes current (R125), the age
latches are invalidated (R65), the path leaves its bundle, and its parts issue again gap clk after the transfer (R145). -/
def Group.transfer (g : Group) (p : Nat) (taken : LaneMask) (target : Nat → Word) (next : Word) (stamp gap : Nat) : Group :=
  let g := g.modPathSlices p fun x => x.transfer taken target next
  let g := g.modPath p fun q => q.sent (if taken = 0 then q.issueFrom else g.lastIssue + gap)
  let g := g.regroup p
  if taken = 0 then g
  else
    let g := { g with cur := (g.slice (LaneMask.lowest taken / 4)).path, xfer := stamp }
    { g.clearAges with lastPath := g.cur }

/-! ### The call backing store (R132, R133) -/

/-- The context of an id. -/
def State.ctx? (s : State) (id : Nat) : Option Context := s.ctxs.find? fun c => c.id == id
/-- The kernel of a serial number. -/
def State.kernel? (s : State) (k : Nat) : Option Kernel := s.kernels.find? fun x => x.id == k
/-- The state with a kernel changed. -/
def State.modKernel (s : State) (k : Nat) (f : Kernel → Kernel) : State :=
  { s with kernels := s.kernels.map fun x => if x.id = k then f x else x }
/-- The state with a context changed. -/
def State.modCtx (s : State) (id : Nat) (f : Context → Context) : State :=
  { s with ctxs := s.ctxs.map fun c => if c.id = id then f c else c }
/-- A partition's units. -/
def State.part (s : State) (n : Nat) : Part := Store.getOr s.parts n {}
/-- The state with a partition's units changed. -/
def State.modPart (s : State) (n : Nat) (f : Part → Part) : State := { s with parts := Store.set s.parts n (f (s.part n)) }

/-- The translation space of a context. -/
def State.ctxSpace (s : State) (id : Nat) : Space := ((s.ctx? id).map (·.space)).getD {}

/-- The translation space in which a group's code is fetched and its own accesses made (R320, R321). -/
def State.groupSpace (s : State) (g : Group) : Space :=
  let sp := match g.kind with
    | .user => s.ctxSpace g.ctx
    | .handler => if g.ctx = 0 then (s.part g.part).space else s.ctxSpace g.ctx
    | .curator => (s.part g.part).space
  { sp with core := g.core }

/-- The record bound to a handler lane (R319). -/
def State.recOf? (s : State) (g : Group) (l : Nat) : Option TrapRec :=
  match Store.get? g.bound l with
  | none => none
  | some b =>
    match (s.part g.part).folios.find? fun f => f.num == b.folio with
    | some f => (f.recs.getD b.pos none)
    | none => none

/-- The translation space of a lane's accesses: a handler lane acts for its origin (R321). -/
def State.laneSpace (s : State) (g : Group) (l : Nat) : Space :=
  if g.kind = .handler then
    match s.recOf? g l with
    | some r => { s.ctxSpace r.ctx with core := g.core }
    | none => s.groupSpace g
  else s.groupSpace g

/-- The slot of the agent that a lane's accesses are made for: a handler lane acts as its origin's group (R173, R321). -/
def State.laneUnit (s : State) (g : Group) (l : Nat) : Nat :=
  if g.kind = .handler then ((s.recOf? g l).map (·.unit)).getD g.unit else g.unit

/-- The translation space of a group-wide operation: that of the lowest active lane's origin in a handler group (R321). -/
def State.wideSpace (s : State) (g : Group) (act : LaneMask) : Space := s.laneSpace g (LaneMask.lowest act)

/-- The address of a slice's area in the call backing store (R132). -/
def Group.area (g : Group) (x : Nat) : Word := g.cbase + word (((g.core * 64 + g.slot) * 8 + x) * g.csize)

/-- Bytes written at a virtual address, page by page; none when a page faults. -/
def State.storeVa (s : State) (g : Group) (va : Word) (bs : List Byte) : State × Bool :=
  let first := bs.take (4096 - va.toNat % 4096)
  let rest := bs.drop (4096 - va.toNat % 4096)
  let put (s : State) (va : Word) (bs : List Byte) : State × Option Nat :=
    match s.translate (s.groupSpace g) va .write with
    | (s, .ok pa _ _ _) => (s, some pa)
    | (s, .fault _ _) => (s, if bs.isEmpty then some 0 else none)
  match put s va first with
  | (s, none) => (s, false)
  | (s, some pa) =>
    if rest.isEmpty then (s.store g.unit pa first, true)
    else
      match put s (va + word first.length) rest with
      | (s, none) => (s, false)
      | (s, some pb) => ((s.store g.unit pa first).store g.unit pb rest, true)

/-- Bytes read at a virtual address, in one page or two. -/
def State.loadVa (s : State) (sp : Space) (va : Word) (n : Nat) (k : Access) : State × Option (List Byte) :=
  let n1 := min n (4096 - va.toNat % 4096)
  match s.translate sp va k with
  | (s, .fault _ _) => (s, none)
  | (s, .ok pa _ _ _) =>
    let s := s.touch pa n1
    if n1 = n then (s, some (s.mm.bytes pa n))
    else
      match s.translate sp (va + word n1) k with
      | (s, .fault _ _) => (s, none)
      | (s, .ok pb _ _ _) =>
        let s := s.touch pb (n - n1)
        (s, some (s.mm.bytes pa n1 ++ s.mm.bytes pb (n - n1)))

/-- A spilled reconvergence entry's 32 bytes (R132). -/
def RcvEntry.toBytes (e : RcvEntry) : List Byte :=
  leBytes e.rpc.toNat 8 ++ leBytes e.tag.toNat 8 ++ leBytes e.mode.toNat 4 ++
  leBytes (e.member.toNat + 16 * e.absent.toNat + 256 * e.arrived.toNat) 2 ++ leBytes e.retDepth 2 ++ leBytes 0 8

/-- The bits of a mode value that the register holds: the reserved ones read as 0 on every path (R5, R73). -/
def modeStored (m : Word32) : Word32 := m &&& 0x07FFFFFF

/-- A reconvergence entry read back from its 32 bytes. R132 and R133 name no status for bytes that software has changed: the zero fields are
ignored, and a saved mode with a code that R73 forbids is loaded as it stands (DESIGN CHOICE, log 70). -/
def RcvEntry.ofBytes (b : List Byte) : RcvEntry :=
  let m := leNat ((b.drop 20).take 2)
  { rpc := word (leNat (b.take 8)), tag := word (leNat ((b.drop 8).take 8))
    mode := modeStored (BitVec.ofNat 32 (leNat ((b.drop 16).take 4))), member := BitVec.ofNat 4 m
    absent := BitVec.ofNat 4 (m / 16), arrived := BitVec.ofNat 4 (m / 256), retDepth := leNat ((b.drop 22).take 2) }

/-- The entries of a spilled block, newest first, as they stand now (R132): lanes that have gone since are no members, and those that
have rejoined are not absent; two flags of each are kept with the slice. -/
def Slice.blockRcv (x : Slice) (b : List Byte) : List RcvEntry :=
  [7, 6, 5, 4, 3, 2, 1, 0].zipIdx.map fun (i, n) =>
    let e := RcvEntry.ofBytes ((b.drop (32 * i)).take 32)
    let f := x.rcvNotes.getD n { tag := e.tag }
    { e with member := e.member &&& ~~~x.gone, arrived := e.arrived &&& ~~~x.gone, absent := e.absent &&& x.detached
             isImplicit := f.isImplicit, rejoined := f.rejoined || e.absent &&& ~~~x.detached &&& ~~~x.gone != 0 }

/-- The return addresses of the newest spilled block, newest first (R132), from its bytes; n of them. -/
def blockRets (n : Nat) (b : List Byte) : List Word :=
  (([0, 1, 2, 3, 4, 5, 6, 7].map fun i => word (leNat ((b.drop (8 * i)).take 8))).take n).reverse

/-- Where the newest spilled return block begins, in addresses, and how many it holds. -/
def Slice.retBlock (x : Slice) : Nat := (x.retSpilled - 1) / 8 * 8
def Slice.retInBlock (x : Slice) : Nat := x.retSpilled - x.retBlock

/-- Whether spilling up to the given block bytes would make the two kinds overlap (R133). -/
def Group.spillFits (g : Group) (retSpilled rcvSpilled : Nat) : Bool := 8 * retSpilled + 32 * rcvSpilled ≤ g.csize

/-- A return pushed on a slice's stack; 16 held first spill the oldest 8 (R132). Where a cut has left the newest block partly filled,
the spill fills that block (DESIGN CHOICE, log 58). false: SPILL. -/
def State.pushReturn (s : State) (u x : Nat) (a : Word) : State × Bool :=
  let g := s.grp u
  let sl := g.slice x
  let set (s : State) (y : Slice) : State := s.modGrp u fun g => g.modSlices fun z => if z.idx = x then y else z
  if sl.retDepth + 1 > 65535 then (s, false)
  else if sl.ret.length < 16 then (set s { sl with ret := a :: sl.ret, fillFault := false }, true)
  else
    let n := 8 - sl.retSpilled % 8
    if !g.spillFits (sl.retSpilled + n) sl.rcvSpilled then (s, false)
    else
      let block := (sl.ret.drop (16 - n)).reverse.flatMap fun w => leBytes w.toNat 8
      match s.storeVa g (g.area x + word (8 * sl.retSpilled)) block with
      | (s, true) => (set s { sl with ret := a :: sl.ret.take (16 - n), retSpilled := sl.retSpilled + n, fillFault := false }, true)
      | (s, false) => (s, false)

/-- What a slice keeps of an entry that it spills. -/
def RcvEntry.note (e : RcvEntry) : SpillNote := { tag := e.tag, isImplicit := e.isImplicit, rejoined := e.rejoined }

/-- A reconvergence entry pushed on a slice's stack; 16 held first spill the oldest 8 (R132). -/
def State.pushRcv (s : State) (u x : Nat) (e : RcvEntry) : State × Bool :=
  let g := s.grp u
  let sl := g.slice x
  let set (s : State) (y : Slice) : State := s.modGrp u fun g => g.modSlices fun z => if z.idx = x then y else z
  if sl.rcv.length < 16 then (set s { sl with rcv := e :: sl.rcv, fillFault := false }, true)
  else if !g.spillFits sl.retSpilled (sl.rcvSpilled + 8) then (s, false)
  else
    let block := (sl.rcv.drop 8).reverse.flatMap RcvEntry.toBytes
    match s.storeVa g (g.area x + word g.csize - word (32 * (sl.rcvSpilled + 8))) block with
    | (s, true) =>
      (set s { sl with rcv := e :: sl.rcv.take 8, rcvSpilled := sl.rcvSpilled + 8, fillFault := false
                       rcvNotes := (sl.rcv.drop 8).map RcvEntry.note ++ sl.rcvNotes }, true)
    | (s, false) => (s, false)

/-- Whether a slice's stack is to be filled (R132), and no fill that faulted awaits its resumption (R133). -/
def Slice.wantsFill (x : Slice) : Bool :=
  !x.fillFault && ((x.ret.isEmpty && x.retSpilled > 0) || (x.rcv.isEmpty && x.rcvSpilled > 0))

/-- The fill of a slice's empty on-chip stack (R132); false when an access faults (R133). -/
def State.fillSlice (s : State) (u x : Nat) : State × Bool :=
  let g := s.grp u
  let sl := g.slice x
  let set (s : State) (y : Slice) : State := s.modGrp u fun g => g.modSlices fun z => if z.idx = x then y else z
  if sl.ret.isEmpty && sl.retSpilled > 0 then
    match s.loadVa (s.groupSpace g) (g.area x + word (8 * sl.retBlock)) 64 .read with
    | (s, some b) => (set s { sl with ret := blockRets sl.retInBlock b, retSpilled := sl.retBlock }, true)
    | (s, none) => (s, false)
  else if sl.rcv.isEmpty && sl.rcvSpilled > 0 then
    match s.loadVa (s.groupSpace g) (g.area x + word g.csize - word (32 * sl.rcvSpilled)) 256 .read with
    | (s, some b) =>
      (set s { sl with rcv := sl.blockRcv b, rcvSpilled := sl.rcvSpilled - 8, rcvNotes := sl.rcvNotes.drop 8 }, true)
    | (s, none) => (s, false)
  else (s, true)

/-! ### Error records (R372) -/

/-- The 64 bytes of an error record, with what a confidential world's record keeps back or without. -/
def ErrRec.bytes (e : ErrRec) (full : Bool) : List Byte :=
  let f (n : Nat) : Nat := if full then n else 0
  leBytes e.cause 1 ++ leBytes e.kind 1 ++ leBytes e.unit 2 ++ leBytes e.part 1 ++ leBytes e.world 1 ++ leBytes 0 2 ++ leBytes e.cyc 8 ++
  leBytes e.seq 4 ++ leBytes e.count 4 ++ leBytes (f e.ctx) 4 ++ leBytes (f e.tag) 4 ++ leBytes (f e.addr) 8 ++ leBytes (f e.pc) 8 ++
  leBytes (f e.data) 16

/-- An error record with the sealed copy of a confidential world's. -/
def ErrRec.boxed (e : ErrRec) : ErrRec := { e with box := if e.world = 0 then [] else Config.sealRecord e.world (e.bytes true) }

/-- The error log with a record, or with the previous record's count raised when it repeats it within 1,000,000 clk. -/
def State.logError (s : State) (e : ErrRec) : State :=
  let fresh : State := { s with errLog := (({ e with cyc := s.cyc, seq := s.errSeq } : ErrRec).boxed :: s.errLog).take 4096
                                errSeq := (s.errSeq + 1) % 2 ^ 32 }
  match s.errLog with
  | x :: r =>
    if x.cause = e.cause ∧ x.kind = e.kind ∧ x.unit = e.unit ∧ x.part = e.part ∧ x.world = e.world ∧ s.cyc - x.cyc < 1000000 then
      { s with errLog := ({ x with count := min (x.count + 1) 0xFFFFFFFF } : ErrRec).boxed :: r }
    else fresh
  | [] => fresh

/-! ### Trap records and the fatal ring (R315, R317, R322) -/

/-- The 64 bytes of a trap record (R315). -/
def TrapRec.toBytes (r : TrapRec) : List Byte :=
  leBytes r.ctx 4 ++ leBytes r.core 2 ++ leBytes r.slot 1 ++ leBytes r.lane 1 ++ leBytes r.cause 1 ++
  leBytes (r.level + 16 * r.reason + 128 * r.fatal.toNat) 1 ++ leBytes r.dest 1 ++ leBytes r.status 1 ++
  leBytes r.instr.toNat 4 ++ leBytes r.pc.toNat 8 ++ leBytes r.fault.toNat 8 ++ leBytes r.a.toNat 8 ++
  leBytes r.b.toNat 8 ++ leBytes r.c.toNat 8 ++ leBytes r.repair.toNat 8

/-- A field of a record's bytes. -/
def fieldOf (b : List Byte) (off n : Nat) : Nat := leNat ((b.drop off).take n)

/-- A record with the values a handler has left in its bytes; its identity is kept by the registrar. -/
def TrapRec.withBytes (r : TrapRec) (b : List Byte) : TrapRec :=
  { r with ctx := fieldOf b 0 4, core := fieldOf b 4 2, slot := fieldOf b 6 1, lane := fieldOf b 7 1
           cause := fieldOf b 8 1, level := fieldOf b 9 1 % 4, fatal := fieldOf b 9 1 / 128 == 1
           reason := fieldOf b 9 1 / 16 % 8, dest := fieldOf b 10 1, status := fieldOf b 11 1
           instr := BitVec.ofNat 32 (fieldOf b 12 4), pc := word (fieldOf b 16 8), fault := word (fieldOf b 24 8)
           a := word (fieldOf b 32 8), b := word (fieldOf b 40 8), c := word (fieldOf b 48 8), repair := word (fieldOf b 56 8) }

/-- The bytes of a partition's root region node: those last read from the node cache, which a store does not change before a launch
that follows REGION_SYNC, or where none have been read those in memory (R111). -/
def State.rootBytes (s : State) (part : Nat) : List Byte :=
  let p := s.part part
  let pa := s.canonPa p.regionTable
  if p.rootNode.isEmpty then (s.mm.settle pa 128).bytes pa 128 else p.rootNode

/-- A field of a partition's root region node. -/
def State.rootField (s : State) (part off n : Nat) : Nat := fieldOf (s.rootBytes part) off n

/-- The base of the device area of a partition's root region, if the root node is in use (R109, R317). -/
def State.rootArea? (s : State) (part : Nat) : Option Nat :=
  if s.rootField part 0 1 = 1 then some (s.canonPa (s.rootField part 0x38 8)) else none

/-- The root region node read where the node cache has none (R111, R217). -/
def State.withRoot (s : State) (part : Nat) : State :=
  if (s.part part).rootNode.isEmpty then s.touch (s.canonPa (s.part part).regionTable) 128 else s

/-- The PA of a bound record (R317). -/
def State.recordPa (s : State) (part : Nat) (b : Bound) : Nat :=
  (s.rootArea? part).getD 0 + 0x50000 + 2048 * (b.folio % 1024) + 64 * b.pos

/-- A record's bytes written to its place in a folio. -/
def State.writeRecord (s : State) (part num pos : Nat) (r : TrapRec) : State :=
  let s := s.withRoot part
  match s.rootArea? part with
  | none => s
  | some base => s.store deviceUnit (base + 0x50000 + 2048 * num + 64 * pos) r.toBytes

/-- A handler lane's bound record as it stands in its folio, with the handler's writes (R323, R328); whose thread it is and where, the
registrar keeps (DEDUCED, log 75). -/
def State.boundRec (s : State) (g : Group) (l : Nat) : Option TrapRec :=
  match Store.get? g.bound l, s.recOf? g l with
  | some b, some r =>
    match s.rootArea? g.part with
    | none => some r
    | some _ =>
      let pa := s.recordPa g.part b
      some { r.withBytes ((s.mm.settle pa 64).bytes pa 64) with ctx := r.ctx, core := r.core, slot := r.slot, lane := r.lane }
  | _, _ => none

/-- A bound record read, with what the access does to its line (R217). -/
def State.readBound (s : State) (g : Group) (l : Nat) : State × Option TrapRec :=
  let s := s.withRoot g.part
  match Store.get? g.bound l, s.rootArea? g.part with
  | some b, some _ => let t := s.touch (s.recordPa g.part b) 64; (t, t.boundRec g l)
  | _, _ => (s, s.boundRec g l)

/-- A fatal record: appended to the fatal ring (R317), reported as an error record, counted in the kernel, and ending the
kernel's fault domain (R111, R322). -/
def State.fatalRecord (s : State) (r : TrapRec) (reason : Nat) : State :=
  let r := { r with fatal := true, reason := reason }
  let s := s.withRoot r.part
  let s :=
    match s.rootArea? r.part with
    | none => s
    | some base =>
      let s := s.touch (base + 0x40000) 32
      let prod := s.readNum (base + 0x40000) 4
      let cons := s.readNum (base + 0x40008) 4
      if (prod + 2 ^ 32 - cons) % 2 ^ 32 < 960 then
        (s.store deviceUnit (base + 0x41000 + 64 * (prod % 960)) r.toBytes).store deviceUnit (base + 0x40000) (leBytes (prod + 1) 4)
      else s.store deviceUnit (base + 0x40010) (leBytes (min (s.readNum (base + 0x40010) 4 + 1) 0xFFFFFFFF) 4)
  let s := s.logError { cause := r.cause, kind := 1, unit := 64 * r.core + r.slot, part := r.part, world := r.world, cyc := 0
                        seq := 0, ctx := r.ctx, tag := ((s.kernel? r.kernel).map (·.tag)).getD 0, addr := r.fault.toNat, pc := r.pc.toNat }
  let s := s.modKernel r.kernel fun k => { k with retired := k.retired + 1 }
  match s.kernel? r.kernel with
  | none => s
  | some k =>
    if k.eff.fault = 0 then s
    else
      let hit (x : Kernel) : Bool := x.ctx == k.ctx && x.eff.fault == k.eff.fault && x.st != .checking && x.ending == 0
      let ids := (s.kernels.filter hit).map (·.id)
      let s := { s with kernels := s.kernels.map fun x => if hit x then { x with ending := 0x28 } else x }
      ids.foldl (fun s i => s.schedule 0 (.kernelRetire i)) s

/-! ### Grace periods (R273 to R275) -/

/-- The groups of a partition, wherever they are. -/
def State.partGroups (s : State) (part : Nat) : List Group :=
  (s.groups ++ s.ctxs.flatMap (·.saved)).filter fun g => g.part == part

/-- What keeps a slice from being quiescent: its own depth or an operation's section, and the depths that its detached lanes carry (R274,
R375). -/
def State.holdsOf (s : State) (g : Group) (x : Slice) : List Holdout :=
  let h (code : Nat) : Holdout := { unit := g.unit, serial := g.serial, slice := x.idx, code := code }
  let own := x.depth != 0 || (s.ops ++ s.ctxs.flatMap (·.savedOps)).any fun o => o.serial == g.serial && o.sections.contains x.idx
  if x.gone = 15 then []
  else (if own then [h 0] else []) ++
    (([0, 1, 2, 3].filter fun n => x.carried.getD n 0 != 0).map fun n => h (1 + 4 * x.idx + n))

/-- What is not quiescent in a partition. -/
def State.sections (s : State) (part : Nat) : List Holdout :=
  (s.partGroups part).flatMap fun g => g.slices.flatMap fun x => s.holdsOf g x

/-- The holdouts that are still not quiescent; the completion is due once none is left (R275, R282). -/
def State.sweepPart (s : State) (part : Nat) : State :=
  let p := s.part part
  if !p.running || p.holdouts.isEmpty then s
  else
    let now := s.sections part
    let left := p.holdouts.filter fun h => now.any fun x => x.serial == h.serial && x.slice == h.slice && x.code == h.code
    let s := s.modPart part fun p => { p with holdouts := left }
    if left.isEmpty then s.schedule 600 (.gracePeriodComplete part) else s

/-- The holdouts of every partition seen at an instruction boundary. -/
def State.sweep (s : State) : State := (s.parts.map (·.1)).foldl State.sweepPart s

/-! ### Retiring lanes and groups -/

/-- Lanes of a group retired (R139), before the consequences of R127 and R129. -/
def Group.retireLanes (g : Group) (m : LaneMask) : Group := g.modSlices fun x => x.retire (x.part m)

/-- Whether every lane of a group is gone. -/
def Group.empty (g : Group) : Bool := g.slices.all fun x => x.gone == 15

/-- Whether something of a group is still outstanding (R121). -/
def State.outstanding (s : State) (g : Group) : Bool :=
  (s.mm.flights.any fun f => f.serial == g.serial) || (s.mm.stores.any fun x => x.serial == g.serial) || (s.ops.any fun o => o.serial == g.serial) ||
  (s.mail.any fun m => m.2.any fun e => e.serial == g.serial) || !g.passed.isEmpty ||
  (s.filing.any fun f => f.2.serial == g.serial) || (s.resuming.any fun r => r.rec_.serial == g.serial) ||
  (s.parts.any fun p => (p.2.folios.any fun f => f.recs.any fun r => (r.map (·.serial)) == some g.serial) ||
    p.2.unfiled.any fun r => r.2.serial == g.serial)

/-- Room has been freed: every kernel with blocks still to place is offered it (R105, R112). -/
def State.offerRoom (s : State) : State :=
  (s.kernels.filter fun k => k.st == .waiting || (k.st == .running && k.nextBlock < k.bx * k.by_ * k.bz)).foldl
    (fun s k => s.schedule 16 (.blockPlacement k.id)) s

/-- The part of R121 that frees a group with nothing left: its slot, registers and, with the last of its block, the block;
a kernel with no group left is due to retire, and one that leaves a lost store unreported ends FAULTED (R358). -/
def State.reap (s : State) (u : Nat) : State :=
  let s := s.sweep
  let g := s.grp u
  if !(s.hasGrp u) || !g.empty || s.outstanding g || g.kind == .curator then s
  else
    let s := { s with groups := s.groups.filter fun x => x.unit != u }
    let s := if !g.linkLost then s else
      (s.logError { cause := 0x1B, kind := 1, unit := u, part := g.part, world := g.world, cyc := 0, seq := 0, ctx := g.ctx }).modKernel
        g.kernel fun k => { k with ending := 0x28 }
    let s := if s.gangs.any (fun a => a.core == g.core) then s.schedule 0 (.gangStepAccept g.core) else s
    if g.kind != .user || s.groups.any (fun x => x.kind == .user && x.kernel == g.kernel && x.bid == g.bid) then s.offerRoom
    else
      let s := { s with blocks := s.blocks.filter fun b => !(b.kernel == g.kernel && b.bid == g.bid) }
      (s.schedule 0 (.kernelRetire g.kernel)).offerRoom

/-- The group of a serial number freed if nothing of it is left, wherever it stands. -/
def State.reapOf (s : State) (serial : Nat) : State :=
  match s.groups.find? fun g => g.serial == serial with
  | some g => s.reap g.unit
  | none => s.sweep

/-- The fill that R132 asks of slices whose on-chip stack is empty, with SPILL as the outcome when one faults. -/
def State.fillAll (s : State) (u : Nat) (xs : List Nat) : State × Option Nat :=
  match xs with
  | [] => (s, none)
  | x :: r =>
    if ((s.grp u).slice x).wantsFill then
      match s.fillSlice u x with
      | (s, true) => s.fillAll u r
      | (s, false) => (s, some x)
    else s.fillAll u r

/-- The consequences of lanes having moved in a group (R127, R129, R138), with the fills they need; the slice whose fill
faulted, if any. The paths that they form issue 2 clk after the lanes moved (R145). -/
def State.settleFill (s : State) (u moved fuel : Nat) : State × Option Nat :=
  match fuel with
  | 0 => (s, none)
  | fuel + 1 =>
    let s := s.modGrp u fun g => g.settleN (moved + 2) g.settleBound
    if (s.grp u).slices.any Slice.wantsFill then
      match s.fillAll u sliceIds with
      | (s, none) => s.settleFill u moved fuel
      | (s, some x) => (s, some x)
    else (s, none)

/-! ### Taking an exception -/

/-- A bound on the fills of a settling group: each takes entries from a slice's spilled ones. -/
def State.fillBound (s : State) (u : Nat) : Nat := 2 + (s.grp u).slices.foldl (fun n x => n + x.retSpilled + x.rcvSpilled) 0

/-- The effective group handler entry (R109, R329); a curator's is %sgh of its core (R368). -/
def State.handlerEntry (s : State) (g : Group) : Word :=
  match g.kind with
  | .curator => Store.getOr s.sgh g.core 0
  | _ => ((s.kernel? g.kernel).map (·.eff.handler)).getD 0

/-- A bundle from its 32 bytes (R15). -/
def Bundle.ofBytes (addr : Word) (b : List Byte) : Bundle :=
  { addr := addr, control := BitVec.ofNat 64 (fieldOf b 0 8)
    slots := slotIds.map fun n => BitVec.ofNat 32 (fieldOf b (8 + 4 * n) 4) }

/-- A bundle fetched through a group's translation, or the fault kind and stage (R38, R100). A window's error is a fault of its kind, and a
request that is lost, for whose fetch R358 names no outcome, one of kind 3 (DESIGN CHOICE, log 85). -/
def State.fetchAt (s : State) (g : Group) (addr : Word) : State × (Bundle ⊕ (Nat × Nat)) :=
  match s.translate (s.groupSpace g) addr .fetch with
  | (s, .fault k st) => (s, .inr (k, st))
  | (s, .ok pa _ _ _) =>
    match s.windowFault? .fetch pa with
    | (s, some k) => (s, .inr (k, 0))
    | (s, none) =>
      if s.reach pa = .lost then (s, .inr (3, 0))
      else
        let (s, b) := s.fetchBytes g pa
        (s, .inl (Bundle.ofBytes addr b))

/-- The handler's first bundle if the entry is usable (R329). -/
def State.usableEntry (s : State) (g : Group) : State × Option Word :=
  let e := s.handlerEntry g
  if e = 0 || !codeOk e then (s, none)
  else
    match s.fetchAt g (bundleOf e) with
    | (s, .inl b) => (s, if b.entry then some (bundleOf e) else none)
    | (s, .inr _) => (s, none)

/-- A fatal record's thread that has no trap record of its own: the group's lane at its code address. -/
def Group.threadRec (g : Group) (l cause : Nat) (pc : Word) : TrapRec :=
  { ctx := g.ctx, core := g.core, slot := g.slot, lane := l, cause := cause, dest := 0x0C, status := 0, instr := 0, pc := pc
    fault := 0, a := 0, b := 0, c := 0, repair := 0, unit := g.unit, serial := g.serial, part := g.part, world := g.world
    kernel := g.kernel, depth := (g.slice (l / 4)).depth }

/-- Numbers of the 864 folios (R317). -/
def folioCount : Nat := 864

/-- Records that waited for a folio are on their way again, oldest first, once one is free (R318). -/
def State.fileWaiting (s : State) (part : Nat) : State :=
  let p := s.part part
  if p.folios.length ≥ folioCount then s
  else
    p.unfiled.foldl (fun s e => ({ s with filing := s.filing ++ [(s.stamp, e.2)] }.schedule 0 (.recordFiled s.stamp)).tick)
      (s.modPart part fun p => { p with unfiled := [] })

/-- A handler lane's binding voided: the folio's position emptied, and the folio free when it was the last (R317, R319, R325). -/
def State.voidBinding (s : State) (u l : Nat) : State :=
  let g := s.grp u
  match Store.get? g.bound l with
  | none => s
  | some b =>
    let s := s.modGrp u fun g => { g with bound := Store.del g.bound l }
    s.modPart g.part fun p =>
      { p with folios := (p.folios.map fun f => if f.num = b.folio then { f with recs := modAt f.recs b.pos fun _ => none } else f).filter
                 fun f => !(f.st == 3 && f.recs.all Option.isNone) }

/-- The lanes of a slice that its top entry awaits and that are absent (R129, R325). -/
def Slice.awaitsAbsent (x : Slice) : SliceMask :=
  match x.rcv.head? with
  | some e => e.absent &&& x.detached &&& ~~~x.gone
  | none => 0

/-- Whether every path of a group waits at an arrival or at REGANG and an absent lane is among those awaited (R123). -/
def Group.awaitsAbsent (g : Group) : Bool := g.paths.isEmpty && g.slices.any fun x => x.awaitsAbsent != 0

/-- The wait on absent lanes begins, with its parking and its limit, or has ended (R123, R325). -/
def State.watchAbsent (s : State) (u : Nat) : State :=
  let g := s.grp u
  if g.awaitsAbsent then
    if g.absentSince.isSome then s
    else
      let limit := ((s.kernel? g.kernel).map (·.eff.rejoin)).getD 0
      let s := (s.modGrp u fun g => { g with absentSince := some s.cyc }).schedule 64 (.groupPark u)
      if limit = 0 then s else s.schedule limit (.rejoinLimit u)
  else if g.absentSince.isSome then s.modGrp u fun g => { g with absentSince := none }
  else s

/-- A group that is PARKED and has a path again becomes PENDING (R123). -/
def State.unpark (s : State) (u : Nat) : State :=
  if (s.grp u).st == .parked && !(s.grp u).awaitsAbsent then s.enterPending u else s

/-- A group from which lanes have been taken goes on, or retires (R121, R123, R129). A fill that faults meanwhile is made again, and trapped,
at an arrival. -/
def State.goOn (s : State) (u : Nat) : State :=
  let s := match s.settleFill u s.cyc (s.fillBound u) with
    | (s, none) => s
    | (s, some x) => s.schedule 0 (.arrival u ((s.grp u).slice x).path)
  ((s.watchAbsent u).unpark u).reap u

/-- The origin thread of a record retired: its lane leaves every mask of its slice (R322). -/
def State.retireThread (s : State) (r : TrapRec) : State :=
  if (s.grp r.unit).serial = r.serial then
    (s.modGrp r.unit fun g => g.retireLanes (BitVec.ofNat 32 (2 ^ r.lane))).goOn r.unit
  else s

/-- A folio from which records have been withdrawn: while it is open or forming the gaps close; a bound one keeps its positions, to which the
handler lanes are bound (DEDUCED, log 25). -/
def Folio.without (f : Folio) (out : TrapRec → Bool) : Folio :=
  if f.st = 3 then { f with recs := f.recs.map fun r => if r.any out then none else r }
  else { f with recs := f.recs.filter fun r => !r.any out }

/-- Whether a folio holds a record. -/
def Folio.held (f : Folio) : Bool := f.recs.any Option.isSome

/-- The collection window of a record's kernel (R319, R343). -/
def State.windowOf (s : State) (r : TrapRec) : Nat := ((s.kernel? r.kernel).map (·.eff.window)).getD 2048

/-- A folio not yet bound after a withdrawal: its records' bytes at their new positions, and the window that of its oldest record (R319). -/
def State.regather (s : State) (part : Nat) (f : Folio) : State :=
  let s := f.recs.zipIdx.foldl (fun s e => match e.1 with
    | some r => s.writeRecord part f.num e.2 r
    | none => s) s
  match f.recs.head?.bind id with
  | none => s
  | some r =>
    let w := s.windowOf r
    (s.modPart part fun p =>
      { p with folios := p.folios.map fun x => if x.num = f.num then { x with since := r.filed, window := w } else x }).scheduleAt (r.filed + w)
      (.collectionWindow part f.num)

/-- The state with every group changed, on the device and in images. -/
def State.mapGroups (s : State) (f : Group → Group) : State :=
  { s with groups := s.groups.map f, ctxs := s.ctxs.map fun c => { c with saved := c.saved.map f } }

/-- Records withdrawn wherever they stand: on their way, waiting, in folios and in images. Bindings to them are voided, and a folio without
a record is free (R317, R319). -/
def State.unfile (s : State) (out : TrapRec → Bool) : State :=
  let clean (p : Part) : Part :=
    { p with unfiled := p.unfiled.filter (fun r => !out r.2), folios := (p.folios.map fun f => f.without out).filter Folio.held }
  let cut := s.parts.flatMap fun (e : Nat × Part) =>
    (e.2.folios.filter fun f => f.st != 3 && f.recs.any fun r => r.any out).map fun f => (e.1, f.without out)
  let s := s.mapGroups fun g => { g with bound := g.bound.filter fun b => !(s.recOf? g b.1).any out }
  let s : State := { s with
    filing := s.filing.filter fun f => !out f.2, parts := s.parts.map fun (e : Nat × Part) => (e.1, clean e.2)
    ctxs := s.ctxs.map fun (c : Context) =>
      { c with savedRecs := c.savedRecs.filter (fun r => !out r), savedFolios := c.savedFolios.map fun f => f.without out } }
  cut.foldl (fun (s : State) (e : Nat × Folio) => s.regather e.1 e.2) s

/-- A detached handler lane whose origin thread is retired: the record nested on it or its resumption is withdrawn, and the lane goes when
its group next reaches the entry that awaits it (R326, R344). -/
def State.doomLane (s : State) (serial l : Nat) : State :=
  let mine (r : TrapRec) : Bool := r.serial == serial && r.lane == l
  let s := s.unfile mine
  let s := { s with resuming := s.resuming.filter fun x => !mine x.rec_ }
  let doom (x : Slice) : Slice :=
    if x.idx = l / 4 then { x with doomed := x.doomed ||| x.detached &&& BitVec.ofNat 4 (2 ^ (l % 4)) } else x
  let s := s.mapGroups fun g => if g.serial = serial then g.modSlices doom else g
  match s.groups.find? fun g => g.serial == serial with
  | some g => s.goOn g.unit
  | none => s

/-- The detached handler lanes that lose their thread with some records: those that are bound to one, and those whose own record is one. -/
def State.dooms (s : State) (out : TrapRec → Bool) : List (Nat × Nat) :=
  let gone (g : Group) (l : Nat) : Bool := (g.slice (l / 4)).detached.getLsbD (l % 4)
  let recs := s.filing.map (·.2) ++ s.parts.flatMap fun p => p.2.unfiled.map (·.2) ++ p.2.folios.flatMap fun f => f.recs.filterMap id
  ((s.groups ++ s.ctxs.flatMap (·.saved)).filter fun g => g.kind == .handler).flatMap fun g =>
    (laneIds.filter fun l => gone g l && ((s.recOf? g l).any out || recs.any fun r => r.serial == g.serial && r.lane == l && out r)).map
      fun l => (g.serial, l)

/-- Records of retired threads withdrawn, with what follows for handler lanes and for records that wait for a folio (R318, R344). -/
def State.dropRecs (s : State) (out : TrapRec → Bool) : State :=
  let doomed := s.dooms out
  let s := doomed.foldl (fun (s : State) (e : Nat × Nat) => s.doomLane e.1 e.2) (s.unfile out)
  (s.parts.map (·.1)).foldl State.fileWaiting s

/-- Every record and resumption of a group withdrawn. -/
def State.withdraw (s : State) (serial : Nat) : State :=
  { s with resuming := s.resuming.filter fun r => r.rec_.serial != serial }.dropRecs fun r => r.serial == serial

/-- The record of a lane, wherever it is: on its way, waiting, filed, forming, bound with the handler's writes, or resuming. It is withdrawn
from there, and a handler lane bound to it is voided (R325). -/
def State.takeRec (s : State) (serial lane : Nat) : State × Option TrapRec :=
  let is (r : TrapRec) : Bool := r.serial == serial && r.lane == lane
  let bound := s.groups.flatMap fun g => (g.bound.filter fun b => (s.recOf? g b.1).any is).map fun b => (g, b.1)
  let loose := s.filing.map (·.2) ++ (s.parts.flatMap fun p => p.2.unfiled.map (·.2) ++ p.2.folios.flatMap fun f => f.recs.filterMap id) ++
    s.resuming.map (·.rec_)
  let r := match bound with
    | e :: _ => s.readBound e.1 e.2
    | [] => (s, loose.find? is)
  ({ r.1 with resuming := r.1.resuming.filter fun x => !is x.rec_ }.dropRecs is, r.2)

/-- Every lane of a group retired with a fatal record, which of a detached lane is its own (R322, R329, R371); a curator is reloaded
(R368). -/
def State.failGroup (s : State) (u cause reason : Nat) (pc : Word) : State :=
  let g := s.grp u
  let lanes := laneIds.filter fun l => !((g.slice (l / 4)).gone.getLsbD (l % 4)) && g.slices.any (fun x => x.idx == l / 4)
  let s := lanes.foldl (fun s l =>
    match s.takeRec g.serial l with
    | (s, some r) => s.fatalRecord r reason
    | (s, none) => s.fatalRecord (g.threadRec l cause pc) reason) s
  let s := (s.withdraw g.serial).modGrp u fun g => { g.retireLanes (~~~0) with paths := [] }
  if g.kind = .curator then s.sweep.schedule 4096 (.curatorReload g.core) else s.reap u

/-- A handler group fails: every bound thread retired with reason 4 and the record as it stands, and the group retired (R327). -/
def State.failHandler (s : State) (u : Nat) : State :=
  let g := s.grp u
  let s := g.bound.foldl (fun s b =>
    match s.readBound (s.grp u) b.1 with
    | (s, some r) => ((s.fatalRecord r 4).voidBinding u b.1).retireThread r
    | (s, none) => s.voidBinding u b.1) s
  let s := s.modGrp u fun g => { g.retireLanes (~~~0) with paths := [] }
  ((s.withdraw g.serial).fileWaiting g.part).reap u

/-- A path held by a group-handler run: it fetches its bundle again when it is released (R19, R38); an arrival at a rendezvous is withdrawn,
and its step arrives again (R239, R329). -/
def Path.hold (q : Path) : Path :=
  { q with held := true, buf := none
           wait := q.wait.bind fun w => if w.why = .gang then none else some w }

/-- A group's arrivals at rendezvous latches withdrawn (R239). -/
def State.withdrawGang (s : State) (u : Nat) : State := { s with gangs := s.gangs.filter fun a => a.step.unit != u }

/-- TrapGroup(c) for a path of a group, with the code address that %tpc takes (R329). The instruction has no further effect, and the path
issues again 6 clk later (R334). -/
def State.trapGroupAt (s : State) (u p cause : Nat) (pc : Word) : State :=
  let g := s.grp u
  if g.kind = .handler then s.failHandler u
  else if g.hdl.length ≥ 2 then s.failGroup u cause 4 pc
  else
    match s.usableEntry g with
    | (s, none) => s.failGroup u cause 4 pc
    | (s, some e) =>
      let s := s.modGrp u fun g =>
        let g := { g with tpc := pc, tcause := cause, xfer := s.stamp
                          hdl := { kind := .gtrap, atSlot0 := if slotOf pc = 0 then some pc else none, retry := (g.path p).retry.map fun r => (g.pathPc p, r) } :: g.hdl }
        let ps := g.paths.map fun (q : Path) =>
          if q.id = p then { q.fresh with held := false, issueFrom := s.cyc + 6 } else q.hold
        let g := { g with paths := ps, cur := p, lastPath := p, slices := g.slices.map fun (x : Slice) => { x with held := !x.inPath p } }
        (g.clearAges).modPathSlices p fun x => { x with pc := e }
      (s.withdrawGang u).spend 1

/-- TrapGroup(c) for the issuing instruction. -/
def State.trapGroup (s : State) (cause : Nat) : State := s.trapGroupAt s.cur.unit s.cur.path cause s.cur.pc

/-- Every consequence of lanes having moved, at the clk of the instruction that moved them or now; a group left without lanes retires (R121);
a fill that faults raises SPILL on the path of its slice (R133). -/
def State.settle (s : State) (u : Nat) (moved : Nat := s.cyc) : State :=
  match s.settleFill u moved (s.fillBound u) with
  | (s, none) => if (s.grp u).empty && s.hasGrp u then (s.watchAbsent u).reap u else s.watchAbsent u
  | (s, some x) =>
    let sl := (s.grp u).slice x
    let s := s.modGrp u fun g => g.modSlices fun y => if y.idx = x then { y with fillFault := true } else y
    s.trapGroupAt u sl.path 0x13 sl.pc

/-- A record of a lane of a group, which nests where the lane is a bound handler lane's (R326). -/
def State.nested (s : State) (g : Group) (r : TrapRec) : TrapRec :=
  match s.recOf? g r.lane with
  | some o => if g.kind = .handler then { r with ctx := o.ctx, level := o.level + 1, kernel := o.kernel } else r
  | none => r

/-- The record of a lane of the issuing group (R315). -/
def State.laneRec (s : State) (l cause dest status : Nat) (fault a b c repair : Word) : TrapRec :=
  let g := s.g
  let base := g.threadRec l cause s.cur.pc
  s.nested g { base with dest := dest, status := status, instr := s.cur.instr, fault := fault, a := a, b := b, c := c, repair := repair }

/-- A lane leaves its slice's run mask and is marked detached and absent (R314), with the read-side depth that it carries (R274). -/
def Slice.detach (x : Slice) (n depth : Nat) : Slice :=
  let b : SliceMask := BitVec.ofNat 4 (2 ^ n)
  { x with run := x.run &&& ~~~b, detached := x.detached ||| b, carried := modAt x.carried n fun _ => depth
           deferred := (x.deferred.map fun d => { d with mask := d.mask &&& ~~~b }).filter fun d => d.mask != 0
           rcv := match x.rcv with
             | [] => []
             | e :: r => { e with absent := e.absent ||| b } :: r }

/-- The implicit entry that a trapping instruction pushes on every slice of its path when their stacks are empty (R314). -/
def Group.pushImplicit (g : Group) (p : Nat) (rpc : Word) : Group :=
  if (g.pathSlices p).any fun x => x.rcvDepth != 0 then g
  else
    let g' := g.modPathSlices p fun x =>
      if x.run = 0 then x
      else { x with rcv := [{ rpc := rpc, tag := word g.inst, member := x.run, mode := x.mode, retDepth := x.retDepth, isImplicit := true }] }
    { g' with inst := g.inst + 1 }

/-- Whether a record's lane detaches: a handler lane with no bound record does not (R392), nor does one at level 2 (R326). -/
def State.detaches (s : State) (g : Group) (r : TrapRec) : Bool :=
  (g.kind != .handler || (s.recOf? g r.lane).isSome) && r.level < 2

/-- A lane detached, with its record on its way to the registrar (R314, R318, R334). -/
def State.sendRec (s : State) (u moved : Nat) (r : TrapRec) : State :=
  let r := { r with due := moved + 40 }
  let s := s.modGrp u fun g => g.modSlices fun x => if x.idx = r.lane / 4 then x.detach (r.lane % 4) r.depth else x
  let s := s.scheduleAt (moved + 40) (.recordFiled s.stamp)
  { s with filing := s.filing ++ [(s.stamp, r)], stamp := s.stamp + 1 }

/-- A trap at level 2 (R326): the origin thread is retired with the record that the trap would have built, the handler lane that trapped
is retired, and the one it was bound to goes when its group reaches the entry that awaits it. -/
def State.endNesting (s : State) (u : Nat) (r b : TrapRec) : State :=
  let s := s.fatalRecord { r with level := 2 } 1
  let s := (s.modGrp u fun g => g.retireLanes (BitVec.ofNat 32 (2 ^ r.lane))).voidBinding u r.lane
  let s := match s.recOf? (s.grp b.unit) b.lane with
    | some o => (s.voidBinding b.unit b.lane).retireThread o
    | none => s
  (s.doomLane b.serial b.lane).fileWaiting r.part

/-- TrapLane for the lanes of one instruction, in ascending lane order (R314), with their records. A curator group takes
the first as a group trap (R313); a handler lane's record nests (R326), and a handler lane with no bound record is retired
(R392). The records go to the registrar (R318). -/
def State.detachLanes (s : State) (u p : Nat) (recs : List TrapRec) (moved : Nat := s.cyc) : State :=
  match recs with
  | [] => s
  | first :: _ =>
    let g := s.grp u
    if g.kind = .curator then s.trapGroupAt u p first.cause first.pc
    else
      let s := if recs.any fun r => s.detaches g r then s.modGrp u fun g => g.pushImplicit p (nextBundle first.pc) else s
      let s := recs.foldl (fun s r =>
        if s.detaches (s.grp u) r then s.sendRec u moved r
        else
          match s.recOf? (s.grp u) r.lane with
          | none =>
            (s.logError { cause := r.cause, kind := 1, unit := u, part := g.part, world := g.world, cyc := 0, seq := 0 }).modGrp u fun g =>
              g.retireLanes (BitVec.ofNat 32 (2 ^ r.lane))
          | some b => s.endNesting u r b) s
      (s.settle u moved).reap u

/-- Where a group-handler run ends: the path continues at %tpc or %uipc, and the held paths are released when the depth
returns to 0 (R144, R329). none: UIRET outside a run; the target is checked by the caller. -/
def Group.returnTarget? (g : Group) : Option (Word × Option Word) :=
  match g.hdl with
  | [] => none
  | f :: _ => some (if f.kind = .gtrap then g.tpc else g.uipc, f.atSlot0)

/-- Whether a wait is on a phase of a barrier that the group has arrived in (R210). -/
def Wait.isPhase (w : Wait) : Bool :=
  match w.why with
  | .phase _ _ _ => true
  | _ => false

/-- The return from the innermost group-handler run to a code address (R144, R329); a barrier wait interrupted there goes on
(R210), and a retried instruction reads its record's values again (R323). The path issues again at a clk, and fills that faulted there are
made again (R133). -/
def Group.returnTo (g : Group) (p : Nat) (target : Word) (stamp from_ : Nat) : Group :=
  let noArrive := (g.hdl.head?.bind (·.atSlot0)) == some target
  let hdl := g.hdl.tail
  let back : Option Wait := (g.hdl.head?.bind (·.barWait)).bind fun e => if e.1 = target then some e.2 else none
  let retry : Option Retry := (g.hdl.head?.bind (·.retry)).bind fun e => if e.1 = target then some e.2 else none
  let ps := g.paths.map fun (q : Path) =>
    if q.id = p then { q.fresh with noArrive := noArrive, wait := back, retry := retry, issueFrom := from_ }
    else if hdl.isEmpty then { q with held := false } else q
  let g := { g with hdl := hdl, xfer := stamp, paths := ps
                    slices := if hdl.isEmpty then g.slices.map fun (x : Slice) => { x with held := false } else g.slices }
  g.clearAges.modPathSlices p fun x => { x with pc := target, fillFault := false }

end Sys2Proof.Machine
end

