-- ==== Sys2Proof/WellFormed.lean ====
section
/-!
DEFINITION. WellFormed.lean: the conditions of R24, R25 and the entries' own operand tables on an instruction's fields, apart
from those that depend on the mode register, the control bits or the allocation.
-/
namespace Sys2Proof

/-- May stand as a source (R24). -/
def Opnd.sourceOk (o : Opnd) : Bool :=
  match o with
  | .none => false
  | _ => true

/-- May stand as a destination (R24). -/
def Opnd.destOk (o : Opnd) : Bool :=
  match o with
  | .cache _ | .zero | .sreg _ | .greg _ => true
  | _ => false

/-- A uniform source (R25). -/
def Opnd.uniform (o : Opnd) : Bool :=
  match o with
  | .sreg _ | .lit | .zero => true
  | _ => false

/-- An s register. -/
def Opnd.isS (o : Opnd) : Bool :=
  match o with
  | .sreg _ => true
  | _ => false

/-- A g register. -/
def Opnd.isG (o : Opnd) : Bool :=
  match o with
  | .greg _ => true
  | _ => false

/-- A cache slot. -/
def Opnd.isC (o : Opnd) : Bool :=
  match o with
  | .cache _ => true
  | _ => false

/-- An age latch. -/
def Opnd.isA (o : Opnd) : Bool :=
  match o with
  | .age _ => true
  | _ => false

/-- A literal. -/
def Opnd.isLit (o : Opnd) : Bool :=
  match o with
  | .lit => true
  | _ => false

/-- z. -/
def Opnd.isZ (o : Opnd) : Bool :=
  match o with
  | .zero => true
  | _ => false

/-- An age latch or a cache slot, whose value a wait keeps (R66). -/
def Opnd.isUpper (o : Opnd) : Bool := o.isA || o.isC

/-- A destination that may be g, c or z. -/
def Opnd.gcz (o : Opnd) : Bool := o.isG || o.isC || o.isZ

/-- A destination that may be s or z. -/
def Opnd.sz (o : Opnd) : Bool := o.isS || o.isZ

/-- A target or link source: g, s, c or a0 to a3 (R134). -/
def Opnd.target (o : Opnd) : Bool := o.isG || o.isS || o.isC || o.isA

/-- An even s register up to a limit. -/
def Opnd.evenS (o : Opnd) (limit : Nat) : Bool :=
  match o with
  | .sreg n => n.val % 2 == 0 && n.val ≤ limit
  | _ => false

/-- An s destination needs uniform sources (R25). -/
def r25 (d : Opnd) (srcs : List Opnd) : Bool := !d.isS || srcs.all Opnd.uniform

/-- The conditions that ICMP has (R152). -/
def icmpCond (c : Cond) : Bool :=
  match c with
  | .ord | .uno | .ueq | .one => false
  | _ => true

/-- An ETYPE code of R40. -/
def typeCode (n : Nat) : Bool := n < 16 && n != 7

/-- Field A of CCTL, by op (R181). -/
def cctlOk (a : Opnd) (op : Nat) : Bool :=
  match op with
  | 1 => a.uniform
  | 2 => a.sourceOk
  | _ => decide (a = .age 0)

/-- Barriers of a level (R204). -/
def barCount (level : Nat) : Nat :=
  match level with
  | 1 => 16
  | 2 => 8
  | _ => 4

/-- The first register of a block: gN with N mod 4 = 0 (R230). -/
def Opnd.block (o : Opnd) : Bool :=
  match o with
  | .greg n => n.val % 4 == 0
  | _ => false

/-- Whether an instruction's fields meet its entry's operand table (R36). Events have no fields to check. -/
def Instr.wf (i : Instr) : Bool :=
  match i with
  | .nop => true
  | .bra _ => true
  | .br _ _ _ => true
  | .brx a => a.target
  | .call _ => true
  | .callx d a => (d.isG || d.isC || d.isZ || (d.isS && a.uniform)) && a.target
  | .ret => true
  | .retx a => a.target
  | .rcvp _ => true
  | .regang => true
  | .exit => true
  | .yield => true
  | .mode a => a.uniform
  | .modef a i => a.uniform && i.toNat ≤ 11
  | .trap d a _ => d.gcz && a.sourceOk
  | .brkpt => true
  | .sleep a => a.uniform
  | .svc d a i => d.sz && a.evenS 26 && i.toNat % 32 != 0x1F
  | .uintr d a b => d.sz && a.uniform && b.uniform
  | .uiret => true
  | .hret a => a.isG || a.isS || a.isLit || a.isZ
  | .hkill => true
  | .xrd d a b => d.gcz && (a.isG || a.isS || a.isLit) && (b.isLit || b.isZ)
  | .xwr a b => (a.isG || a.isS || a.isLit) && b.sourceOk
  | .rdsr d _ => d.destOk
  | .wrsr a _ => a.uniform
  | .iadd d a b => d.destOk && a.sourceOk && b.sourceOk && r25 d [a, b]
  | .isub d a b => d.destOk && a.sourceOk && b.sourceOk && r25 d [a, b]
  | .imul d a b => d.destOk && a.sourceOk && b.sourceOk && r25 d [a, b]
  | .imulh d a b => d.destOk && a.sourceOk && b.sourceOk && r25 d [a, b]
  | .imad d a b => d.destOk && a.sourceOk && b.sourceOk && r25 d [a, b]
  | .idiv d a b => d.destOk && a.sourceOk && b.sourceOk && r25 d [a, b]
  | .irem d a b => d.destOk && a.sourceOk && b.sourceOk && r25 d [a, b]
  | .imin d a b => d.destOk && a.sourceOk && b.sourceOk && r25 d [a, b]
  | .imax d a b => d.destOk && a.sourceOk && b.sourceOk && r25 d [a, b]
  | .iabs d a => d.destOk && a.sourceOk && r25 d [a]
  | .ineg d a => d.destOk && a.sourceOk && r25 d [a]
  | .icmp c _ a b => icmpCond c && a.sourceOk && b.sourceOk
  | .lea d a b => d.destOk && a.sourceOk && b.sourceOk && r25 d [a, b]
  | .imulw d a b => d.destOk && a.sourceOk && b.sourceOk && r25 d [a, b]
  | .and d a b => d.destOk && a.sourceOk && b.sourceOk && r25 d [a, b]
  | .or d a b => d.destOk && a.sourceOk && b.sourceOk && r25 d [a, b]
  | .xor d a b => d.destOk && a.sourceOk && b.sourceOk && r25 d [a, b]
  | .andn d a b => d.destOk && a.sourceOk && b.sourceOk && r25 d [a, b]
  | .not d a => d.destOk && a.sourceOk && r25 d [a]
  | .shl d a b => d.destOk && a.sourceOk && b.sourceOk && r25 d [a, b]
  | .shr d a b => d.destOk && a.sourceOk && b.sourceOk && r25 d [a, b]
  | .sar d a b => d.destOk && a.sourceOk && b.sourceOk && r25 d [a, b]
  | .rotl d a b => d.destOk && a.sourceOk && b.sourceOk && r25 d [a, b]
  | .popc d a => d.destOk && a.sourceOk && r25 d [a]
  | .clz d a => d.destOk && a.sourceOk && r25 d [a]
  | .ctz d a => d.destOk && a.sourceOk && r25 d [a]
  | .brev d a => d.destOk && a.sourceOk && r25 d [a]
  | .bfx d a b => d.destOk && a.sourceOk && b.sourceOk && r25 d [a, b]
  | .bfi d a b => d.destOk && a.sourceOk && b.sourceOk && r25 d [a, b]
  | .sel d a b => d.destOk && a.sourceOk && b.sourceOk && r25 d [a, b]
  | .fadd d a b => d.destOk && a.sourceOk && b.sourceOk && r25 d [a, b]
  | .fsub d a b => d.destOk && a.sourceOk && b.sourceOk && r25 d [a, b]
  | .fmul d a b => d.destOk && a.sourceOk && b.sourceOk && r25 d [a, b]
  | .ffma d a b => d.destOk && a.sourceOk && b.sourceOk && r25 d [a, b]
  | .ffms d a b => d.destOk && a.sourceOk && b.sourceOk && r25 d [a, b]
  | .fmin d a b => d.destOk && a.sourceOk && b.sourceOk && r25 d [a, b]
  | .fmax d a b => d.destOk && a.sourceOk && b.sourceOk && r25 d [a, b]
  | .fabs d a => d.destOk && a.sourceOk && r25 d [a]
  | .fneg d a => d.destOk && a.sourceOk && r25 d [a]
  | .fdiv d a b => d.destOk && a.sourceOk && b.sourceOk && r25 d [a, b]
  | .fsqrt d a => d.destOk && a.sourceOk && r25 d [a]
  | .frcp d a => d.destOk && a.sourceOk && r25 d [a]
  | .frsq d a => d.destOk && a.sourceOk && r25 d [a]
  | .fexp2 d a => d.destOk && a.sourceOk && r25 d [a]
  | .flog2 d a => d.destOk && a.sourceOk && r25 d [a]
  | .fcmp _ _ a b => a.sourceOk && b.sourceOk
  | .fclass d a => d.destOk && a.sourceOk && r25 d [a]
  | .frnd d a i => d.destOk && a.sourceOk && r25 d [a] && i.toNat ≤ 5
  | .fscale d a b => d.destOk && a.sourceOk && b.sourceOk && r25 d [a, b]
  | .cvt d a t => d.destOk && a.sourceOk && r25 d [a] && typeCode t.toNat
  | .cvts d a b => d.destOk && a.sourceOk && b.sourceOk && r25 d [a, b]
  | .ladd d a b => d.destOk && a.sourceOk && b.sourceOk && r25 d [a, b]
  | .lmul d a b => d.destOk && a.sourceOk && b.sourceOk && r25 d [a, b]
  | .fdot2 d a b => d.destOk && a.sourceOk && b.sourceOk && r25 d [a, b]
  | .shfl d a b => d.gcz && a.sourceOk && b.sourceOk
  | .shflu d a _ => d.gcz && a.sourceOk
  | .shfld d a _ => d.gcz && a.sourceOk
  | .shflx d a _ => d.gcz && a.sourceOk
  | .vote k _ _ _ => k.val ≤ 3
  | .ballot d _ _ => d.destOk
  | .matchL d a => d.gcz && a.sourceOk
  | .rdlane d a b => d.destOk && a.isG && b.uniform
  | .wrlane d a b => d.isG && a.uniform && b.uniform
  | .pand _ _ _ _ _ => true
  | .por _ _ _ _ _ => true
  | .pxor _ _ _ _ _ => true
  | .pnot _ _ _ => true
  | .pmov _ a => a.uniform
  | .pset _ a _ => a.sourceOk
  | .mov d a => d.destOk && a.sourceOk && r25 d [a]
  | .movu d a => d.destOk && a.sourceOk && r25 d [a]
  | .kill a => a.isG || a.isS
  | .sete a => a.isG || a.isS
  | .setf a => a.isG || a.isS
  | .testf d a => d.destOk && (a.isG || a.isS)
  | .cinv a => a.isC || a.isZ
  | .shape _ a => a.uniform
  | .shapeq d _ => d.destOk
  | .fslot d _ => d.destOk
  | .ld d a b => (d.isG || d.isS) && a.sourceOk && b.sourceOk && r25 d [a, b]
  | .st d a b => d.sourceOk && !d.isLit && a.sourceOk && b.sourceOk
  | .ldx d a b => (d.isG || d.isS) && a.sourceOk && b.sourceOk && r25 d [a, b]
  | .stx d a b => d.sourceOk && !d.isLit && a.sourceOk && b.sourceOk
  | .lda d a b => (d.isG || d.isS) && a.sourceOk && b.sourceOk && r25 d [a, b]
  | .stl d a b => d.sourceOk && !d.isLit && a.sourceOk && b.sourceOk
  | .ldp d a b => d.destOk && a.sourceOk && b.sourceOk && r25 d [a, b]
  | .stp d a b => d.sourceOk && !d.isLit && a.sourceOk && b.sourceOk
  | .ldc d a b => (d.isG || d.isS) && a.uniform && b.uniform
  | .fence => true
  | .pf a b => a.sourceOk && b.sourceOk
  | .cctl a o => cctlOk a o.val
  | .aadd d a b => (d.isG || d.isS || d.isZ) && a.sourceOk && b.sourceOk && r25 d [a, b]
  | .afadd d a b => (d.isG || d.isS || d.isZ) && a.sourceOk && b.sourceOk && r25 d [a, b]
  | .amin d a b => (d.isG || d.isS || d.isZ) && a.sourceOk && b.sourceOk && r25 d [a, b]
  | .amax d a b => (d.isG || d.isS || d.isZ) && a.sourceOk && b.sourceOk && r25 d [a, b]
  | .aand d a b => (d.isG || d.isS || d.isZ) && a.sourceOk && b.sourceOk && r25 d [a, b]
  | .aor d a b => (d.isG || d.isS || d.isZ) && a.sourceOk && b.sourceOk && r25 d [a, b]
  | .axor d a b => (d.isG || d.isS || d.isZ) && a.sourceOk && b.sourceOk && r25 d [a, b]
  | .axch d a b => (d.isG || d.isS || d.isZ) && a.sourceOk && b.sourceOk && r25 d [a, b]
  | .acas d a b => (d.isG || d.isS || d.isZ) && a.sourceOk && b.sourceOk && r25 d [a, b]
  | .redadd a b => a.sourceOk && b.sourceOk
  | .redfadd a b => a.sourceOk && b.sourceOk
  | .redmin a b => a.sourceOk && b.sourceOk
  | .redmax a b => a.sourceOk && b.sourceOk
  | .cpy d a b => d.sz && a.evenS 30 && b.uniform
  | .cpy2 d a b => d.sz && a.uniform && b.uniform
  | .gthr d a b => d.sz && a.uniform && b.uniform
  | .sctr d a b => d.sz && a.uniform && b.uniform
  | .waitc a c => a.uniform && c.val ≤ 4
  | .rdcnt d c => d.destOk && c.val ≤ 4
  | .htest d a => d.destOk && a.isS
  | .hcanc d a => d.sz && a.isS
  | .hprom d a => d.destOk && a.isS
  | .hstat d a => d.destOk && a.isS
  | .coll d a o k => d.sz && a.uniform && k.val ≤ 2 && o.val ≤ 3 && (k.val != 0 || o.val == 0)
  | .bar a l n => a.uniform && n.val < barCount l.val
  | .bara a l n => a.uniform && n.val < barCount l.val
  | .barw l n => n.val < barCount l.val
  | .barq d l n => d.destOk && n.val < barCount l.val
  | .rsb => true
  | .rse => true
  | .gpwait a => a.uniform
  | .gpseq d => d.destOk
  | .dfree a b => a.uniform && b.uniform
  | .qpush d a b => d.sz && a.uniform && b.isG
  | .qpop d a => d.isG && a.uniform
  | .qtry k _ a b => k.val ≤ 1 && a.uniform && b.isG
  | .mma _ _ _ a b => (a.block || a.isZ) && b.uniform
  | .mmas _ _ _ a b => (a.block || a.isZ) && b.uniform
  | .mmal _ _ _ a b => (a.block || a.isZ) && b.uniform
  | .accz w t => !w || t.val % 2 == 0
  | .accrd d w t b => d.gcz && (!w || t.val % 2 == 0) && b.uniform
  | .accwr w t a b => (!w || t.val % 2 == 0) && a.sourceOk && b.uniform
  | .csld d a b => d.sz && a.uniform && b.uniform
  | .gang a => a.uniform
  | .mxhint a => a.uniform
  | .mxgemm d a b => d.sz && a.uniform && b.uniform
  | .quant d a b => d.sz && a.uniform && b.uniform
  | .mxstat d _ => d.destOk
  | .hfam d a _ => d.destOk && a.uniform
  | .hash d a b => d.block && (a.isG || a.isS) && (b.isS || b.isLit)
  | .probe d a b => d.sz && a.block && b.isS
  | .tins d a b => d.gcz && a.block && (b.isG || b.isS)
  | .tdel d a b => d.gcz && a.block && (b.isG || b.isS)
  | .rehash d a b => d.sz && a.uniform && (b.isS || b.isLit)
  | .rmul d a b => d.sz && a.uniform && b.uniform
  | .tstat d s _ => d.destOk && s.val ≤ 4
  | .tfence => true
  | .mbxget d => d.isG
  | .mbxput d a b => d.sz && (a.isS || a.isLit) && (b.isS || b.isLit)
  | .tlbi d a k => d.sz && a.evenS 30 && k.val ≤ 4
  | .ctxld d a b => d.sz && (a.isS || a.isLit) && (b.isS || b.isLit)
  | .ctxst d a b => d.sz && (a.isS || a.isLit) && (b.isS || b.isLit)
  | .pmset d a _ => d.sz && a.uniform
  | .reservedOpcode _ => false
  | .bundleFetch _ _ => true
  | .arrival _ _ => true
  | .longLatencyComplete _ => true
  | .pageWalkComplete _ _ _ => true
  | .exchange _ => true
  | .forcedExchange _ => true
  | .registersDrowsy _ => true
  | .groupPark _ => true
  | .sleepWake _ => true
  | .userInterruptDelivery _ => true
  | .late _ => true
  | .engineOpComplete _ => true
  | .matrixStepEnd _ => true
  | .rampupEnd _ => true
  | .rampdownEnd _ => true
  | .heldTimeout _ => true
  | .hintEffect _ _ => true
  | .gangStepAccept _ => true
  | .macroStep _ => true
  | .queueRequestServe _ => true
  | .queueAnswer _ => true
  | .tableUpdateStep _ => true
  | .bucketCacheDrop _ => true
  | .gracePeriodComplete _ => true
  | .releaseRingAppend _ => true
  | .consumerReread _ => true
  | .recordFiled _ => true
  | .collectionWindow _ _ => true
  | .handlerPlacement _ _ => true
  | .laneResumed _ => true
  | .rejoinLimit _ => true
  | .softErrorCorrected _ _ _ => true
  | .softerr _ _ => true
  | .uncorrectableShared _ _ _ _ => true
  | .curatorReload _ => true
  | .curatorImageHandoff _ => true
  | .launchCheck _ => true
  | .blockPlacement _ => true
  | .kernelRetire _ => true
  | .contextSaveComplete _ => true
  | .sealCtx _ => true
  | .checkpoint _ => true
  | .migrate _ => true
  | .restore _ => true
  | .importCtx _ => true
  | .contextOpComplete _ => true
  | .deviceReset => true
  | .powerOn => true
  | .invalidationTimeout _ => true
  | .invalidationAck _ => true
  | .tokenRefill => true
  | .predictorQuiet _ _ => true
  | .create _ _ _ _ => true
  | .destroy _ _ => true
  | .launch _ _ _ => true
  | .killRequest _ _ _ => true
  | .preempt _ _ => true
  | .resume _ _ => true
  | .regionSync _ _ => true
  | .inval _ _ _ _ _ => true
  | .qgrant _ _ _ _ _ _ => true
  | .qrevoke _ _ _ => true
  | .svcNop _ _ => true
  | .svcLaunch _ _ => true
  | .svcKill _ _ => true
  | .yieldctx _ _ => true
  | .fwver _ _ => true
  | .qiEnable _ _ => true
  | .qiDisable _ => true
  | .notify _ _ _ _ _ => true
  | .pasidRevoke _ => true
  | .tdispError _ => true
  | .latencyToleranceWrite _ => true
  | .powerStateEntry => true
  | .powerStateExit _ => true
  | .readbackRead _ => true
  | .readbackWrite _ _ => true
  | .debugStopArm _ _ => true
  | .debugRelease _ => true
  | .deviceNumberWrite _ => true
  | .assignmentWordWrite _ _ _ => true
  | .zeroingComplete _ _ => true
  | .registerWrite _ _ _ => true
  | .portEnable _ => true
  | .portDisable _ => true
  | .lanesTrained _ _ => true
  | .trainingTimeout _ => true
  | .flitReceived _ _ _ _ => true
  | .ackTimeout _ => true
  | .replayLimit _ => true
  | .retrainTimeout _ => true
  | .peerRequestServe _ _ _ _ _ => true
  | .getMeasurements _ => true
  | .challenge _ => true
  | .keyExchange _ => true
  | .accessPerformed _ => true
  | .homeUnitAnswer _ => true
  | .originQuadrantAnswer _ => true
  | .requestRecordChecked _ => true
  | .codeInvalidationDone _ => true
  | .ringReadError _ => true
  | .badpkt _ => true
  | .tdispStateChange _ _ => true
  | .powerRemoval => true
  | .routeTableWrite _ _ _ => true
  | .msixVectorUnmask _ _ => true

end Sys2Proof
end

