-- ==== Sys2Proof/Machine/Operands.lean ====
section
/-!
DEFINITION. Operands.lean: every operand form (R24 to R28), the checks of R35 to R37 and R70 in their order, waiting, and the
common endings of instructions (R18, R64 to R70, R146).
-/
namespace Sys2Proof.Machine

/-- How a literal in a field is read (R28): by the lane's ETYPE, by a fixed type, or as U32 where the entry gives the operand that type, so
that bits 63 to 32 of a register are ignored too (R40). -/
inductive LitTy where
  | etype
  | ty (t : EType)
  | u32
  deriving DecidableEq, Repr

/-- A source field: its specifier and its literal's type. -/
structure Fld where
  op : Opnd
  lit : LitTy := .etype
  deriving DecidableEq, Repr

/-- What an instruction's entry says of its operands. -/
structure Info where
  opcode : Nat
  a : Option Fld := none
  b : Option Fld := none
  c : Option Fld := none
  dst : Option Opnd := none
  /-- A long-latency producer (R69). -/
  long : Bool := false
  /-- Further registers that count as field A (pairs and blocks), and as a destination block. -/
  blockA : List RegCode := []
  blockB : List RegCode := []
  blockD : List RegCode := []
  /-- Whether the marks of A, B and C may be set. -/
  markA : Bool := true
  markB : Bool := true
  markC : Bool := true
  /-- Field A is read without the wait and the EMPTYREAD check (R196). -/
  noWaitA : Bool := false
  /-- Field A is named for its state only: no state check (R78). -/
  noCheckA : Bool := false
  /-- A DEAD field A is no DEADREAD (SETF, R78). -/
  deadOkA : Bool := false
  /-- Blocking-capable (R65, R66). -/
  blocking : Bool := false
  /-- The selector is privileged for this group (R75). -/
  priv : Bool := false
  /-- None of the entry's ILLEGAL conditions holds (R36). -/
  legal : Bool := true
  /-- It acts on its issue and writes its destination whatever Active() holds (R260, R364, R365). -/
  always : Bool := false
  /-- The instruction names a tile that the group does not have (R233, R236). -/
  badTile : Bool := false
  /-- SEL takes Active() as though GE were 0 (R154). -/
  sel : Bool := false
  /-- Registers that it names and neither reads nor writes (R141). -/
  names : List RegCode := []
  /-- With no active lane it changes no register state, dead marks included (R169). -/
  idle : Bool := false
  deriving DecidableEq, Repr

/-- FP32 to FP64 of a literal (R28). -/
def lit64 (w : Nat) : Nat :=
  match Fmt.fp32.unpack w with
  | .nan _ => w / 2 ^ 31 * 2 ^ 63 + 0x7FF0000000000000 + w % 2 ^ 23 * 2 ^ 29
  | v => (Fmt.fp64.roundVal false .rne v).bits

/-- A literal as an operand of a type (R28). -/
def litValue (t : EType) (w : Word32) : Word :=
  match t with
  | .i8 | .i16 | .i32 | .i64 => w.signExtend 64
  | .u8 | .u16 | .u32 | .u64 | .fp32 | .bf16x2 | .fp16x2 => w.setWidth 64
  | .fp64 => word (lit64 w.toNat)
  | .bf16 => word (Fmt.bf16.roundVal false .rne (Fmt.fp32.unpack w.toNat)).bits
  | .fp16 => word (Fmt.fp16.roundVal false .rne (Fmt.fp32.unpack w.toNat)).bits
  | .lns8 => word (w.toNat % 256)

/-- Whether an instruction's result is uniform because it writes an s register (R25). -/
def Info.uniform (i : Info) : Bool :=
  match i.dst with
  | some (.sreg _) => true
  | _ => false

/-- The mode copy that an instruction follows in a lane: that of the lane's own slice, or for a uniform result that of the lowest slice
with an active lane (R390). -/
def Group.modeFor (g : Group) (i : Info) (p l : Nat) : Word32 := if i.uniform then g.uniformMode p else g.modeOf l

/-- The values of a source, whatever its state, a literal read under each lane's mode copy. -/
def Group.readOpnd (g : Group) (mode : Nat → Word32) (f : Fld) (lit : Word32) : Lanes :=
  match f.op with
  | .age n => g.ages.getD n []
  | .cache n => Store.getOr g.caches n []
  | .zero => Lanes.uniform 0
  | .lit => Lanes.of fun l =>
      match f.lit with
      | .etype => litValue (modeEtype (mode l)) lit
      | .ty t => litValue t lit
      | .u32 => litValue .u32 lit
  | .lane => Lanes.of fun l => word l
  | .none => []
  | .sreg n => g.regVal (0x10 + n)
  | .greg n => g.regVal (0x30 + n)

/-- A mark of the issuing slot: DA to DC are bits 1 to 3, TA to TC bits 4 to 6 (R17). -/
def markOf (ctl n : Nat) : Bool := ctl / 2 ^ n % 2 == 1

/-- KEEP of the issuing slot. -/
def State.keep (s : State) : Bool := markOf s.cur.ctl 7

/-- Whether a field's marks are legal (R23, R24). -/
def markOk (ctl d t : Nat) (f : Option Fld) (allowed : Bool) : Bool :=
  (!markOf ctl d && !markOf ctl t) ||
  (allowed && match f with
    | some f => f.op.reg?.isSome
    | none => false)

/-- Whether an instruction's marks are legal (R23, R24). -/
def Info.marksOk (i : Info) (ctl : Nat) : Bool :=
  markOk ctl 1 4 i.a i.markA && markOk ctl 2 5 i.b i.markB && markOk ctl 3 6 i.c i.markC

/-- The privilege classes of R35. -/
def privileged (opcode : Nat) : Nat :=
  if 0x14 ≤ opcode ∧ opcode ≤ 0x17 then 1 else if 0xE0 ≤ opcode ∧ opcode ≤ 0xE5 then 2 else 0

/-- The level of a group: 0 user, 1 handler, 2 supervisor (R35). -/
def Group.level (g : Group) : Nat :=
  match g.kind with
  | .user => 0
  | .handler => 1
  | .curator => 2

/-- The registers that an instruction names in its fields. -/
def Info.sources (i : Info) : List RegCode :=
  (if i.noCheckA || i.deadOkA then [] else (i.a.bind (·.op.reg?)).toList ++ i.blockA) ++ (i.b.bind (·.op.reg?)).toList ++
  i.blockB ++ (i.c.bind (·.op.reg?)).toList

/-- The sources whose EMPTY state makes the instruction wait or trap (R70, R196). -/
def Info.waitSources (i : Info) : List RegCode :=
  (if i.noCheckA || i.noWaitA then [] else (i.a.bind (·.op.reg?)).toList ++ i.blockA) ++ (i.b.bind (·.op.reg?)).toList ++ i.blockB ++
  (i.c.bind (·.op.reg?)).toList

/-- The destination registers. -/
def Info.dests (i : Info) : List RegCode := (i.dst.bind Opnd.reg?).toList ++ i.blockD

/-- Whether a g register lies at or above the allocation (R24). -/
def badReg (alloc : Nat) (r : RegCode) : Bool := r ≥ 0x30 + alloc

/-- Registers whose EMPTY state traps with EMPTYREAD, by the trap mark of their field. -/
def Info.trapping (i : Info) (ctl : Nat) : List RegCode :=
  (if markOf ctl 4 && !i.noWaitA && !i.noCheckA then (i.a.bind (·.op.reg?)).toList ++ i.blockA else []) ++
  (if markOf ctl 5 then (i.b.bind (·.op.reg?)).toList ++ i.blockB else []) ++
  (if markOf ctl 6 then (i.c.bind (·.op.reg?)).toList else [])

/-- Register-state tests. -/
def RegState.isEmpty (st : RegState) : Bool :=
  match st with
  | .pending _ | .opened => true
  | _ => false
def RegState.isPending (st : RegState) : Bool :=
  match st with
  | .pending _ => true
  | _ => false

/-- Whether a source names an invalid age latch or cache slot (R67). -/
def Group.stale (g : Group) (f : Option Fld) (act : LaneMask) : Bool :=
  match (f.map fun (x : Fld) => x.op : Option Opnd) with
  | some (.age n) => !(g.ageValid.getD n false)
  | some (.cache n) => act &&& ~~~(Store.getOr g.cacheValid n 0) != 0
  | _ => false

/-- Whether the issuing path's wait on an open register is stranded: no other path of the group can fill it (R130). -/
def Group.stranded (g : Group) (regs : List RegCode) : Bool :=
  g.paths.length ≤ 1 && regs.any (fun r => g.regState r == .opened)

/-- Whether a register awaits a late operation for which LATE is still to be raised (R198). -/
def Group.lateReg (g : Group) (r : RegCode) : Bool :=
  match g.regState r with
  | .pending t => g.late.contains t
  | _ => false

/-- The values an instruction has read, and the circumstances of its issue. -/
structure Ops where
  info : Info
  /-- The state in which a group trap of this instruction is taken: no effect of it has happened. -/
  orig : State
  act : LaneMask
  live : LaneMask
  a : Lanes
  b : Lanes
  c : Lanes
  /-- The mode copy of uniform effects (R390). -/
  um : Word32
  /-- The upper levels are cleared when the instruction completes (R65, R66). -/
  clears : Bool
  stage : Nat
  arg : Nat
  since : Nat
  waited : Bool
  retry : Bool

/-- How an instruction enters: it trapped or waits, which is the whole step, or it goes on with its operands in the state in
which its dead marks and issue have taken effect. -/
inductive Entry where
  | stop (s : State)
  | go (o : Ops) (s : State)

/-- The issue cost of R68: one clk, and one more for each further distinct register of a bank; a block adds nothing (R230). -/
def Info.cost (i : Info) : Nat :=
  let gs := (({ i with blockA := [] }.sources).filter (· ≥ 0x30)).eraseDups
  1 + ([0, 1, 2, 3].map fun k => (gs.filter fun r => r % 4 == k).length - 1).foldl max 0

/-- The path begins or goes on with a wait: age-latch and cache sources stay as latched at first issue (R66). An instruction that waits
again after a unit has answered it keeps the answer (R260). -/
def State.waitFor (s : State) (why : Why) (i : Info) (stage arg : Nat) : State :=
  let g := s.g
  let keepUp (f : Option Fld) (old : Option Lanes) : Option Lanes :=
    match old with
    | some v => some v
    | none => (f.bind fun f => if f.op.isUpper then some (g.readOpnd g.modeOf f 0) else none)
  s.modP fun q =>
    let w := q.wait
    { q with answer := if stage = 0 then none else q.answer
             wait := some { why := why, keep := s.keep, a := keepUp i.a (w.bind (·.a)), b := keepUp i.b (w.bind (·.b))
                            c := keepUp i.c (w.bind (·.c)), stage := stage, arg := arg
                            since := (w.map (·.since)).getD s.cyc } }

/-- The instruction has waited under R70 with KEEP = 0 or without. -/
def Ops.waitedBefore (o : Ops) : Bool := ((o.orig.p.wait).map (·.waited)).getD false

/-- The path waits at an instruction that has read its operands; no effect of the instruction has happened (R66). blocks: the
instruction is blocking-capable here, so that KEEP decides whether the group may be exchanged and the upper levels are cleared; the
wait of another instruction does neither (R65, R66, R116). -/
def Ops.waitFrom (o : Ops) (blocks : Bool) (why : Why) (stage arg : Nat) : State :=
  o.orig.modP fun q =>
    { q with answer := none
             wait := some { why := why, keep := o.orig.keep || !blocks, a := o.info.a.map fun _ => o.a, b := o.info.b.map fun _ => o.b
                            c := o.info.c.map fun _ => o.c, stage := stage, arg := arg, since := o.since
                            waited := o.waitedBefore || blocks } }

/-- A wait of an instruction that has read its operands. -/
def Ops.waitAt (o : Ops) (why : Why) (stage arg : Nat) : State := o.waitFrom o.info.blocking why stage arg

/-- The path stalls in place at an instruction that has read its operands: no wait under R70, and no exchange (R189). -/
def Ops.stallAt (o : Ops) (why : Why) : State := o.waitFrom false why (max o.stage 1) o.arg

/-- The registers that the dead marks of the issuing slot name (R26). -/
def State.deadMarks (s : State) (i : Info) : List RegCode :=
  let dead (n : Nat) (rs : List RegCode) : List RegCode := if markOf s.cur.ctl n then rs else []
  let ds := dead 1 ((i.a.bind (·.op.reg?)).toList ++ i.blockA) ++ dead 2 ((i.b.bind (·.op.reg?)).toList ++ i.blockB) ++
    dead 3 (i.c.bind (·.op.reg?)).toList
  if i.idle && s.g.active s.cur.path == 0 then [] else ds

/-- The dead marks of the issuing slot applied (R26), the wait and a released BRK ended, and the issue counted (R39, R68, R125). -/
def State.consume (s : State) (i : Info) : State :=
  let s := s.modG fun g =>
    let g := (s.deadMarks i).foldl (fun g r => g.setRegState r .dead) g
    let g := g.modPath s.cur.path fun q => { q with wait := none, retry := none, noArrive := false, brkOk := false }
    { g with lastIssue := s.cyc }
  s.spend i.cost

/-- The group enters STOPPED (R123). -/
def State.stopGroup (s : State) (u : Nat) : State :=
  s.modGrp u fun g => { g with st := .stopped (g.st == .active) }

/-- A path's wait dropped, so that its instruction executes afresh (R123, R130). -/
def State.dropWait (s : State) (u p : Nat) : State :=
  s.modGrp u fun g => g.modPath p fun q => { q with wait := none, answer := none }

/-- Whether the debug stop of a group's context is armed (R39). -/
def State.stopArmed (s : State) (g : Group) : Bool := ((s.ctx? g.ctx).map (·.debugStop)).getD false

/-- The lanes that an instruction acts on: Active() of its path, or for SEL every run lane (R6, R154). -/
def State.acting (s : State) (i : Info) : LaneMask := if i.sel then s.g.live s.cur.path else s.g.active s.cur.path

/-- A source's values as its operand's type reads them (R40). -/
def Fld.narrow (f : Fld) (v : Lanes) : Lanes :=
  match f.lit with
  | .u32 => Lanes.of fun l => ((v.at l).setWidth 32).setWidth 64
  | _ => v

/-- A source's values at issue: those of a retry's record (R323), those latched when the instruction began to wait (R66), or those
that stand in the operand. -/
def State.source (s : State) (mode : Nat → Word32) (f : Option Fld) (held : Option Lanes) (lit : Word32) (rec_ : Retry → Word) : Lanes :=
  match f with
  | none => []
  | some f =>
    match s.p.retry with
    | some v => Lanes.uniform (rec_ v)
    | none => f.narrow (held.getD (s.g.readOpnd mode f lit))

/-- What an instruction that has passed its checks has read. -/
def State.operands (s : State) (i : Info) : Ops :=
  let w := s.p.wait
  let mode := s.g.modeFor i s.cur.path
  { info := i, orig := s, act := s.acting i, live := s.g.live s.cur.path
    a := s.source mode i.a (w.bind (·.a)) s.cur.litA (·.a), b := s.source mode i.b (w.bind (·.b)) s.cur.litB (·.b)
    c := s.source mode i.c (w.bind (·.c)) 0 (·.c), um := s.g.uniformMode s.cur.path
    clears := (i.blocking || (w.map (·.waited)).getD false) && !s.keep
    stage := (w.map (·.stage)).getD 0, arg := (w.map (·.arg)).getD 0
    since := (w.map (·.since)).getD s.cyc, waited := w.isSome, retry := s.p.retry.isSome }

/-- The checks of R37 and R70 in their order, waiting, and the reading of the operands. A wait that ends in a group trap or is abandoned by
a delivery leaves the upper levels, also with KEEP = 0 (R66): only a completion clears them (DESIGN CHOICE, log 78). A pending destination
holds up every instruction that names it and has an active lane, also WRLANE of an inactive lane (R161; DESIGN CHOICE, log 80). -/
def enter (i : Info) (s : State) : Entry :=
  let g := s.g
  let q := s.p
  let ctl := s.cur.ctl
  let act := s.acting i
  if privileged i.opcode > g.level || i.priv then .stop (s.trapGroup 0x0A)
  else if !(i.marksOk ctl) || !i.legal then .stop (s.trapGroup 0x09)
  else if i.badTile || (i.sources ++ i.dests ++ i.names ++ (i.a.bind (·.op.reg?)).toList ++ i.blockA).any (badReg g.alloc) then .stop (s.trapGroup 0x15)
  else
    let again := q.wait.isSome
    -- An instruction that waits after it has read its operands keeps them.
    let held := (q.wait.map (·.stage)).getD 0 > 0
    let retry := q.retry.isSome
    if !again && !retry && (g.stale i.a act || g.stale i.b act || g.stale i.c act) then .stop (s.trapGroup 0x08)
    else if !held && !retry && i.sources.any (fun r => g.regState r == .dead) then .stop (s.trapGroup 0x07)
    else if !held && !retry && (i.sources ++ i.waitSources).any (fun r => g.regState r == .lost) then .stop (s.trapGroup 0x1B)
    else if !again && !retry && (i.trapping ctl).any (fun r => (g.regState r).isEmpty) then .stop (s.trapGroup 0x06)
    else
      let srcs := if retry || held then [] else i.waitSources.filter fun r => (g.regState r).isEmpty
      let dsts := if act = 0 && !i.always then [] else i.dests.filter fun r => (g.regState r).isPending
      if !(srcs.isEmpty && dsts.isEmpty) then
        if g.stranded srcs then
          if s.stopArmed g then .stop ((s.dropWait g.unit s.cur.path).stopGroup g.unit) else .stop (s.trapGroup 0x06)
        else if (srcs ++ dsts).any g.lateReg then
          .stop ((s.modG fun g => { g with late := g.late.filter fun t => !(srcs ++ dsts).any fun r => g.regState r == .pending t }).trapGroup 0x0D)
        else .stop (s.waitFor (.regs srcs dsts) i ((q.wait.map (·.stage)).getD 0) ((q.wait.map (·.arg)).getD 0))
      else
        .go (s.operands i) (s.consume i)

/-- What exec answers. -/
abbrev Res := Host.Outcome State Fault Refusal

/-- An instruction: its operands checked and read, then its effect. -/
def run (i : Info) (s : State) (body : Ops → State → State) : Res :=
  match enter i s with
  | .stop s' => .next s'
  | .go o s' => .next (body o s')

/-- A group trap of an instruction that has passed its checks: it has no effect (R36). -/
def Ops.trap (o : Ops) (cause : Nat) : State := o.orig.trapGroup cause

/-- The state before an instruction with the free choices that it has used and the table entries that its walks have seen. -/
def Ops.undo (o : Ops) (s : State) : State := { o.orig with free := s.free, mm := { o.orig.mm with seen := s.mm.seen } }

/-- A group trap of an instruction that has walked tables. -/
def Ops.trapFrom (o : Ops) (s : State) (cause : Nat) : State := (o.undo s).trapGroup cause

/-- FENCE, STL and a barrier arrival report a lost store (R358). -/
def Ops.report (o : Ops) (s : State) : State :=
  if o.orig.g.linkLost then (o.orig.modG fun g => { g with linkLost := false }).trapGroup 0x1B else s

/-- A release at a scope: a lost store that no release has reported raises LINKLOST instead (R358). -/
def Ops.release (o : Ops) (scope : Nat) (s : State) : State :=
  if scope ≥ 3 then o.report s else s

/-- Whether every slice of the issuing path that has a run lane holds an ETYPE that the instruction accepts (R36, R390). -/
def State.etypesOk (s : State) (ok : EType → Bool) : Bool :=
  (s.g.pathSlices s.cur.path).all fun x => x.run == 0 || (modeEtype? x.mode).any ok

/-- The issuing path goes on to the next slot that issues (R18). -/
def State.advance (s : State) : State :=
  let q := s.p
  let next := match q.buf with
    | some b => b.after (slotOf s.cur.pc)
    | none => nextBundle s.cur.pc
  s.modG fun g =>
    let g := g.modPathSlices s.cur.path fun x => { x with pc := next }
    if bundleOf next = bundleOf s.cur.pc then g
    else g.modPath s.cur.path fun q => { q with buf := none }

/-- The clearing of the upper levels by an instruction that completes (R65, R66). -/
def State.clearIf (s : State) (o : Ops) : State := if o.clears then s.modG Group.clearUpper else s

/-- The mode copy that an instruction follows in a lane (R390). -/
def Ops.modeOf (o : Ops) (l : Nat) : Word32 := o.orig.g.modeFor o.info o.orig.cur.path l

/-- What a destination makes of a result: an s register holds one value, which is that of the lowest lane written, and pushes it into
every active lane (R25, R64). -/
def writtenBy (d : Opnd) (v : Lanes) (m : LaneMask) : Lanes :=
  match d with
  | .sreg _ => Lanes.uniform (v.at (LaneMask.lowest m))
  | _ => v

/-- The ending of an instruction with a register destination: write, clearing, push, next slot (R64 to R66, R69). -/
def State.finish (s : State) (o : Ops) (d : Opnd) (v : Lanes) (m : LaneMask) : State :=
  let v := writtenBy d v m
  let s := (s.modG fun g => g.writeOpnd d v m).clearIf o
  (s.modG fun g => g.push v m).advance

/-- The answer to the issuing path taken. -/
def State.takeAnswer (s : State) : State := s.modP fun q => { q with answer := none }

/-- The ending of an instruction without one. -/
def State.done (s : State) (o : Ops) : State := (s.clearIf o).advance

/-- The outcome of one lane. -/
inductive LaneRes where
  | val (v : Word)
  | trap (cause status : Nat) (repair fault : Word)
  deriving DecidableEq, Repr

/-- The records of the lanes that trap, ascending. -/
def trapRecs (s : State) (o : Ops) (dest : Nat) (f : Nat → LaneRes) : List TrapRec :=
  (LaneMask.lanes o.act).filterMap fun l =>
    match f l with
    | .val _ => none
    | .trap cause status repair fault => some (s.laneRec l cause dest status fault (o.a.at l) (o.b.at l) (o.c.at l) repair)

/-- The lanes of Active() that do not trap. -/
def okLanes (o : Ops) (f : Nat → LaneRes) : LaneMask :=
  maskOf fun l => o.act.getLsbD l && (match f l with
    | .val _ => true
    | .trap _ _ _ _ => false)

/-- The values of the lanes. -/
def resLanes (f : Nat → LaneRes) : Lanes := Lanes.of fun l =>
  match f l with
  | .val v => v
  | .trap _ _ _ _ => 0

/-- Detachment of the trapping lanes of an instruction, whose other effects have been made (R314); in a curator group the
trap is a group trap and the instruction has no effect (R313). -/
def State.detach (s : State) (o : Ops) (recs : List TrapRec) : State :=
  if recs.isEmpty then s
  else if s.g.kind = .curator then (o.orig.trapGroup ((recs.head?.map (·.cause)).getD 0))
  else s.detachLanes s.cur.unit s.cur.path recs o.orig.cyc

/-- The ending of a per-lane instruction whose lanes may trap (R146, R314). -/
def State.finishLanes (s : State) (o : Ops) (d : Opnd) (f : Nat → LaneRes) : State :=
  (s.finish o d (resLanes f) (okLanes o f)).detach o (trapRecs s o d.code f)

end Sys2Proof.Machine
end

