-- ==== Sys2Proof/Machine/Sched.lean ====
section
/-!
DEFINITION. Sched.lean: what waits and what is ready (R115 to R117, R123, R125), the fetch of a bundle and its check (R19,
R27, R38), arrival (R32, R129), and the events that move groups between the scheduling sets.
-/
namespace Sys2Proof.Machine

/-! ### Barriers by level (R201) -/

/-- The code of a level. -/
def BarLevel.code (l : BarLevel) : Nat :=
  match l with
  | .group => 0
  | .block => 1
  | .cluster => 2
  | .grid => 3

/-- The level of a code (R204). -/
def BarLevel.ofCode (n : Nat) : BarLevel :=
  match n with
  | 0 => .group
  | 1 => .block
  | 2 => .cluster
  | _ => .grid

/-- A barrier that a group sees. -/
def State.barrier (s : State) (g : Group) (l : BarLevel) (n : Nat) : Barrier :=
  match l with
  | .group => Store.getOr g.bars n {}
  | .block => ((s.blocks.find? fun b => b.kernel == g.kernel && b.bid == g.bid).bind fun b => Store.get? b.bars n).getD {}
  | .cluster => ((s.kernel? g.kernel).bind fun k => (Store.get? k.clusterBars g.cid).bind fun m => Store.get? m n).getD {}
  | .grid => ((s.kernel? g.kernel).bind fun k => Store.get? k.gridBars n).getD {}

/-! ### Readiness -/

/-- Room in a core's mailbox (R364). -/
def State.mailbox (s : State) (core : Nat) : List Mail := Store.getOr s.mail core []

/-- Entries that a partition's deferred-free queue and its controller hold (R276). -/
def Part.freeHeld (p : Part) : Nat := p.frees.length + p.ready.length

/-- Capacity of a partition's deferred-free queue (R276). -/
def freeCapacity : Nat := 4096

/-- The chip-wide quadrant of a slot. -/
def quadOf (unit : Nat) : Nat := 4 * (unit / 64) + unit % 64 / 16

/-- Whether an operation waits in the same queue as another: a quadrant's sequencer runs the matrix class in the order of
acceptance, any other engine works on a group's operations of a class in their order (R184, R229). -/
def EngineOp.sameQueue (a b : EngineOp) : Bool :=
  a.cls == b.cls && (if a.cls = 2 then quadOf a.unit == quadOf b.unit else a.serial == b.serial)

/-- Whether an engine's queue is full for a group's operations of a class: 16 in a quadrant's sequencer (R229), 64 per core in
the others (R189). -/
def State.engineFull (s : State) (g : Group) (cls : Nat) : Bool :=
  if cls = 2 then (s.ops.filter fun o => o.cls == 2 && quadOf o.unit == g.quadrant && o.status == 0).length ≥ 16
  else (s.ops.filter fun o => o.core == g.core && o.cls == cls && o.status == 0).length ≥ 64

/-- A quadrant's matrix unit. -/
def State.mxUnit (s : State) (quad : Nat) : MxUnit := Store.getOr s.mx quad {}

/-- A group's accepted steps that have not ended (R235). -/
def State.acceptedSteps (s : State) (g : Group) : List MxStep := (s.mxUnit g.quadrant).steps.filter fun x => x.serial == g.serial

/-- The accumulator slots of a tile byte (R236). -/
def tileSlots (t : Nat) : List Nat := if t / 4 % 2 = 1 then [t % 4, t % 4 + 1] else [t % 4]

/-- The slots that an outstanding macro-operation targets: all while its descriptor has not been read (R245). -/
def EngineOp.targets (op : EngineOp) : List Nat :=
  if op.opcode = 0xCA then [(op.args.getD 1 0).toNat % 4]
  else if op.opcode = 0xC9 then
    match op.desc with
    | some b =>
      let t := (b.getD 1 0).toNat
      tileSlots t ++ (if op.fslots.getD (bitsOf (fieldOf b 8 8) 59 57) 0 % 32 = 0 then [t % 4 + 1] else [])
    | none => [0, 1, 2, 3]
  else []

/-- Whether a macro-operation of a group targets one of some slots (R245). -/
def State.tilesBusy (s : State) (g : Group) (ts : List Nat) : Bool :=
  s.ops.any fun o => o.serial == g.serial && ts.any fun t => o.targets.contains t

/-- Whether an accepted step of a group writes one of some slots; a step of two slots is the FP64 one. -/
def State.stepsOn (s : State) (g : Group) (ts : List Nat) : Bool :=
  (s.acceptedSteps g).any fun x => ts.contains x.tile || (x.fsA % 32 == 0 && ts.contains (x.tile + 1))

/-- The catalogue units that serve an agent of a scope around a group: its own gallery's at cluster scope or narrower, else all
(R173, R298). -/
def Group.catalogues (g : Group) (scope : Nat) : List Nat :=
  if scope ≤ 2 then [galleryOf g.core] else List.range 16

/-- Whether a superseded version comes of an update that a lane of a path has made, on it or on one that it parted from or that
merged into it. -/
def OldVersion.of (v : OldVersion) (g : Group) (p : Nat) : Bool := v.serial == g.serial && v.by_ &&& g.live p != 0

/-- Whether the versions superseded by a path's updates are dropped from the units that a TFENCE awaits (R298). -/
def State.dropped (s : State) (g : Group) (p scope : Nat) : Bool :=
  s.oldBuckets.all fun v => !v.of g p || v.units.all fun u => !(g.catalogues (max scope v.scope)).contains u

/-- Whether every earlier access of a path is performed (R177): those that a lane of the path has made, on it or on a path that it
parted from or that merged into it. -/
def State.performed (s : State) (g : Group) (p : Nat) : Bool :=
  let mine (serial : Nat) (by_ : LaneMask) : Bool := serial == g.serial && by_ &&& g.live p != 0
  (s.mm.stores.all fun x => !mine x.serial x.by_) && s.mm.flights.all fun f => !mine f.serial f.by_

/-- Whether every earlier access of a group is performed (R104). -/
def State.allPerformed (s : State) (g : Group) : Bool :=
  (s.mm.stores.all fun x => x.serial != g.serial) && s.mm.flights.all fun f => f.serial != g.serial

/-- Whether no store, reduction or atomic of a path is on its way by a peer link: an STL comes after it, and reports its loss (R175,
R358). -/
def State.linksDone (s : State) (g : Group) (p : Nat) : Bool :=
  let mine (serial : Nat) (by_ : LaneMask) : Bool := serial == g.serial && by_ &&& g.live p != 0
  (s.mm.stores.all fun x => !mine x.serial x.by_ || x.ports.isEmpty) &&
  s.mm.flights.all fun f => !mine f.serial f.by_ || f.lanes.all fun x => x.act.isNone

/-- Memory request entries of a core, and how many its groups use (R182, R219). -/
def requestEntries : Nat := 4096
def State.requestsOf (s : State) (core : Nat) : Nat :=
  (s.mm.flights.filter fun f => f.unit / 64 == core).foldl (fun n f => n + f.requests)
    ((s.mm.stores.filter fun x => x.unit / 64 == core).foldl (fun n x => n + x.requests)
      ((s.mm.prefetches.filter fun x => x.core == core).foldl (fun n x => n + x.requests)
        ((s.ops.filter fun o => o.core == core).foldl (fun n o => n + o.flying.length) 0)))

/-- Clk from the arrival that completes a phase to the first issue of a member that it releases (R211). -/
def BarLevel.release (l : BarLevel) : Nat :=
  match l with
  | .group => 2
  | .block => 10
  | .cluster => 60
  | .grid => 450

/-- Whether a wait for a phase is over: it has completed, and the waiting instruction, which holds its slot for one clk more, lets its
path go on when the release of that phase reaches the member (R205, R211). -/
def Barrier.released (b : Barrier) (l : BarLevel) (phase now : Nat) : Bool :=
  b.phase != phase && match b.dones.find? fun d => d.1 == phase with
    | some d => d.2 + l.release ≤ now + 1
    | none => true

/-- Whether a wait of a path is over: a stranded one is taken up again, to trap or stop (R130). -/
def State.waitOver (s : State) (g : Group) (q : Path) (w : Wait) : Bool :=
  match w.why with
  | .regs srcs dsts => g.stranded srcs || (srcs.all (fun r => !(g.regState r).isEmpty) && dsts.all fun r => !(g.regState r).isPending)
  | .clock t => t ≤ word s.cyc
  | .answer | .gang => q.answer.isSome
  | .performed => s.performed g q.id
  | .allPerformed => s.allPerformed g
  | .links => s.linksDone g q.id
  | .requestRoom n => s.requestsOf g.core + n ≤ requestEntries
  | .phase l n ph => (s.barrier g l n).released l ph s.cyc
  | .count cls limit => Store.getOr g.cnt cls 0 ≤ limit
  | .grace t => t < (s.part g.part).done || (t == (s.part g.part).done && (s.part g.part).doneAt + 60 ≤ s.cyc)
  | .freeRoom => (s.part g.part).freeHeld < freeCapacity
  | .mailbox => (s.mailbox g.core).any fun m => !m.taken
  | .mailRoom => (s.mailbox g.core).length < 16
  | .engineRoom cls => Store.getOr g.cnt cls 0 < 64 && !s.engineFull g cls
  | .stepRoom ts => (s.acceptedSteps g).length < 2 && !s.tilesBusy g ts
  | .tiles ts => !s.stepsOn g ts && !s.tilesBusy g ts
  | .matrixIdle => (s.acceptedSteps g).isEmpty && !s.ops.any fun o => o.serial == g.serial && o.opcode == 0xCA
  | .tables => s.dropped g q.id (g.widestScope q.id)
  | .firmware => false

/-- Whether a path waits for nothing. -/
def State.pathAble (s : State) (g : Group) (q : Path) : Bool :=
  !q.held && g.slices.any (fun x => x.inPath q.id) &&
  match q.wait with
  | none => true
  | some w => s.waitOver g q w

/-- Whether a path may issue: it waits for nothing, and the gap after its last transfer, switch or pop is over (R145). -/
def State.pathReady (s : State) (g : Group) (q : Path) : Bool := s.pathAble g q && q.issueFrom ≤ s.cyc

/-- Whether a slice is about to arrive at its top entry at a code address, whose bundle may not be fetched yet (R32, R129). -/
def Slice.mayArrive (x : Slice) (b : Option Bundle) : Bool :=
  match x.rcv.head? with
  | some e => x.pc == e.rpc && (e.isImplicit || (b.map (·.rcv)).getD true)
  | none => false

/-- Whether a path is about to arrive (R32); a delivery comes after its arrival (DESIGN CHOICE, log 59). -/
def Group.mayArrive (g : Group) (q : Path) : Bool :=
  slotOf (g.pathPc q.id) == 0 && !q.noArrive && q.wait.isNone && (g.pathSlices q.id).any fun x => x.mayArrive q.buf

/-- Whether a delivery may take a path: one that is ready, or waits in a way that is abandoned, and to which no unit has
answered (R143, R260, R295). -/
def Group.takes (g : Group) (q : Path) : Bool :=
  q.answer.isNone && !g.mayArrive q && match q.wait with
  | some w => !w.firm
  | none => true

/-- The accepted step that runs on a quadrant's matrix unit. -/
def State.runningStep (s : State) (quad : Nat) : Option MxStep :=
  let u := s.mxUnit quad
  if u.st = .busy ∧ u.seq = none then u.steps.head? else none

/-- The members that have arrived at a rendezvous latch (R238). -/
def State.latchUnits (s : State) (core leader : Nat) : List Nat :=
  ((s.gangs.filter fun a => a.core == core && a.leader == leader).map (·.step.unit)).eraseDups

/-- An operation whose next unit may be looked at again some clk from now, unless that is due sooner (R245). -/
def State.wantMacro (s : State) (delay token : Nat) : State :=
  if s.agenda.any fun d => d.ev == .macroStep token && d.clk ≤ s.cyc + delay then s else s.schedule delay (.macroStep token)

/-- Whether every member of an arrival's gang has arrived (R238). -/
def State.gangComplete (s : State) (a : GangArrival) : Bool :=
  (s.latchUnits a.core a.leader).length == bitsOf a.gang.toNat 38 36

/-- Whether a rendezvous that a group has joined is complete, its step not yet accepted (R239). -/
def State.gangMet (s : State) (g : Group) : Bool := s.gangs.any fun a => a.step.unit == g.unit && s.gangComplete a

/-- Whether a vector is deliverable to a group (R143); it comes after the step of the group's that was on its matrix unit when it became
deliverable (R248), and after the acceptance of a step whose rendezvous is complete (R239). -/
def State.deliverable (s : State) (g : Group) : Bool :=
  g.hdl.isEmpty && g.kind == .user && (g.ints.any fun v => v.due ≤ s.cyc) && (g.paths.any fun q => g.takes q) &&
  !((s.runningStep g.quadrant).any fun x =>
      x.serial == g.serial && g.ints.all fun v => s.cyc < v.due || (s.mxUnit g.quadrant).since ≤ v.due) && !s.gangMet g

/-- Whether a group is ready (R115, R143). -/
def State.ready (s : State) (g : Group) : Bool := s.deliverable g || g.paths.any fun q => s.pathReady g q

/-- Whether no path of a group may go on, gaps aside. -/
def State.idle (s : State) (g : Group) : Bool := !s.deliverable g && g.paths.all fun q => !s.pathAble g q

/-- Whether the current path of a group waits at an instruction with KEEP = 0, REGANG among them (R123, R138). -/
def Group.waitsLoose (g : Group) : Bool :=
  match g.path? g.cur with
  | some q => (q.wait.map fun w => !w.keep).getD false
  | none => g.slices.any fun x => x.path == g.cur && x.stat == .waiting && x.rdv.any fun r => !r.keep

/-- Whether a group waits in a way that lets it be exchanged: its current path at an instruction with KEEP = 0 while no path is ready, or
at YIELD (R116, R123, R139). -/
def State.gives (s : State) (g : Group) : Bool := g.yielding || (s.idle g && g.waitsLoose)

/-- The first item by a strict order. -/
def firstBy {α : Type} (lt : α → α → Bool) (l : List α) : Option α :=
  l.foldl (fun (m : Option α) x =>
    match m with
    | none => some x
    | some y => some (if lt x y then x else y)) none

/-- The lowest slice of a path. -/
def Group.lowSlice (g : Group) (p : Nat) : Nat := ((g.pathSlices p).map (·.idx)).headD 8

/-- The path a group issues next: its current path while that is ready, else, or after 64 instructions in a row, the ready
path that has gone longest without issuing (R125). A path that issues while the current one is in a gap of R145 becomes the current path:
the cases of R125 do not name it (DESIGN CHOICE, log 71). -/
def State.choose (s : State) (g : Group) : Option Nat :=
  let ready := g.paths.filter fun q => s.pathReady g q
  let oldest := (firstBy (fun a b => a.last < b.last || (a.last == b.last && g.lowSlice a.id < g.lowSlice b.id)) ready).map (·.id)
  match ready.find? fun q => q.id == g.cur with
  | some q => if q.streak < 64 then some q.id else oldest
  | none => oldest

/-- Whether an assignment word admits a partition and world (R82, R84). -/
def assignOk (w : Word32) (part wld : Nat) : Bool :=
  w.getLsbD 0 && bitsOf w.toNat 9 4 == part && bitsOf w.toNat 23 16 == wld

/-- Whether a group's quadrant lets it run: a context's groups run only where the assignment word is valid and matches (R83), and not
while the quadrant is being zeroed (R84). -/
def State.mayRun (s : State) (g : Group) : Bool :=
  g.kind == .curator ||
  (assignOk (Store.getOr s.mm.quadAssign g.quadrant 0) g.part g.world && Store.getOr s.mm.quadBusy g.quadrant 0 ≤ s.cyc)

/-- The active group that issues next: the ready one that has gone longest without issuing, then the lower slot (R115). -/
def State.issuer (s : State) : Option Group :=
  firstBy (fun a b => a.lastIssue < b.lastIssue || (a.lastIssue == b.lastIssue && a.unit < b.unit))
    (s.groups.filter fun g => g.st == .active && g.issueFrom ≤ s.cyc && s.ready g && s.mayRun g)

/-! ### Exchanges (R116, R117) -/

/-- A quadrant's groups. -/
def State.quadGroups (s : State) (quad : Nat) : List Group := s.groups.filter fun g => g.quadrant == quad

/-- Progress class and priority of a group's kernel. -/
def State.weakClass (s : State) (g : Group) : Bool := ((s.kernel? g.kernel).map (·.cls)).getD 0 == 2
def State.priority (s : State) (g : Group) : Nat := ((s.kernel? g.kernel).map (·.eff.priority)).getD 0

/-- The clk from which a ready pending group has waited (R117). -/
def State.waitedFrom (s : State) (g : Group) : Nat := g.readySince.getD s.cyc

/-- Whether a ready pending group is overdue (R117). -/
def State.overdue (s : State) (g : Group) : Bool :=
  g.kind == .user && g.st == .pending && s.ready g && !s.weakClass g && s.waitedFrom g + 4096 ≤ s.cyc

/-- The order of R117 among ready pending groups; handler and curator groups come first. -/
def State.before (s : State) (a b : Group) : Bool :=
  let key (g : Group) : List Nat :=
    [if g.kind == .user then 1 else 0, if s.overdue g then 0 else 1, if s.overdue g then 0 else 255 - s.priority g,
     if !s.overdue g && s.weakClass g then 1 else 0, s.waitedFrom g, g.unit]
  key a < key b

/-- The ready pending group that enters a quadrant's active set next. -/
def State.incoming (s : State) (quad : Nat) : Option Group :=
  firstBy s.before ((s.quadGroups quad).filter fun g => g.st == .pending && s.ready g)

/-- Active groups of a quadrant. -/
def State.actives (s : State) (quad : Nat) : List Group := (s.quadGroups quad).filter fun g => g.st == .active

/-- The active group that gives up its place: of those that may, the one that has gone longest without issuing (R116). -/
def State.outgoing (s : State) (quad : Nat) : Option Group :=
  firstBy (fun a b => a.lastIssue < b.lastIssue) ((s.actives quad).filter fun g => s.gives g)

/-- Whether an exchange is due on a quadrant (R116). -/
def State.exchangeDue (s : State) (quad : Nat) : Bool :=
  (s.incoming quad).isSome && ((s.actives quad).length < 8 || (s.outgoing quad).isSome)

/-- The active user groups that an overdue group displaces (R117). -/
def State.forced (s : State) (quad : Nat) : Option Group :=
  if (s.quadGroups quad).any (fun g => s.overdue g) then
    firstBy (fun a b => a.setSince < b.setSince) ((s.actives quad).filter fun g => g.kind == .user && g.setSince + 4096 ≤ s.cyc)
  else none

/-- A group that leaves the active set for the pending set: its upper levels are invalid, and its paths fetch their bundles again when
it comes back (R19, R38, R116). -/
def State.leave (s : State) (u : Nat) : State :=
  (s.modGrp u fun g =>
    { g.clearUpper with yielding := false, paths := g.paths.map fun q => { q with buf := none } }).enterPending u

/-- A group that takes an active place; it issues 8 clk later, or 24 more if its registers are drowsy (R71, R116). A time set at its
placement still holds. This is a resumption, after which an invalidation made before it reaches the group's fetches (R38). -/
def State.enterActive (s : State) (u : Nat) : State :=
  s.modGrp u fun g =>
    { g with st := .active, setSince := s.cyc, readySince := none, xfer := s.stamp
             issueFrom := max g.issueFrom (s.cyc + 8 + (if g.drowsy then 24 else 0)), drowsy := false }

/-- The chosen incoming group takes a place, and an outgoing one leaves it if there is none free. -/
def State.exchangeWith (s : State) (quad : Nat) (out : Option Group) : State :=
  match s.incoming quad with
  | none => s
  | some i =>
    let s := match out with
      | some o => s.leave o.unit
      | none => s
    s.enterActive i.unit

/-- EXCHANGE (R116). -/
def execExchange (quad : Nat) (s : State) : Res :=
  .next (if s.exchangeDue quad then s.exchangeWith quad (if (s.actives quad).length < 8 then none else s.outgoing quad) else s)

/-- FORCED_EXCHANGE (R117). -/
def execForcedExchange (quad : Nat) (s : State) : Res :=
  .next (match s.forced quad with
    | some o => s.exchangeWith quad (some o)
    | none => s)

/-- REGISTERS_DROWSY (R71): a group pending for more than 4,096 clk without issuing. -/
def execRegistersDrowsy (unit : Nat) (s : State) : Res :=
  .next (s.modGrp unit fun g => if g.st == .pending && g.setSince + 4096 < s.cyc then { g with drowsy := true } else g)

/-- GROUP_PARK (R123): 64 clk after every path waits, an absent lane among those awaited. -/
def execGroupPark (unit : Nat) (s : State) : Res :=
  .next (s.modGrp unit fun g =>
    match g.absentSince with
    | some t => if t + 64 ≤ s.cyc && g.awaitsAbsent && (g.st == .active || g.st == .pending) then { g with st := .parked } else g
    | none => g)

/-- SLEEP_WAKE (R123, R140): the wake value is reached, or a user interrupt has become deliverable. -/
def execSleepWake (unit : Nat) (s : State) : Res :=
  let t := if s.mgmt.power = 1 then s.wakePower else s
  .next (if (s.grp unit).st == .sleeping && s.ready (s.grp unit) then t.enterPending unit else t)

/-! ### What each clk sees (R117, R123, R130) -/

/-- A path at an instruction that is stranded on an open register (R130). -/
def Group.strandedPath? (g : Group) : Option Path :=
  g.paths.find? fun q => match q.wait with
    | some w => match w.why with
      | .regs srcs _ => g.stranded srcs
      | _ => false
    | none => false

/-- Whether a group may be stopped where it stands (R123). -/
def GState.stoppable (st : GState) : Bool :=
  match st with
  | .active | .pending | .parked => true
  | _ => false

/-- A group that leaves the active set to sleep; its paths fetch their bundles again when it comes back (R19, R38, R140). -/
def Group.toSleep (g : Group) : Group := { g with st := .sleeping, paths := g.paths.map fun (q : Path) => { q with buf := none } }

/-- A group as a clk finds it: STOPPED at a stranded wait under an armed stop (R130), SLEEPING when a sleeper with KEEP = 0 is left with
no path ready (R123, R140), and with the clk at which it became ready in the pending set (R117). -/
def State.seen (s : State) (g : Group) : Group :=
  match (if g.st.stoppable && s.stopArmed g then g.strandedPath? else none) with
  | some q => { g.modPath q.id fun q => { q with wait := none, answer := none } with st := .stopped (g.st == .active) }
  | none =>
    let asleep (q : Path) : Bool := match q.wait with
      | some w => !w.keep && (match w.why with
        | .clock _ => true
        | _ => false)
      | none => false
    if g.st = .active ∧ g.paths.any asleep ∧ s.idle g then g.toSleep
    else if g.st = .pending then
      if s.ready g then { g with readySince := some (s.waitedFrom g) } else { g with readySince := none }
    else g

/-- Every group as a clk finds it. -/
def State.observe (s : State) : State := { s with groups := s.groups.map s.seen }

/-! ### The bundle check (R19) and literals (R27) -/

/-- The source fields of a word that can hold a specifier, in the order A, B (R27, R34); a predicate field holds none (R160). -/
def litFields (w : Word32) : List Nat :=
  let op := w.toNat / 2 ^ 24
  let a := w.toNat / 2 ^ 8 % 256
  let b := w.toNat % 256
  match decode w.toNat with
  | .ok (.reservedOpcode _) => if op = 0 then [a, b] else []
  | _ =>
    if op = 0x01 ∨ op = 0x02 ∨ op = 0x04 ∨ op = 0x08 then []
    else if formatK op then [a]
    else if op = 0x64 ∨ op = 0x65 ∨ op = 0x6C then [b]
    else if op = 0x69 ∨ op = 0x6A ∨ op = 0x6B then [] else [a, b]
where
  /-- Opcodes of format K (R34). -/
  formatK (op : Nat) : Bool :=
    [0x0D, 0x0E, 0x11, 0x18, 0x19, 0x51, 0x53, 0x61, 0x62, 0x63, 0x6E, 0x79, 0x8C, 0xA4, 0xA5, 0xAA, 0xB0, 0xB1, 0xB2, 0xB3,
     0xCB, 0xD0, 0xD7, 0xE2, 0xE5].contains op

/-- The number of # specifiers of a slot. -/
def Bundle.hashes (b : Bundle) (n : Nat) : Nat :=
  if b.isLit n then 0 else ((litFields (b.word n)).filter (· == 0x0D)).length

/-- The walk of R27: from a slot on, the literal slots not yet taken, giving the slots bound to each slot's # specifiers. -/
def Bundle.walk (b : Bundle) (slots taken : List Nat) : List (Nat × List (Option Nat)) :=
  match slots with
  | [] => []
  | n :: rest =>
    let free := slotIds.filter fun j => n < j && b.isLit j && !taken.contains j
    let k := b.hashes n
    let mine := (List.range k).map fun i => free[i]?
    (n, mine) :: b.walk rest (taken ++ free.take k)

/-- The literal slots bound to a slot's # specifiers, in order (R27). -/
def Bundle.bound (b : Bundle) (n : Nat) : List (Option Nat) :=
  (((b.walk slotIds []).find? fun e => e.1 == n).map (·.2)).getD []

/-- The literals of fields A and B of a slot. -/
def Bundle.lits (b : Bundle) (n : Nat) : Word32 × Word32 :=
  let v (x : Option (Option Nat)) : Word32 := ((x.getD none).map b.word).getD 0
  let bs := b.bound n
  match litFields (b.word n) with
  | a :: _ => if a = 0x0D then (v bs[0]?, v bs[1]?) else (0, v bs[0]?)
  | [] => (0, 0)

/-- The control-transfer class (R29). -/
def isTransfer (w : Word32) : Bool :=
  [0x01, 0x02, 0x03, 0x04, 0x05, 0x06, 0x07, 0x0A, 0x13, 0x14].contains (w.toNat / 2 ^ 24)

/-- The lowest slot that the bundle check charges (R19). -/
def Bundle.charged (b : Bundle) : Option Nat :=
  if bitsOf b.control.toNat 63 62 ≠ 0 then some 0
  else slotIds.find? fun n =>
    b.ctl n ≥ 512 || (b.isLit n && b.ctl n / 2 % 256 != 0) ||
    (b.isInstr n && isTransfer (b.word n) && slotIds.any (fun k => n < k && b.isInstr k)) ||
    (b.bound n).any Option.isNone

/-! ### Fetch and arrival -/

/-- Every undetached run lane of a path detaches with a fetch fault (R100). -/
def State.fetchFault (s : State) (u p : Nat) (pc : Word) (kind stage : Nat) : State :=
  let s := { s with cur := { unit := u, path := p, pc := pc } }
  let recs := (LaneMask.lanes ((s.grp u).live p)).map fun l =>
    { s.laneRec l (faultCause kind) 0x0C (faultStatus kind stage .fetch) (bundleOf pc) 0 0 0 0 with fetch := true }
  s.detachLanes u p recs

/-- BUNDLE_FETCH (R19, R38, R100): the path enters its bundle. -/
def execBundleFetch (unit path : Nat) (s : State) : Res :=
  let g := s.grp unit
  let pc := g.pathPc path
  if (g.pathSlices path).isEmpty then .next s
  else
    match s.fetchAt g (bundleOf pc) with
    | (s, .inr (k, st)) => .next (s.fetchFault unit path pc k st)
    | (s, .inl b) =>
      match b.charged with
      | some n =>
        let s := { s with cur := { unit := unit, path := path, pc := bundleOf pc + BitVec.ofNat 64 n } }
        .next (s.trapGroup 0x09)
      | none => .next (s.modGrp unit fun g => g.modPath path fun q => { q with buf := some b })

/-- Whether a slice is about to arrive at its top entry in a bundle (R32, R129, R314). -/
def Slice.arrives (x : Slice) (b : Bundle) : Bool :=
  match x.rcv.head? with
  | some e => x.pc == e.rpc && (b.rcv || e.isImplicit)
  | none => false

/-- Whether a path arrives: its bundle is entered at slot 0, and not by a resumption there (R32). -/
def Group.pathArrives (g : Group) (q : Path) : Bool :=
  match q.buf with
  | none => false
  | some b => slotOf (g.pathPc q.id) == 0 && !q.noArrive && (g.pathSlices q.id).any fun x => x.arrives b

/-- ARRIVAL (R127, R129): the slices of the path are marked arrived; lanes that have gone count as arrived (R127). -/
def execArrival (unit path : Nat) (s : State) : Res :=
  let g := s.grp unit
  if g.pathArrives (g.path path) then
    let s := s.modGrp unit fun g =>
      (g.modPathSlices path fun x =>
        match x.rcv with
        | [] => x
        | e :: r => { x with rcv := { e with arrived := e.arrived ||| x.run } :: r, run := 0 }).modPath path fun q => { q with buf := none }
    .next ((s.settle unit).unpark unit)
  else .next ((s.settle unit).unpark unit)

end Sys2Proof.Machine
end

