-- ==== Sys2Proof/Machine/Access.lean ====
section
/-!
DEFINITION. Access.lean: how an access of a lane or an engine reaches memory: alignment (R171), translation, record space
(R317), scratchpad (R167), bank fencing (R84), windows and ports (R356, R358), token buckets (R85) and latencies (R182).
-/
namespace Sys2Proof.Machine

/-! ### Flits (R354) -/

/-- One bit of CRC-64 (ECMA-182). -/
def crcBit (c : Nat) : Nat := if c / 2 ^ 63 = 1 then (2 * c % 2 ^ 64) ^^^ 0x42F0E1EBA9EA3693 else 2 * c % 2 ^ 64

/-- CRC-64 (ECMA-182) of bytes, most significant bit first, from 0. -/
def crc64 (c : Nat) (bs : List Byte) : Nat :=
  match bs with
  | [] => c
  | b :: r => crc64 (crcBit (crcBit (crcBit (crcBit (crcBit (crcBit (crcBit (crcBit (c ^^^ (b.toNat * 2 ^ 56))))))))) ) r

/-- The bytes of a flit that its CRC covers. -/
def flitBytes (header : Word) (payload : List Byte) : List Byte :=
  leBytes header.toNat 8 ++ payload.take 240 ++ List.replicate (240 - payload.length) 0

/-- The payload bytes of a flit. -/
def flitPayload : Nat := 240

/-- The 256 bytes of a flit as it is sent, with the sequence number that its sender has acknowledged last (R354). -/
def Flit.bytes (f : Flit) (ack : Nat) : List Byte :=
  let b := flitBytes (word (f.routing.toNat / 2 ^ 24 * 2 ^ 24 + ack * 2 ^ 12 + f.seq)) f.payload
  b ++ leBytes (crc64 0 b) 8

/-- The flits of a port's replay buffer: the first 256 that are not acknowledged; those after them wait to be sent. -/
def Port.sent (x : Port) : List Flit := x.buffer.take 256

/-- A port that sends flits. -/
def Port.send (x : Port) (fs : List Flit) : Port :=
  if fs.isEmpty then x else { x with out := fs.map fun f => f.bytes ((x.rxSeq + 4095) % 4096) }

/-- A request's flit put behind those of a port. The first one starts the acknowledgement limit of R353. The flit type, the routing bits and
the payload are free values, since no rule lays them out (log 84). -/
def State.sendFlit (s : State) (token p : Nat) : State :=
  let x := Store.getOr s.ports p {}
  let n := flitPayload / 8
  let f : Flit := { seq := x.txSeq, routing := s.freeWord, token := token
                    payload := (List.range n).flatMap fun i => leBytes (Config.freeValue (s.free + 1 + i)).toNat 8 }
  let y := { x with txSeq := (x.txSeq + 1) % 4096, buffer := x.buffer ++ [f], ackSince := if x.buffer.isEmpty then s.cyc else x.ackSince }
  let s := { s.useFree (n + 1) with ports := Store.set s.ports p (y.send (if x.buffer.length < 256 then [f] else [])) }
  if x.buffer.isEmpty then s.schedule 65536 (.ackTimeout p) else s

/-- A port with its replay buffer cut to what has not been acknowledged: with the oldest flit its replays are gone too, and flits that waited
are sent (R353, R354). -/
def Port.acked (x : Port) (left : List Flit) (cyc : Nat) : Port :=
  let same : Bool := (left.head?.map (·.seq)) == x.buffer.head?.map (·.seq)
  if left.length = x.buffer.length then x
  else
    let y := { x with buffer := left, ackSince := cyc, tries := if same then x.tries else 0 }
    y.send (y.sent.filter fun f => !x.sent.contains f)

/-- The flits of a request acknowledged. -/
def State.ackFlit (s : State) (token p : Nat) : State :=
  let x := Store.getOr s.ports p {}
  { s with ports := Store.set s.ports p (x.acked (x.buffer.filter fun f => f.token != token) s.cyc) }

/-- Whether one of some ports retrains: what it carries waits until it is up again (R353). -/
def State.stuck (s : State) (ps : List Nat) : Bool := ps.any fun p => (Store.getOr s.ports p {}).st == .retraining

/-! ### Latencies and tokens -/

/-- The home slice of an HBM line (R165). -/
def homeSlice (pa : Nat) : Nat :=
  12 * (bitsOf pa 10 8 ^^^ bitsOf pa 19 17) + (bitsOf pa 14 11 ^^^ bitsOf pa 23 20) % 12

/-- Clk from an access's issue to its data: an L2 miss, or the windows' figures (R182, R356; log 9). -/
def latency (core pa : Nat) : Nat :=
  if pa ≥ peerBase then 1480
  else if pa ≥ hostBase then 2000
  else if homeSlice pa / 48 = dieOf core then 440 else 620

/-- Whether the buckets of a rate gain a token in a clk: in the first clk of each 16, as many as the rate (R85). The periods begin at the
multiples of 16 (DESIGN CHOICE, log 63). -/
def gainsAt (rate clk : Nat) : Bool := clk % 16 < rate

/-- The next gain of the buckets is on the agenda. -/
def State.wantRefill (s : State) : State :=
  if s.agenda.any (fun d => d.ev == .tokenRefill) then s
  else s.schedule (if s.mm.buckets.any fun e => gainsAt e.2.rate (s.cyc + 1) then 1 else 16 - s.cyc % 16) .tokenRefill

/-- One token of a partition's bucket at a home slice's port spent; an access that meets an empty bucket spends the next one that comes
(R85). A bucket of rate 0 gains none. -/
def State.spendToken (s : State) (part pa : Nat) : State :=
  match Store.get? s.mm.buckets part with
  | none => s
  | some b =>
    if hostBase ≤ pa then s
    else
      let i := homeSlice pa
      let n := Store.getOr b.tokens i b.cap
      let b := if n = 0 then { b with owed := Store.set b.owed i (Store.getOr b.owed i 0 + 1) }
        else { b with tokens := Store.set b.tokens i (n - 1) }
      let s := { s with mm := { s.mm with buckets := Store.set s.mm.buckets part b } }
      if b.rate = 0 then s else s.wantRefill

/-! ### Lane accesses -/

/-- How a lane's access comes out before it is performed: its parts by canonical PA, in ascending address order, the combined
memory type of each and what it holds (R101); or its trap. -/
inductive LaneAcc where
  | ok (parts : List (Nat × Nat)) (mts : List Nat) (held : List Held)
  | trap (cause status : Nat) (fault : Word)
  deriving DecidableEq, Repr

/-- The PA that a record-space access of a handler lane reaches, if it lies in the lane's own record (R317). -/
def State.recordAt? (s : State) (g : Group) (l v n : Nat) : Option Nat :=
  let x := v % 2 ^ 48
  if g.kind != .handler || x / 64 ≠ l || x % 64 + n > 64 then none
  else
    match Store.get? g.bound l, s.recOf? g l with
    | some b, some _ => some (s.canonPa (s.recordPa g.part b + x % 64))
    | _, _ => none

/-- The SRAM banks of a core that no scratchpad step takes, which are its L1 (R84, R166). -/
def State.l1Banks (s : State) (core : Nat) : List Nat :=
  let taken := (s.blocks.filter fun b => b.core == core).flatMap (·.steps)
  (List.range 32).filter fun b => !taken.contains (b / 4)

/-- The assignment word of an SRAM bank, or the word that takes effect when its zeroing ends (R84). -/
def State.bankWord (s : State) (bank : Nat) : Word32 := (Store.get? s.mm.bankNext bank).getD (Store.getOr s.mm.bankAssign bank 0)

/-- Whether bank fencing refuses a group's access to an HBM line of type 0 by way of its core's L1 (R84). Which bank serves a line is the
implementation's (log 62); a curator's accesses are not fenced, or none could assign the first bank. -/
def State.l1Refused (s : State) (g : Group) (pa mt : Nat) : Bool :=
  let banks := s.l1Banks g.core
  let admits (b : Nat) : Bool := assignOk (s.bankWord (32 * g.core + b)) g.part g.world
  g.kind != .curator && mt == 0 && pa < hbmEnd && !banks.all admits &&
  !(banks.any admits && admits (banks.getD (Config.l1Bank g.core (pa / 128) % banks.length) 0))

/-- Whether a part's access is refused: by the fencing of the L1's banks (R84), or at the host or a peer (R102, R356). Each part has the
address of the first byte that the access touches in its page, and its memory type. -/
def State.grants (s : State) (g : Group) (k : Access) (parts : List (Word × Nat × Nat)) : State × Option LaneAcc :=
  match parts with
  | [] => (s, none)
  | (va, pa, mt) :: rest =>
    if s.l1Refused g pa mt then (s, some (.trap 0x05 (32 + k.code) va))
    else
      match s.windowFault? k pa with
      | (s, some kind) => (s, some (.trap (faultCause kind) (faultStatus kind 0 k) va))
      | (s, none) => s.grants g k rest

/-- An access of n bytes by a lane at va, aligned on al bytes: alignment, record space, translation of both parts (R169, R171,
R213, R317). -/
def State.resolve (s : State) (g : Group) (l : Nat) (va : Word) (n al : Nat) (k : Access) (unal : Bool) : State × LaneAcc :=
  let v := va.toNat
  let mis := v % al != 0
  let record := v / 2 ^ 48 == 0xFFFD
  if mis && (!unal || record) then (s, .trap 0x03 k.code va)
  else if record then
    match s.recordAt? g l v n with
    | some pa => (s, .ok [(pa, n)] [2] [])
    | none => (s, .trap 0x05 (faultStatus 1 0 k) va)
  else
    let sp := s.laneSpace g l
    match s.translate sp va k with
    | (s, .fault kind st) => (s, .trap (faultCause kind) (faultStatus kind st k) va)
    | (s, .ok pa ipa mt z) =>
      let granted (r : State × Option LaneAcc) (parts : List (Nat × Nat)) (mts : List Nat) (held : List Held) : State × LaneAcc :=
        (r.1, r.2.getD (.ok parts mts held))
      let n1 := 128 - v % 128
      if mis && mt == 2 then (s, .trap 0x03 k.code va)
      else if n ≤ n1 then granted (s.grants g k [(va, pa, mt)]) [(pa, n)] [mt] [s.held sp v ipa z]
      else if v % z + n ≤ z then
        granted (s.grants g k [(va, pa, mt), (va, pa + n1, mt)]) [(pa, n1), (pa + n1, n - n1)] [mt, mt] [s.held sp v ipa z]
      else
        let vb := va + word n1
        match s.translate sp vb k with
        | (s, .fault kind st) => (s, .trap (faultCause kind) (faultStatus kind st k) vb)
        | (s, .ok pb ipb mtb zb) =>
          if mis && mtb == 2 then (s, .trap 0x03 k.code va)
          else granted (s.grants g k [(va, pa, mt), (vb, pb, mtb)]) [(pa, n1), (pb, n - n1)] [mt, mtb]
            [s.held sp v ipa z, s.held sp vb.toNat ipb zb]

/-- Bytes read by a resolved access. -/
def State.readParts (s : State) (part : Nat) (parts : List (Nat × Nat)) : State × List Byte :=
  parts.foldl (fun (r : State × List Byte) e =>
    let s := (r.1.spendToken part e.1).touch e.1 e.2
    (s, r.2 ++ s.mm.bytes e.1 e.2)) (s, [])

/-- Bytes written by a resolved access; those of a lost request are not. -/
def State.writeParts (s : State) (unit part : Nat) (parts : List (Nat × Nat)) (bs : List Byte) : State :=
  match parts with
  | [] => s
  | (pa, n) :: r =>
    let s := s.spendToken part pa
    let s := if s.reach pa = .lost then s else s.store unit pa (bs.take n)
    s.writeParts unit part r (bs.drop n)

/-- Whether an address lies in record space (R317). -/
def inRecords (va : Word) : Bool := va.toNat / 2 ^ 48 == 0xFFFD

/-- The parts of an access that go to memory: one to record space has the latency of an L1 hit and takes no request (R317). -/
def sentParts (va : Word) (parts : List (Nat × Nat)) : List (Nat × Nat) := if inRecords va then [] else parts

/-- The distinct lines that the parts of an instruction's lanes touch (R170). -/
def linesOf (ps : List (Nat × Nat)) : List Nat := (ps.map fun e => e.1 / 128).eraseDups

/-- The clk by which an instruction that touches n lines holds its issue slot longer than its operands ask for: it takes four lines
per clk (R170). -/
def Ops.lineExtra (o : Ops) (n : Nat) : Nat := (n + 3) / 4 - o.info.cost

/-- The ports that the parts of accesses use. -/
def State.portsOf (s : State) (parts : List (Nat × Nat)) : List Nat :=
  (parts.filterMap fun e => match s.reach e.1 with
    | .port p => some p
    | _ => none).eraseDups

/-- A value as a register holds it: integers extended, other types raw (R40). -/
def EType.image (t : EType) (v : Nat) : Word := if t.isInt then intImage v t.width t.signed else word v

/-- Accesses of the issuing instruction not yet performed: the lanes with what their records would hold, what they hold, the kind, the
requests that they take and the clk from issue to their performance (R170, R177). A posted write to the host window settles when it leaves
the device, for which R101 gives no clk: here with its performance (DESIGN CHOICE, log 73). -/
def State.addUnperformed (s : State) (o : Ops) (k : Access) (parts : List (Nat × Nat)) (lanes : List FlightLane) (held : List Held)
    (delay : Nat) : State :=
  let g := o.orig.g
  let x : Unperformed :=
    { token := s.stamp, unit := g.unit, serial := g.serial, held := held, ports := s.portsOf parts, pc := s.cur.pc
      instr := s.cur.instr, access := k, lanes := lanes, by_ := o.live, requests := (linesOf parts).length }
  let s := x.ports.foldl (fun s p => s.sendFlit x.token p) { s with mm := { s.mm with stores := s.mm.stores ++ [x] } }
  (s.scheduleAt (o.orig.cyc + delay) (.accessPerformed s.stamp)).tick

/-- The lines that accesses name by address and width, each of which takes a request entry; one to record space takes none (R170, R317). -/
def namedLines (accs : List (Word × Nat)) : Nat :=
  (((accs.filter fun e => !inRecords e.1).flatMap fun e => [e.1.toNat / 128, (e.1.toNat + e.2 - 1) / 128]).eraseDups).length

/-- A memory instruction that finds every request entry of its core in use stalls in place (R182); so does one that finds fewer than its
lines may take, before it has sent any of them (DESIGN CHOICE, log 72). -/
def Ops.requestStall? (o : Ops) (n : Nat) : Option State :=
  if o.orig.requestsOf o.orig.g.core + n ≤ requestEntries then none else some (o.stallAt (.requestRoom n))

/-- The accesses of the lanes that act, or of the lowest alone. -/
def Ops.namedBy (o : Ops) (single : Bool) (va : Nat → Word) (n : Nat → Nat) : List (Word × Nat) :=
  (if single then [LaneMask.lowest o.act] else LaneMask.lanes o.act).map fun l => (va l, n l)

/-! ### The contention predictor (R215) -/

/-- An entry after the recall of its core's ownership by another core. -/
def Predictor.recall (p : Predictor) : Predictor :=
  match p.state with
  | .near0 => { p with state := .near1, quiet := 0 }
  | .near1 => { p with state := .far, quiet := 0 }
  | .far => p

/-- A core's entry for a line; a line without one counts as NEAR0. -/
def State.predictor (s : State) (core line wld : Nat) : Predictor :=
  (s.mm.predictor.find? fun p => p.core == core && p.line == line && p.world == wld).getD { core := core, line := line, world := wld }

/-- An entry set, as its core's most recently used. -/
def State.setPredictor (s : State) (e : Predictor) : State :=
  let others := s.mm.predictor.filter fun p => !(p.core == e.core && p.line == e.line && p.world == e.world)
  let mine := (others.filter fun p => p.core == e.core).take 511
  { s with mm := { s.mm with predictor := e :: (mine ++ others.filter fun p => p.core != e.core) } }

/-- An access of a core to HBM lines, as the other cores see it: a load, a store, a reduction, an atomic or one of its engines'. Their
ownership of the lines is recalled. -/
def State.othersAccess (s : State) (core : Nat) (parts : List (Nat × Nat)) : State :=
  let lines := linesOf (parts.filter fun e => e.1 < hbmEnd)
  let hit (o : Nat × Nat × Nat) : Bool := o.1 != core && lines.contains o.2.1
  let lost := s.mm.owners.filter hit
  let touch (p : Predictor) : Predictor := if p.core ≠ core ∧ lines.contains p.line then { p with touched := true } else p
  let s := { s with mm := { s.mm with owners := s.mm.owners.filter (fun o => !hit o), predictor := s.mm.predictor.map touch } }
  lost.foldl (fun s o => s.setPredictor { (s.predictor o.1 o.2.1 o.2.2).recall with touched := true }) s

/-! ### Scratchpad (R84, R167) -/

/-- The scratchpad steps of a group's block. -/
def State.steps (s : State) (g : Group) : List Nat :=
  if g.kind = .user then ((s.blocks.find? fun b => b.kernel == g.kernel && b.bid == g.bid).map (·.steps)).getD [] else []

/-- The bank and the array index of a scratchpad offset. -/
def scratchBank (steps : List Nat) (o : Nat) : Nat := 4 * steps.getD (o / 65536) 0 + o / 128 % 4
def scratchIndex (core : Nat) (steps : List Nat) (o : Nat) : Nat :=
  core * 524288 + scratchBank steps o * 16384 + o % 65536 / 512 * 128 + o % 128

/-- The chip-wide banks of n bytes from a scratchpad offset on; every 128 bytes lie in one (R167). -/
def State.scratchBanks (s : State) (g : Group) (o n : Nat) : List Nat :=
  (List.range ((o + n - 1) / 128 + 1 - o / 128)).map fun i => 32 * g.core + scratchBank (s.steps g) (o + 128 * i)

/-- Whether n bytes from a scratchpad offset are the block's and in banks that admit the group; an access to a bank that is being
zeroed reaches it with the word that then takes effect (R84). -/
def State.scratchOk (s : State) (g : Group) (o n : Nat) : Bool :=
  o + n ≤ 65536 * (s.steps g).length && (s.scratchBanks g o n).all fun b => assignOk (s.bankWord b) g.part g.world

/-- The clk until which a bank of n bytes from a scratchpad offset on is being zeroed (R84). -/
def State.scratchBusy (s : State) (g : Group) (o n : Nat) : Nat :=
  if o + n ≤ 65536 * (s.steps g).length then (s.scratchBanks g o n).foldl (fun m b => max m (Store.getOr s.mm.bankBusy b 0)) 0 else 0

/-- The clk until which a bank of a group's block is being zeroed (R84). -/
def State.blockBusy (s : State) (g : Group) : Nat := s.scratchBusy g 0 (65536 * (s.steps g).length)

/-- Scratchpad bytes read and written. -/
def State.readScratch (s : State) (g : Group) (o n : Nat) : List Byte :=
  (List.range n).map fun i => Store.getOr s.mm.sram (scratchIndex g.core (s.steps g) (o + i)) 0
def State.writeScratch (s : State) (g : Group) (o : Nat) (bs : List Byte) : State :=
  { s with mm := { s.mm with sram := (bs.zipIdx).foldl (fun m e =>
      let i := scratchIndex g.core (s.steps g) (o + e.2)
      if e.1 = 0 then Store.del m i else Store.set m i e.1) s.mm.sram } }

/-- The greatest number of distinct rows in one bank among offsets, less one (R167). -/
def scratchConflicts (steps : List Nat) (os : List Nat) : Nat :=
  let rows := (os.map fun o => (scratchBank steps o, o % 65536 / 512)).eraseDups
  (rows.map fun r => (rows.filter fun q => q.1 == r.1).length).foldl max 1 - 1

end Sys2Proof.Machine
end

