-- ==== Sys2Proof/Machine/Memory.lean ====
section
/-!
DEFINITION. Memory.lean: the memory instructions (R165 to R183) and the events that complete accesses.
-/
namespace Sys2Proof.Machine

/-! ### The contention predictor (R215) -/

/-- An entry after a returning atomic of its own core. -/
def Predictor.use (p : Predictor) : Predictor :=
  match p.state with
  | .near0 => { p with touched := false }
  | .near1 => { p with touched := false, quiet := p.quiet + 1 }
  | .far => { p with touched := false, quiet := if p.touched then 0 else p.quiet + 1 }

/-- The predictor after a returning atomic of a core to a line, which the core owns once it has acted near; PREDICTOR_QUIET follows a quiet
count of 64. -/
def State.predict (s : State) (core line wld : Nat) : State :=
  let p := s.predictor core line wld
  let e := p.use
  let o := (core, line, wld)
  let s := s.setPredictor e
  let s := if p.state = .far || s.mm.owners.contains o then s else { s with mm := { s.mm with owners := o :: s.mm.owners } }
  if e.quiet ≥ 64 then s.schedule 0 (.predictorQuiet core line) else s

/-! ### Loads -/

/-- What the lanes of a load come to: the state, the lanes on their way, and the records of those that trap. -/
structure Loaded where
  s : State
  lanes : List FlightLane := []
  recs : List TrapRec := []
  parts : List (Nat × Nat) := []
  held : List Held := []

/-- A lane on its way, with what its record would hold. -/
def State.flightLane (s : State) (o : Ops) (parts : List (Nat × Nat)) (va : Word) (k : Nat) : FlightLane :=
  { lane := k, value := 0, va := va, size := (parts.map (·.2)).foldl (· + ·) 0, a := o.a.at k, b := o.b.at k, c := o.c.at k, window := parts.any fun e => inWindow e.1
    ports := s.portsOf parts, lost := parts.any fun e => s.reach e.1 == .lost
    depth := (o.orig.g.slice (k / 4)).depth }

/-- One lane of a load, with the width and image of a type, for the lanes of a list that share the access. -/
def Loaded.lane (r : Loaded) (o : Ops) (dest : Nat) (strict : Bool) (l : Nat) (ls : List Nat) : Loaded :=
  let g := o.orig.g
  let m := o.modeOf l
  let t := modeEtype m
  let va := o.a.at l + o.b.at l
  match r.s.resolve g l va t.bytes t.bytes .read (!strict && modeUnal m) with
  | (s, .trap cause status fault) =>
    { r with s := s, recs := r.recs ++ ls.map fun k => s.laneRec k cause dest status fault (o.a.at k) (o.b.at k) (o.c.at k) 0 }
  | (s, .ok parts _ held) =>
    let (s, bs) := s.readParts g.part parts
    let v := t.image (leNat bs)
    let fl (k : Nat) : FlightLane := { s.flightLane o parts va k with value := v }
    { s := s, lanes := r.lanes ++ ls.map fl, recs := r.recs, parts := r.parts ++ sentParts va parts, held := r.held ++ held }

/-- Clk that the combine of a line's update-only copies adds to the access of a core that causes it (R219). -/
def State.combineClk (s : State) (core line : Nat) : Nat :=
  let holders := s.mm.partials.filter fun x => x.line == line
  if holders.isEmpty then 0 else (if holders.all fun x => dieOf x.core == dieOf core then 200 else 380) + 2 * holders.length

/-- The delay of an instruction's accesses: that of its last part to be performed, with the combine that it causes (R182, R219, R356). -/
def State.accessDelay (s : State) (core : Nat) (parts : List (Nat × Nat)) : Nat :=
  (parts.map fun e => latency core e.1 + s.combineClk core (e.1 / 128)).foldl max 24

/-- A long-latency producer issues: its register becomes EMPTY and pending, and its data are on their way (R69). -/
def State.fly (s : State) (o : Ops) (d : Opnd) (isAtomic : Bool) (r : Loaded) (delay : Nat) : State :=
  match d.reg? with
  | none => s
  | some reg =>
    let g := s.g
    let tok := s.stamp
    let lanes := r.lanes
    let s := s.modG fun g => g.setRegState reg (.pending tok)
    let f : Flight := { token := tok, unit := g.unit, serial := g.serial, reg := reg, pc := s.cur.pc, instr := s.cur.instr
                        atomic := isAtomic, dest := d.code, lanes := lanes, held := r.held, by_ := o.live
                        requests := (linesOf r.parts).length }
    let s := ((lanes.flatMap (·.ports)).eraseDups).foldl (fun s p => s.sendFlit tok p) s
    ({ s with mm := { s.mm with flights := s.mm.flights ++ [f] } }.scheduleAt (o.orig.cyc + delay) (.longLatencyComplete tok)).tick

/-- The entry of a load. -/
def loadInfo (i : Instr) (opcode : Nat) (d a b : Opnd) (s : State) : Info :=
  { opcode := opcode, a := some { op := a, lit := .ty .i64 }, b := some { op := b, lit := .ty .i64 }, dst := some d
    long := true, legal := i.wf && s.etypesOk fun _ => true, idle := true }

/-- The scratchpad or memory offset of a lane's access (R167, R169). -/
def Ops.offset (o : Ops) (l : Nat) : Word := o.a.at l + o.b.at l
/-- The width of a lane's access, that of its ETYPE. -/
def Ops.width (o : Ops) (l : Nat) : Nat := (modeEtype (o.modeOf l)).bytes

/-- The lanes of a load, each with its access, or one access for all (R169, R179). -/
def Ops.loadLanes (o : Ops) (d : Opnd) (strict single : Bool) (t : State) : Loaded :=
  let ls := LaneMask.lanes o.act
  if single || d.isS then Loaded.lane { s := t } o d.code strict (LaneMask.lowest o.act) ls
  else ls.foldl (fun r l => r.lane o d.code strict l [l]) { s := t }

/-- A load: LD, LDX, LDA, and LDC or an s destination as one access for all lanes (R169, R179). -/
def loadOp (i : Instr) (opcode : Nat) (d a b : Opnd) (strict single : Bool) (s : State) : Res :=
  run (loadInfo i opcode d a b s) s fun o t =>
    if o.act = 0 then t.done o
    else
      match o.requestStall? (namedLines (o.namedBy (single || d.isS) o.offset o.width)) with
      | some u => u
      | none =>
        let r := o.loadLanes d strict single t
        let core := o.orig.g.core
        let t := (r.s.othersAccess core r.parts).spend (o.lineExtra (linesOf r.parts).length)
        ((t.fly o d false r (o.orig.accessDelay core r.parts)).done o).detach o r.recs

/-- LD (R169). -/
def execLd (d a b : Opnd) (s : State) : Res := loadOp (.ld d a b) 0x80 d a b false false s
/-- LDX: strong, always aligned (R171, R172). -/
def execLdx (d a b : Opnd) (s : State) : Res := loadOp (.ldx d a b) 0x82 d a b true false s
/-- LDA: an acquire (R176); the model's one order of accesses makes it so (log 8). -/
def execLda (d a b : Opnd) (s : State) : Res := loadOp (.lda d a b) 0x84 d a b true false s
/-- LDC: one access for the group (R179). -/
def execLdc (d a b : Opnd) (s : State) : Res := loadOp (.ldc d a b) 0x88 d a b false true s

/-- The data of a producer arrive: the register becomes FULL with the arrived lanes written, or lost. Data for a register that no
longer awaits them are discarded (R69, R358). -/
def State.arrive (s : State) (f : Flight) : State :=
  let s := (f.lanes.filter fun x => !x.lost).foldl State.serveLane s
  let f := (s.mm.flights.find? fun x => x.token == f.token).getD f
  let s := { s with mm := { s.mm with flights := s.mm.flights.filter fun x => x.token != f.token } }
  let s := ((f.lanes.flatMap (·.ports)).eraseDups).foldl (fun s p => s.ackFlit f.token p) s
  if (s.grp f.unit).serial ≠ f.serial then s
  else
    let s := s.modGrp f.unit fun g =>
      if g.regState f.reg ≠ .pending f.token then g
      else if f.lanes.any (·.lost) then g.setRegState f.reg .lost
      else
        let v := Lanes.of fun l => ((f.lanes.find? fun x => x.lane == l).map (·.value)).getD 0
        let m := maskOf fun l => f.lanes.any fun x => x.lane == l
        (g.writeReg f.reg v m).setRegState f.reg .full
    s.reap f.unit

/-- LONG_LATENCY_COMPLETE (R69, R358): not while a port that it needs retrains (R353), nor into a quadrant that is being zeroed (R84). -/
def execLongLatencyComplete (token : Nat) (s : State) : Res :=
  match s.mm.flights.find? fun f => f.token == token with
  | none => .next s
  | some f =>
    let busy := Store.getOr s.mm.quadBusy (quadOf f.unit) 0
    .next (if s.stuck f.links then s
      else if s.cyc < busy then s.scheduleAt busy (.longLatencyComplete token) else s.arrive f)

/-! ### Stores -/

/-- What the lanes of a store come to: the state, the lanes that store with their writes, and the records of those that trap. -/
structure Stored where
  s : State
  lanes : List FlightLane := []
  recs : List TrapRec := []
  parts : List (Nat × Nat) := []
  held : List Held := []
  writes : List Write := []

/-- The writes of a resolved access of an agent; those of a lost request are not made. -/
def State.writesOf (s : State) (unit : Nat) (parts : List (Nat × Nat)) (bs : List Byte) : List Write :=
  match parts with
  | [] => []
  | (pa, n) :: r => (if s.reach pa = .lost then [] else [{ unit := unit, pa := pa, bytes := bs.take n }]) ++ s.writesOf unit r (bs.drop n)

/-- What a store's writes still do at a peer, if they go there; the others are made with the instruction (R356; log 8). -/
def State.peerWrites (s : State) (ws : List Write) : Option PeerAct :=
  match ws with
  | [] => none
  | w :: _ => if ws.any fun w => peerBase ≤ w.pa then some (.write (s.agent w.unit) (ws.map fun w => (w.pa, w.bytes))) else none

/-- One lane of a store, which stores only if all of its parts translate (R169, R171). -/
def Stored.lane (r : Stored) (o : Ops) (strict : Bool) (l : Nat) : Stored :=
  let g := o.orig.g
  let m := o.modeOf l
  let n := (modeEtype m).bytes
  let va := o.a.at l + o.b.at l
  match r.s.resolve g l va n n .write (!strict && modeUnal m) with
  | (s, .trap cause status fault) =>
    { r with s := s, recs := r.recs ++ [s.laneRec l cause 0x0C status fault (o.a.at l) (o.b.at l) (o.c.at l) 0] }
  | (s, .ok parts _ held) =>
    let ws := s.writesOf (s.laneUnit g l) parts (leBytes (o.c.at l).toNat n)
    let act := s.peerWrites ws
    { s := parts.foldl (fun s e => s.spendToken g.part e.1) s, lanes := r.lanes ++ [{ s.flightLane o parts va l with act := act }]
      recs := r.recs, parts := r.parts ++ sentParts va parts, held := r.held ++ held
      writes := r.writes ++ (if act.isSome then [] else ws) }

/-- The entry of a store: field D is a source. -/
def storeInfo (i : Instr) (opcode : Nat) (d a b : Opnd) (s : State) : Info :=
  { opcode := opcode, a := some { op := a, lit := .ty .i64 }, b := some { op := b, lit := .ty .i64 }, c := some { op := d }
    legal := i.wf && s.etypesOk fun _ => true, idle := true }

/-- A store: its lanes' writes are performed together, and the highest-numbered lane that names a byte gives its value (R170). An STL comes
after what its path has on its way by peer links, whose loss it would report: R358 asks for that, and R182 gives the wait no place; it
stalls in place (DESIGN CHOICE, log 83). -/
def storeOp (i : Instr) (opcode : Nat) (d a b : Opnd) (strict release : Bool) (s : State) : Res :=
  run (storeInfo i opcode d a b s) s fun o t =>
    if o.act = 0 then t.done o
    else if release && !o.orig.linksDone o.orig.g o.orig.cur.path then o.stallAt .links
    else
      match o.requestStall? (namedLines (o.namedBy false o.offset o.width)) with
      | some u => u
      | none =>
        let r := (LaneMask.lanes o.act).foldl (fun r l => r.lane o strict l) ({ s := t } : Stored)
        let core := o.orig.g.core
        let t := ((r.s.storeMany r.writes).othersAccess core r.parts).spend (o.lineExtra (linesOf r.parts).length)
        let t := if r.lanes.isEmpty then t else t.addUnperformed o .write r.parts r.lanes r.held (o.orig.accessDelay core r.parts)
        let t := if r.lanes.any (·.lost) then t.modG fun g => { g with linkLost := true } else t
        let t := (t.done o).detach o r.recs
        if release then o.report t else t

/-- ST (R169). -/
def execSt (d a b : Opnd) (s : State) : Res := storeOp (.st d a b) 0x81 d a b false false s
/-- STX: strong, always aligned. -/
def execStx (d a b : Opnd) (s : State) : Res := storeOp (.stx d a b) 0x83 d a b true false s
/-- STL: a release (R176); a lost store raises LINKLOST instead (R358). -/
def execStl (d a b : Opnd) (s : State) : Res := storeOp (.stl d a b) 0x85 d a b true true s

/-- ACCESS_PERFORMED (R177, R358): a store, not while a port that it needs retrains (R353); or the lines of a PF. -/
def execAccessPerformed (token : Nat) (s : State) : Res :=
  let s := { s with mm := { s.mm with prefetches := s.mm.prefetches.filter fun x => x.token != token } }
  match s.mm.stores.find? fun x => x.token == token with
  | none => .next s
  | some x =>
    .next (if s.stuck x.ports then s
      else
        let s := x.lanes.foldl State.serveLane s
        let s := { s with mm := { s.mm with stores := s.mm.stores.filter fun y => y.token != token } }
        (x.ports.foldl (fun s p => s.ackFlit token p) s).reapOf x.serial)

/-! ### Scratchpad -/

/-- The check of one lane's scratchpad access (R84, R167, R171). -/
def Ops.scratchTrap? (o : Ops) (l : Nat) (k : Access) : Option LaneRes :=
  let off := o.offset l
  if off.toNat % o.width l ≠ 0 ∧ !modeUnal (o.modeOf l) then some (.trap 0x03 k.code 0 off)
  else if !o.orig.scratchOk o.orig.g off.toNat (o.width l) then some (.trap 0x05 (32 + k.code) 0 off)
  else none

/-- The offsets of the rows that the lanes of a scratchpad access touch: those of its first and of its last byte (R167, R171). -/
def Ops.rowOffsets (o : Ops) : List Nat :=
  ((LaneMask.lanes o.act).filter fun l => (o.scratchTrap? l .read).isNone).flatMap fun l =>
    [(o.offset l).toNat, (o.offset l).toNat + o.width l - 1]

/-- The extra issue cost of a scratchpad access (R167). -/
def Ops.scratchCost (o : Ops) : Nat := scratchConflicts (o.orig.steps o.orig.g) o.rowOffsets

/-- No access reaches a bank before its zeroing ends: the instruction stalls in place until then (R84; log 46). -/
def Ops.bankStall? (o : Ops) : Option State :=
  let busy := (LaneMask.lanes o.act).foldl (fun m l => max m (o.orig.scratchBusy o.orig.g (o.offset l).toNat (o.width l))) 0
  if busy ≤ o.orig.cyc then none else some (o.stallAt (.clock (word busy)))

/-- The entry of LDP: its operands, marks and conditions. -/
def infoLdp (d a b : Opnd) (s : State) : Info :=
  { opcode := 0x86, a := some { op := a, lit := .ty .i64 }, b := some { op := b, lit := .ty .i64 }, dst := some d
    legal := (Instr.ldp d a b).wf && s.etypesOk fun _ => true, idle := true }

/-- LDP (R167, R169). -/
def execLdp (d a b : Opnd) (s : State) : Res :=
  run (infoLdp d a b s) s fun o t =>
    match o.bankStall? with
    | some u => u
    | none =>
      (t.spend o.scratchCost).finishLanes o d fun l =>
        (o.scratchTrap? l .read).getD
          (.val ((modeEtype (o.modeOf l)).image (leNat (o.orig.readScratch o.orig.g (o.offset l).toNat (o.width l)))))

/-- The entry of STP: its operands, marks and conditions. -/
def infoStp (d a b : Opnd) (s : State) : Info :=
  { opcode := 0x87, a := some { op := a, lit := .ty .i64 }, b := some { op := b, lit := .ty .i64 }, c := some { op := d }
    legal := (Instr.stp d a b).wf && s.etypesOk fun _ => true, idle := true }

/-- STP (R167, R169). -/
def execStp (d a b : Opnd) (s : State) : Res :=
  run (infoStp d a b s) s fun o t =>
    match o.bankStall? with
    | some u => u
    | none =>
      let f (l : Nat) : LaneRes := (o.scratchTrap? l .write).getD (.val 0)
      let t := (LaneMask.lanes (okLanes o f)).foldl (fun t l =>
        t.writeScratch o.orig.g (o.offset l).toNat (leBytes (o.c.at l).toNat (o.width l))) (t.spend o.scratchCost)
      (t.done o).detach o (trapRecs t o 0x0C f)

/-! ### FENCE, PF and CCTL -/

/-- The entry of FENCE: its operands, marks and conditions. -/
def infoFence : Info :=
  { opcode := 0x89, blocking := true }

/-- FENCE: waits until every earlier access of the path is performed (R177). -/
def execFence (s : State) : Res :=
  run infoFence s fun o t =>
    if o.orig.performed o.orig.g s.cur.path then o.report (t.done o) else o.report (o.waitAt .performed 1 0)

/-- The entry of PF: its operands, marks and conditions. -/
def infoPf (a b : Opnd) : Info :=
  { opcode := 0x8B, a := some { op := a, lit := .ty .i64 }, b := some { op := b, lit := .ty .i64 }
    legal := (Instr.pf a b).wf, idle := true }

/-- The lines that a PF asks for, of the lanes that translate; the walks may fill the TLBs (R180). -/
def Ops.prefetch (o : Ops) (t : State) : State × List (Nat × Nat) :=
  (LaneMask.lanes o.act).foldl (fun (r : State × List (Nat × Nat)) l =>
    match r.1.translate (r.1.laneSpace o.orig.g l) (o.a.at l + o.b.at l) .read with
    | (s, .ok pa _ _ _) => (s, r.2 ++ [(pa, 1)])
    | (s, .fault _ _) => (s, r.2)) (t, [])

/-- PF: the lines are brought in, each with a request entry until it has come, which no load can observe (R180, R182). -/
def execPf (a b : Opnd) (s : State) : Res :=
  run (infoPf a b) s fun o t =>
    match o.requestStall? (namedLines (o.namedBy false o.offset fun _ => 1)) with
    | some u => u
    | none =>
      let r := o.prefetch t
      let core := o.orig.g.core
      let x : Prefetch := { token := r.1.stamp, core := core, requests := (linesOf r.2).length }
      let t := if r.2.isEmpty then r.1 else
        ({ r.1 with mm := { r.1.mm with prefetches := r.1.mm.prefetches ++ [x] } }.scheduleAt (s.cyc + (r.2.map fun (e : Nat × Nat) => latency core e.1).foldl max 24)
          (.accessPerformed x.token)).tick
      (t.spend (o.lineExtra (linesOf r.2).length)).done o

/-- The entry of CCTL: operations 1 and 2 name a line (R181). -/
def infoCctl (a : Opnd) (o : Fin 4) : Info :=
  { opcode := 0x8C, a := if o.val = 1 || o.val = 2 then some { op := a, lit := .ty .i64 } else none, blocking := o.val < 2
    legal := (Instr.cctl a o).wf }

/-- The eviction of L1 lines: a copy that is update-only is combined, and nothing else can be seen of it (R181, R217). The lines are those
that the active lanes name, or every line of the group's world on its core. -/
def Ops.evict (o : Ops) (all : Bool) (t : State) : State :=
  let g := o.orig.g
  let mine (x : Partial) : Bool := x.core == g.core
  let own (t : State) (p : Nat × Nat × Nat → Bool) : State := { t with mm := { t.mm with owners := t.mm.owners.filter fun x => !(x.1 == g.core && p x) } }
  let drop (t : State) (line : Nat) : State :=
    let t := own t fun x => x.2.1 == line
    if t.mm.partials.any fun x => mine x && x.line == line then { t with mm := t.mm.combine line } else t
  let t := if all then own t fun x => x.2.2 == g.world else t
  if all then ((t.mm.partials.filter fun x => mine x && x.agent.part == g.part && x.world == g.world).map (·.line)).eraseDups.foldl drop t
  else (LaneMask.lanes o.act).foldl (fun t l =>
    match t.translate (t.laneSpace g l) (o.a.at l) .read with
    | (t, .ok pa _ _ _) => drop t (pa / 128)
    | (t, .fault _ _) => t) t

/-- CCTL (R181): the code-cache operations wait for the path's stores and then for the invalidation. -/
def execCctl (a : Opnd) (o : Fin 4) (s : State) : Res :=
  let code := o.val < 2
  let all := o.val = 3
  run (infoCctl a o) s fun o t =>
    if !code then (o.evict all t).done o
    else if o.stage = 2 ∧ o.orig.p.answer.isSome then (t.modP fun q => { q with answer := none }).done o
    else if !o.orig.performed o.orig.g s.cur.path then o.release (o.orig.g.widestScope s.cur.path) (o.waitAt .performed 1 0)
    else o.release (o.orig.g.widestScope s.cur.path) ((o.waitAt .answer 2 s.stamp).schedule 600 (.codeInvalidationDone s.stamp)).tick

/-- CODE_INVALIDATION_DONE (R38, R181): of the old bundles of the line, or of all lines, those that agents of the scope have stored are
invalidated for the context's groups in the scope, now and later, and the waiting CCTL is answered. A handler group's CCTL is made for the
origin of its lowest active lane (R173, R321). -/
def execCodeInvalidationDone (token : Nat) (s : State) : Res :=
  let waits (q : Path) : Bool := match q.wait with
    | some w => w.stage == 2 && w.arg == token && w.why == .answer
    | none => false
  match s.groups.find? fun g => g.paths.any waits with
  | none => .next s
  | some g =>
    match g.paths.find? waits with
    | none => .next s
    | some q =>
      let scope := g.widestScope q.id
      let l := LaneMask.lowest (g.active q.id)
      let sp := s.laneSpace g l
      let agent := s.agent (s.laneUnit g l)
      let line : Option Word := (q.wait.bind (·.a)).map fun v => v.at 0
      let (s, pa?) : State × Option Nat := match line with
        | none => (s, none)
        | some va =>
          match s.translate sp va .fetch with
          | (s, .ok pa _ _ _) => (s, some pa)
          | (s, .fault _ _) => (s, some (2 ^ 64))
      let hits (x : OldBundle) : Bool :=
        agent.covers scope x.agent && (match pa? with
          | none => true
          | some pa => x.pa / 128 == pa / 128)
      let clear : CodeClear := { ctx := sp.ctx, agent := agent, scope := scope, stamp := s.stamp }
      let code := s.mm.code.map fun x => if hits x then { x with cleared := clear :: x.cleared } else x
      .next ({ s with mm := { s.mm with code := code } }.modGrp g.unit fun g =>
        g.modPath q.id fun q => { q with answer := some [] }).tick

/-- PAGE_WALK_COMPLETE (R96, R97, R391): the walk has filled the TLBs with the valid entries it met; a walk that fails fills
nothing, and the access it was for takes the fault of R98. -/
def execPageWalkComplete (unit : Nat) (va : BitVec 64) (kind : Fin 4) (s : State) : Res :=
  let k : Access := match kind.val with
    | 0 => .read
    | 1 => .write
    | 2 => .atomic
    | _ => .fetch
  .next (s.translate (s.groupSpace (s.grp unit)) va k).1

end Sys2Proof.Machine
end

