-- ==== Sys2Proof/Machine/Atomic.lean ====
section
/-!
DEFINITION. Atomic.lean: atomics and reductions (R212 to R220).
-/
namespace Sys2Proof.Machine

/-! ### The contention predictor (R215) -/

/-- PREDICTOR_QUIET (R215). -/
def execPredictorQuiet (core line : Nat) (s : State) : Res :=
  .next { s with mm := { s.mm with predictor := s.mm.predictor.map fun p =>
    if p.core = core ∧ p.line = line ∧ p.quiet ≥ 64 then { p with state := .near0, quiet := 0 } else p } }

/-! ### Elements -/

/-- An atomic operation: its opcode and the type, rounding and flush of the lane's mode copy. -/
structure AtomOp where
  opcode : Nat
  ty : EType
  rnd : Word32
  deriving Repr

/-- The new value of an element (R212). -/
def AtomOp.new (p : AtomOp) (m v c : Nat) : Nat := atomicNew p.opcode p.ty (modeRnd p.rnd) (modeFtz p.rnd) m v c

/-- A first contribution to an element of an update-only line (R217). -/
def AtomOp.first (p : AtomOp) (v : Nat) : Nat :=
  match p.opcode, p.ty.kind with
  | 0x9A, .flt f | 0x9A, .packed f => f.flush (modeFtz p.rnd) v
  | _, _ => v

/-- The update-only copy of a core's line that has an operation's tag, and the partition and world of its line (R83), or a new one after a
combine (R217). -/
def MemSys.updateOnly (mm : MemSys) (core : Nat) (agent : Agent) (wld line : Nat) (p : AtomOp) : MemSys × Partial :=
  let fresh : Partial := { agent := agent, world := wld, core := core, line := line, opcode := p.opcode, etype := modeEtypeCode p.rnd, rnd := bitsOf p.rnd.toNat 12 10
                           ftz := modeFtz p.rnd, parts := [] }
  match mm.partials.find? fun x => x.core == core && x.line == line with
  | none => (mm, fresh)
  | some x =>
    if x.opcode = fresh.opcode ∧ x.etype = fresh.etype ∧ x.rnd = fresh.rnd ∧ x.ftz = fresh.ftz ∧ x.agent.part = agent.part ∧ x.world = wld then (mm, x)
    else (mm.combine line, fresh)

/-- Copies kept by line and then by ascending core number. -/
def insertPartial (ps : List Partial) (x : Partial) : List Partial :=
  match ps with
  | [] => [x]
  | y :: r =>
    if y.core = x.core ∧ y.line = x.line then x :: r
    else if x.core < y.core then x :: y :: r else y :: insertPartial r x

/-- A near reduction of one element (R217). -/
def MemSys.reduceNear (mm : MemSys) (core : Nat) (agent : Agent) (wld pa : Nat) (p : AtomOp) (v : Nat) : MemSys :=
  let (mm, x) := mm.updateOnly core agent wld (pa / 128) p
  let e := match Store.get? x.parts (pa % 128) with
    | none => p.first v
    | some q => p.new q v 0
  { mm with partials := insertPartial mm.partials { x with parts := Store.set x.parts (pa % 128) e } }

/-- An element that a lane's access updates: its canonical PA and memory type, the values of v and c, its operation, its agent's slot and
whether its request is lost. -/
structure AtomElem where
  pa : Nat
  mt : Nat
  v : Nat
  c : Nat
  op : AtomOp
  unit : Nat
  lost : Bool
  /-- It lies in record space (R317). -/
  rec_ : Bool := false

/-- Whether an element lies in HBM under memory type 0, where a reduction is near and a returning atomic goes by the predictor (R216). -/
def AtomElem.inL1 (e : AtomElem) : Bool := e.mt == 0 && e.pa < hbmEnd

/-- One element updated, returning the old value (R213); a lost one is not. Old code versions are kept once the instruction has updated
every element. -/
def State.atomicElem (s : State) (g : Group) (e : AtomElem) : State × Nat :=
  let n := e.op.ty.elemBytes
  if e.lost then (s, 0)
  else
    let s := s.dropLines e.pa n
    if e.op.opcode ≥ 0x99 && e.inL1 then ({ s with mm := s.mm.reduceNear g.core (s.agent e.unit) g.world e.pa e.op e.v }, 0)
    else
      let s := s.touch e.pa n
      let old := s.mm.num e.pa n
      ({ s with mm := s.mm.setBytes e.pa (leBytes (e.op.new old e.v e.c) n) }, old)

/-- The elements of a lane's access: canonical PA and memory type, and the values of v and c for it. -/
def AtomOp.elems (p : AtomOp) (parts : List (Nat × Nat)) (mts : List Nat) (v c : Nat) : List (Nat × Nat × Nat × Nat) :=
  let w := 8 * p.ty.elemBytes
  match parts, mts with
  | [(pa, n)], [mt] =>
    if p.ty.isPacked && n == 4 then [(pa, mt, v % 2 ^ 16, c % 2 ^ 16), (pa + 2, mt, v / 2 ^ 16 % 2 ^ 16, c / 2 ^ 16 % 2 ^ 16)]
    else [(pa, mt, v % 2 ^ w, c % 2 ^ w)]
  | [(pa, _), (pb, _)], [ma, mb] => [(pa, ma, v % 2 ^ 16, c % 2 ^ 16), (pb, mb, v / 2 ^ 16 % 2 ^ 16, c / 2 ^ 16 % 2 ^ 16)]
  | _, _ => []

/-- Whether the host window supports an operation (R216). -/
def hostAtomic (opcode : Nat) (t : EType) : Bool :=
  (opcode == 0x90 || opcode == 0x97 || opcode == 0x98 || opcode == 0x99) && t.isInt

/-- What the lanes of an atomic come to before it is performed: what those of a load do, and for each lane its elements. -/
structure Updates extends Loaded where
  elems : List (Nat × EType × List AtomElem) := []

/-- One lane of an atomic or reduction translated, for the lanes of a list that share the access (R213, R216). -/
def Updates.lane (r : Updates) (o : Ops) (opcode dest : Nat) (l : Nat) (ls : List Nat) : Updates :=
  let g := o.orig.g
  let m := o.modeOf l
  let p : AtomOp := { opcode := opcode, ty := modeEtype m, rnd := m }
  let va := o.a.at l
  let trapped (s : State) (cause status : Nat) (fault : Word) : Updates :=
    { r with s := s, recs := r.recs ++ ls.map fun k => s.laneRec k cause dest status fault (o.a.at k) (o.b.at k) (o.c.at k) 0 }
  match r.s.resolve g l va p.ty.bytes p.ty.elemBytes .atomic false with
  | (s, .trap cause status fault) => trapped s cause status fault
  | (s, .ok parts mts held) =>
    if parts.any (fun e => hostBase ≤ e.1 && e.1 < peerBase) && !hostAtomic opcode p.ty then trapped s 0x05 (faultStatus 1 0 .atomic) va
    else
      let lost := parts.any fun e => s.reach e.1 == .lost
      let unit := s.laneUnit g l
      let es := (p.elems parts mts (o.b.at l).toNat (o.c.at l).toNat).map fun e =>
        ({ pa := e.1, mt := e.2.1, v := e.2.2.1, c := e.2.2.2, op := p, unit := unit, lost := lost, rec_ := inRecords va } : AtomElem)
      let peer : Bool := !lost && parts.any fun e => peerBase ≤ e.1
      let act (k : Nat) : Option PeerAct :=
        if !peer then none
        else if k ≠ l then some .shared
        else some (.update (s.agent unit) (modeEtypeCode m) (es.map fun e =>
          { pa := e.pa, size := p.ty.elemBytes, opcode := opcode, etype := modeEtypeCode m, mode := m, v := e.v, c := e.c }))
      { s := s, lanes := r.lanes ++ ls.map fun k => { s.flightLane o parts va k with act := act k }, recs := r.recs
        parts := r.parts ++ sentParts va parts, held := r.held ++ held, elems := r.elems ++ (if peer then [] else [(l, p.ty, es)]) }

/-- The lanes of an atomic or reduction translated. -/
def Ops.atomicLanes (o : Ops) (opcode dest : Nat) (single : Bool) (t : State) : Updates :=
  let ls := LaneMask.lanes o.act
  let r : Updates := { s := t }
  if single then r.lane o opcode dest (LaneMask.lowest o.act) ls else ls.foldl (fun r l => r.lane o opcode dest l [l]) r

/-- Clk from issue to data of a far access of a core to an HBM line, a miss at the home slice (R219; log 9). -/
def farLatency (core pa : Nat) : Nat := if homeSlice pa / 48 = dieOf core then 460 else 640

/-- Clk from issue to the data of one element (R219, R356): by the predictor near, where the line is owned or its ownership is fetched, or
far; a reduction enters its partial. -/
def State.atomicDelay (s : State) (g : Group) (e : AtomElem) : Nat :=
  let p := s.predictor g.core (e.pa / 128) g.world
  if e.rec_ then 24
  else if e.pa ≥ hbmEnd then latency g.core e.pa
  else if !e.inL1 then farLatency g.core e.pa
  else if e.op.opcode ≥ 0x99 then 4
  else if p.state = .far then farLatency g.core e.pa
  else if s.mm.owners.contains (g.core, e.pa / 128, g.world) then 30 else farLatency g.core e.pa + 10

/-- Clk that a combine adds to the update of an element (R219): none for a near reduction into its own core's copy, or beside copies of
other cores only. -/
def State.combineDelay (s : State) (g : Group) (e : AtomElem) : Nat :=
  let near : Bool := e.op.opcode ≥ 0x99 && e.inL1
  let mine := s.mm.partials.filter fun x => x.line == e.pa / 128 && x.core == g.core
  let same (x : Partial) : Bool := x.opcode == e.op.opcode && x.etype == modeEtypeCode e.op.rnd && x.rnd == bitsOf e.op.rnd.toNat 12 10 &&
    x.ftz == modeFtz e.op.rnd && x.agent.part == g.part && x.world == g.world
  if near && (mine.isEmpty || mine.any same) then 0 else s.combineClk g.core (e.pa / 128)

/-- The elements of the lanes updated in ascending lane order, with the old values that each lane returns. -/
def State.updateLane (s : State) (g : Group) (es : List AtomElem) : State × List Nat :=
  es.foldl (fun (q : State × List Nat) e =>
    let (s, old) := (q.1.spendToken g.part e.pa).atomicElem g e
    (s, q.2 ++ [old])) (s, [])

/-- Every lane's elements, performed as one step of each line (R213): the values that the lanes return, the predictor's transitions, and
the clk until the last of them is done. -/
def Updates.perform (r : Updates) (g : Group) : State × List (Nat × Word) × Nat :=
  let es := r.elems.flatMap (·.2.2)
  let far := (r.parts.filter fun e => hostBase ≤ e.1).map fun e => latency g.core e.1
  let delay := (far ++ es.map fun e => r.s.atomicDelay g e + r.s.combineDelay g e).foldl max 4
  let ws := (es.filter fun e => !e.lost).map fun e => ({ unit := e.unit, pa := e.pa, bytes := List.replicate e.op.ty.elemBytes 0 } : Write)
  let before := (es.filter fun e => !e.lost && !(e.op.opcode ≥ 0x99 && e.inL1)).foldl (fun (s : State) e => s.touch e.pa e.op.ty.elemBytes) r.s
  let (s, vs) := r.elems.foldl (fun (q : State × List (Nat × Word)) x =>
    let (s, olds) := q.1.updateLane g x.2.2
    (s, q.2 ++ [(x.1, x.2.1.image (olds.headD 0 + 2 ^ 16 * olds.getD 1 0))])) (before, [])
  let s := (s.keepCode before.mm ws).othersAccess g.core r.parts
  let lines := ((es.filter fun e => e.op.opcode < 0x99 && e.inL1).map fun e => e.pa / 128).eraseDups
  (lines.foldl (fun s line => s.predict g.core line g.world) s, vs, delay)

/-- ETYPE sets of R212. -/
def atomInt (t : EType) : Bool := t == .u32 || t == .i32 || t == .u64 || t == .i64
def atomWord (t : EType) : Bool := atomInt t || t == .fp32 || t == .fp64
def atomFloat (t : EType) : Bool := t.isFlt || t.isPacked

/-- The entry of a returning atomic; field D of ACAS is a source also (R212, R213). -/
def atomicInfo (i : Instr) (opcode : Nat) (d a b : Opnd) (ok : EType → Bool) (s : State) : Info :=
  { opcode := opcode, a := some { op := a, lit := .ty .i64 }, b := some { op := b }
    c := if opcode = 0x98 then some { op := d } else none, dst := some d, long := true
    legal := i.wf && s.etypesOk ok, idle := true }

/-- The entry of a reduction (R213). -/
def reduceInfo (i : Instr) (opcode : Nat) (a b : Opnd) (ok : EType → Bool) (s : State) : Info :=
  { opcode := opcode, a := some { op := a, lit := .ty .i64 }, b := some { op := b }, legal := i.wf && s.etypesOk ok, idle := true }

/-- A returning atomic (R213). -/
def atomicOp (i : Instr) (opcode : Nat) (d a b : Opnd) (ok : EType → Bool) (s : State) : Res :=
  run (atomicInfo i opcode d a b ok s) s fun o t =>
    if o.act = 0 then t.done o
    else
      match o.requestStall? (namedLines (o.namedBy d.isS (o.a.at ·) o.width)) with
      | some u => u
      | none =>
        let r := o.atomicLanes opcode d.code d.isS t
        let (t, vs, delay) := r.perform o.orig.g
        let valueOf (k : Nat) : Word := (((vs.find? fun v => v.1 == k || d.isS).map (·.2))).getD 0
        let lanes := r.lanes.map fun x => { x with value := valueOf x.lane }
        let t := t.spend (o.lineExtra (linesOf r.parts).length)
        let t := if d.reg?.isSome then t.fly o d true { r.toLoaded with lanes := lanes } delay
          else if r.lanes.isEmpty then t else t.addUnperformed o .atomic r.parts r.lanes r.held delay
        (t.done o).detach o r.recs

/-- A reduction (R213, R217): nothing is returned, and a lost one is reported by the next release (R358). -/
def reduceOp (i : Instr) (opcode : Nat) (a b : Opnd) (ok : EType → Bool) (s : State) : Res :=
  run (reduceInfo i opcode a b ok s) s fun o t =>
    if o.act = 0 then t.done o
    else
      match o.requestStall? (namedLines (o.namedBy false (o.a.at ·) o.width)) with
      | some u => u
      | none =>
        let r := o.atomicLanes opcode 0x0C false t
        let (t, _, delay) := r.perform o.orig.g
        let t := t.spend (o.lineExtra (linesOf r.parts).length)
        let t := if r.lanes.isEmpty then t else t.addUnperformed o .atomic r.parts r.lanes r.held delay
        let t := if r.lanes.any (·.lost) then t.modG fun g => { g with linkLost := true } else t
        (t.done o).detach o r.recs

/-- AADD (R212). -/
def execAadd (d a b : Opnd) (s : State) : Res := atomicOp (.aadd d a b) 0x90 d a b atomInt s
/-- AFADD (R214). -/
def execAfadd (d a b : Opnd) (s : State) : Res := atomicOp (.afadd d a b) 0x91 d a b atomFloat s
/-- AMIN (R214). -/
def execAmin (d a b : Opnd) (s : State) : Res := atomicOp (.amin d a b) 0x92 d a b atomWord s
/-- AMAX (R214). -/
def execAmax (d a b : Opnd) (s : State) : Res := atomicOp (.amax d a b) 0x93 d a b atomWord s
/-- AAND (R212). -/
def execAand (d a b : Opnd) (s : State) : Res := atomicOp (.aand d a b) 0x94 d a b atomInt s
/-- AOR (R212). -/
def execAor (d a b : Opnd) (s : State) : Res := atomicOp (.aor d a b) 0x95 d a b atomInt s
/-- AXOR (R212). -/
def execAxor (d a b : Opnd) (s : State) : Res := atomicOp (.axor d a b) 0x96 d a b atomInt s
/-- AXCH (R212). -/
def execAxch (d a b : Opnd) (s : State) : Res := atomicOp (.axch d a b) 0x97 d a b atomWord s
/-- ACAS (R212): field D is the compare value. -/
def execAcas (d a b : Opnd) (s : State) : Res := atomicOp (.acas d a b) 0x98 d a b atomWord s
/-- REDADD (R212). -/
def execRedadd (a b : Opnd) (s : State) : Res := reduceOp (.redadd a b) 0x99 a b atomInt s
/-- REDFADD (R214). -/
def execRedfadd (a b : Opnd) (s : State) : Res := reduceOp (.redfadd a b) 0x9A a b atomFloat s
/-- REDMIN (R214). -/
def execRedmin (a b : Opnd) (s : State) : Res := reduceOp (.redmin a b) 0x9B a b atomWord s
/-- REDMAX (R214). -/
def execRedmax (a b : Opnd) (s : State) : Res := reduceOp (.redmax a b) 0x9C a b atomWord s

end Sys2Proof.Machine
end

