-- ==== Sys2Proof/Machine/Barrier.lean ====
section
/-!
DEFINITION. Barrier.lean: the barriers of the four levels (R201 to R211).
-/
namespace Sys2Proof.Machine

/-- A barrier of a group's level changed. -/
def State.setBarrier (s : State) (g : Group) (l : BarLevel) (n : Nat) (b : Barrier) : State :=
  match l with
  | .group => s.modGrp g.unit fun g => { g with bars := Store.set g.bars n b }
  | .block => { s with blocks := s.blocks.map fun x =>
      if x.kernel = g.kernel ∧ x.bid = g.bid then { x with bars := Store.set x.bars n b } else x }
  | .cluster => s.modKernel g.kernel fun k =>
      { k with clusterBars := Store.set k.clusterBars g.cid (Store.set (Store.getOr k.clusterBars g.cid []) n b) }
  | .grid => s.modKernel g.kernel fun k => { k with gridBars := Store.set k.gridBars n b }

/-- The set bits of a mask below a width. -/
def popcount (m width : Nat) : Nat := ((List.range width).filter fun i => m.testBit i).length

/-- The member total of a barrier, 0 if it has no members (R202). -/
def Kernel.members (k : Kernel) (l : BarLevel) (n : Nat) : Nat :=
  let count (m width all : Nat) : Nat := if m = 0 then all else popcount m width
  match l with
  | .group => count (k.groupMasks.getD n 0) 8 8
  | .block => count (k.blockMasks.getD n 0) 32 k.gpb
  | .cluster => count (k.clusterMasks.getD n 0) 16 k.bpc * k.gpb
  | .grid => if k.gridEnable.testBit n then k.bx * k.by_ * k.bz * k.gpb else 0

/-- Whether a group, or a slice at the group level, is a member (R202). -/
def Kernel.isMember (k : Kernel) (l : BarLevel) (n : Nat) (g : Group) (slice : Nat) : Bool :=
  let has (m i : Nat) : Bool := m = 0 || m.testBit i
  match l with
  | .group => has (k.groupMasks.getD n 0) slice
  | .block => has (k.blockMasks.getD n 0) (g.gid % k.gpb)
  | .cluster => has (k.clusterMasks.getD n 0) (g.bid % k.bpc)
  | .grid => k.gridEnable.testBit n

/-- The slices that a path contributes (R203): those with an undetached run lane. -/
def Group.contributes (g : Group) (p : Nat) : List Slice := (g.pathSlices p).filter fun x => x.run != 0

/-- The phases of the arrivals that a path holds at a barrier (R203). -/
def Group.arrivalFlags (g : Group) (p : Nat) (l : BarLevel) (n : Nat) : List Nat :=
  match l with
  | .group => (g.contributes p).filterMap fun x => Store.get? x.flags n
  | _ => (Store.get? g.flags (16 * l.code + n)).toList

/-- The arrival flags that a path holds at a barrier mapped; none clears them. -/
def Group.setFlags (g : Group) (p : Nat) (l : BarLevel) (n : Nat) (f : Option Nat → Option Nat) : Group :=
  let upd (m : Store Nat) (k : Nat) : Store Nat :=
    match f (Store.get? m k) with
    | some v => Store.set m k v
    | none => Store.del m k
  match l with
  | .group => g.modPathSlices p fun x => if x.run = 0 then x else { x with flags := upd x.flags n }
  | _ => { g with flags := upd g.flags (16 * l.code + n) }

/-- A flag of a phase cleared. -/
def clearFlag (phase : Nat) (f : Option Nat) : Option Nat := if f = some phase then none else f

/-- The arrival weight (R201). -/
def Group.weight (g : Group) (p : Nat) (l : BarLevel) : Nat :=
  match l with
  | .group => (g.contributes p).length
  | _ => 1

/-- The effect of an arrival at a clk on a barrier, or BARCOUNT (R201, R204). -/
def Barrier.arrive (b : Barrier) (total named weight now : Nat) : Option Barrier :=
  let n := if named = 0 then total else named
  let fixed := if b.count = 0 then n else b.count
  if n > total ∨ n ≠ fixed ∨ b.arrived + weight > fixed then none
  else if b.arrived + weight = fixed then
    some { phase := (b.phase + 1) % 2 ^ 32, dones := (b.phase, now) :: b.dones.filter fun d => now < d.2 + BarLevel.grid.release }
  else some { b with count := fixed, arrived := b.arrived + weight }

/-- A member that has completed a phase issues again once the release reaches it (R211). -/
def State.afterRelease (s : State) (l : BarLevel) (from_ : Nat) : State :=
  s.modP fun q => { q with issueFrom := max q.issueFrom (from_ + l.release) }

/-- The completion of a wait for a phase (R205). -/
def Ops.phaseDone (o : Ops) (t : State) (l : BarLevel) (n phase : Nat) : State :=
  (t.modG fun g => g.setFlags t.cur.path l n (clearFlag phase)).done o

/-- The entry of BAR, which waits, and of BARA (R203). -/
def barInfo (i : Instr) (opcode : Nat) (a : Opnd) (waits : Bool) : Info :=
  { opcode := opcode, a := some { op := a, lit := .u32 }, blocking := waits, legal := i.wf }

/-- BAR and BARA (R203, R205 to R207). -/
def barOp (i : Instr) (opcode : Nat) (a : Opnd) (l n : Nat) (waits : Bool) (s : State) : Res :=
  run (barInfo i opcode a waits) s fun o t =>
    let lv := BarLevel.ofCode l
    let g := o.orig.g
    let p := s.cur.path
    let b := o.orig.barrier g lv n
    let await (s : State) : State := s.modP fun q =>
      { q with answer := none
               wait := some { why := .phase lv n b.phase, keep := o.orig.keep, a := some o.a, stage := 2, arg := b.phase, since := o.since } }
    if o.stage = 2 then o.phaseDone t lv n o.arg
    else
      match o.orig.kernel? g.kernel with
      | none => o.trap 0x10
      | some k =>
        if !(g.contributes p).all (fun x => k.isMember lv n g x.idx) then o.trap 0x10
        else if (g.arrivalFlags p lv n).contains b.phase then
          o.waitFrom true (.phase lv n b.phase) (if waits then 2 else 1) b.phase
        else if !o.orig.performed g p then o.report (o.waitAt .performed 1 0)
        else
          match b.arrive (k.members lv n) (o.a.at 0).toNat (g.weight p lv) o.orig.cyc with
          | none => o.trap 0x0F
          | some b' =>
            let arrived (s : State) : State :=
              (s.setBarrier g lv n b').modG fun g => g.setFlags p lv n fun _ => some b.phase
            if !waits then o.report ((arrived t).done o)
            else if b'.phase ≠ b.phase then
              o.report ((o.phaseDone (arrived t) lv n b.phase).afterRelease lv o.orig.cyc)
            else o.report (await (arrived o.orig))

/-- BAR (R205). -/
def execBar (a : Opnd) (l : Fin 4) (n : Fin 16) (s : State) : Res := barOp (.bar a l n) 0xB0 a l.val n.val true s
/-- BARA (R205, R207). -/
def execBara (a : Opnd) (l : Fin 4) (n : Fin 16) (s : State) : Res := barOp (.bara a l n) 0xB1 a l.val n.val false s

/-- The entry of BARW: its operands, marks and conditions. -/
def infoBarw (l : Fin 4) (n : Fin 16) : Info :=
  { opcode := 0xB2, blocking := true, legal := (Instr.barw l n).wf }

/-- BARW (R205): without a flag it completes at once; one that waits does so for the phase that it found flagged, and clears the flags of
that phase. -/
def execBarw (l : Fin 4) (n : Fin 16) (s : State) : Res :=
  run (infoBarw l n) s fun o t =>
    let lv := BarLevel.ofCode l.val
    let g := o.orig.g
    let b := o.orig.barrier g lv n.val
    if o.stage = 1 then o.phaseDone t lv n.val o.arg
    else if (g.arrivalFlags s.cur.path lv n.val).contains b.phase then o.waitAt (.phase lv n.val b.phase) 1 b.phase
    else (t.modG fun g => g.setFlags s.cur.path lv n.val fun _ => none).done o

/-- The status word of a barrier (R208). -/
def barStatus (b : Barrier) (own : Bool) : Word :=
  word ((if b.count ≠ 0 then 2 ^ 49 else 0) + own.toNat * 2 ^ 48 + b.phase % 65536 * 2 ^ 32 + b.arrived)

/-- The entry of BARQ: its operands, marks and conditions. -/
def infoBarq (d : Opnd) (l : Fin 4) (n : Fin 16) : Info :=
  { opcode := 0xB3, dst := some d, legal := (Instr.barq d l n).wf }

/-- BARQ (R208). -/
def execBarq (d : Opnd) (l : Fin 4) (n : Fin 16) (s : State) : Res :=
  run (infoBarq d l n) s fun o t =>
    let lv := BarLevel.ofCode l.val
    let g := o.orig.g
    let b := o.orig.barrier g lv n.val
    let own := match lv with
      | .group => ((g.pathSlices s.cur.path).head?.bind fun x => Store.get? x.flags n.val) == some b.phase
      | _ => (g.arrivalFlags s.cur.path lv n.val).contains b.phase
    t.finish o d (Lanes.uniform (barStatus b own)) o.act

end Sys2Proof.Machine
end

