-- ==== Sys2Proof/Machine/Engine.lean ====
section
/-!
DEFINITION. Engine.lean: asynchronous operations, their acceptance, counters, handles and completion, and the copy and gather
engines (R184 to R200, R359).
-/
namespace Sys2Proof.Machine

/-! ### Engine addresses (R185) -/

/-- Bytes split at page boundaries. -/
def chunks (x : Word) (n : Nat) : List (Word × Nat) :=
  let first := min n (4096 - x.toNat % 4096)
  let count := (n - first + 4095) / 4096
  (if first = 0 then [] else [(x, first)]) ++
  (List.range count).map fun i => (x + word (first + 4096 * i), min 4096 (n - first - 4096 * i))

/-- The group of an operation. -/
def State.opGroup (s : State) (op : EngineOp) : Group := s.grp op.unit

/-- Where a chunk of an engine address lies: scratchpad, or a PA; or a status of R187 for a side. -/
inductive EngAt where
  | scratch (o : Nat)
  | pa (a : Nat)
  | bad (status : Nat)
  deriving DecidableEq, Repr

/-- FAULT of a side with the low bits of R187. -/
def faultWord (side low : Nat) : Nat := 0x40 + 16 * side + low

/-- The state with an operation changed. -/
def State.modOp (s : State) (token : Nat) (f : EngineOp → EngineOp) : State :=
  { s with ops := s.ops.map fun x => if x.token = token then f x else x }

/-- An operation holds a translation that it has made on a side, until its next step or its end (R101; log 37). -/
def State.holdOp (s : State) (op : EngineOp) (side : Nat) (h : Held) : State :=
  s.modOp op.token fun x => { x with held := x.held ++ [(side, h)] }

/-- A unit's request sent by a port. -/
def State.flyUnit (s : State) (op : EngineOp) (p : Nat) : State :=
  s.modOp op.token fun x => { x with flying := x.flying ++ [(op.done, p, s.cyc + latency op.core peerBase)] }

/-- The status of an access that must wait for a scratchpad bank that is being zeroed, which no operation ends with (R84). -/
def bankWait : Nat := 0

/-- A chunk resolved (R185); a lost request is PARTIAL, and one that fails at the host or a peer a fault (R187, R356, R359). -/
def State.engAt (s : State) (op : EngineOp) (side : Nat) (x : Word) (n : Nat) (k : Access) : State × EngAt :=
  if x.toNat / 2 ^ 48 = 0xFFFE then
    let o := x.toNat % 2 ^ 48
    (s, if !s.scratchOk (s.opGroup op) o n then .bad (faultWord side 8)
      else if s.cyc < s.scratchBusy (s.opGroup op) o n then .bad bankWait else .scratch o)
  else
    match s.translate op.space x k with
    | (s, .fault kind st) => (s, .bad (faultWord side (4 * st + kind)))
    | (s, .ok pa ipa _ z) =>
      let s := s.holdOp op side (s.held op.space x.toNat ipa z)
      match s.windowFault? k pa with
      | (s, some kind) => (s, .bad (faultWord side kind))
      | (s, none) =>
        match s.reach pa with
        | .lost => (s, .bad 0x08)
        | .port p => (if op.cls ≤ 1 && side ≠ 3 then s.flyUnit op p else s, .pa pa)
        | .direct => (s, .pa pa)

/-- Every chunk of a range resolved, or the first status. -/
def State.engRange (s : State) (op : EngineOp) (side : Nat) (k : Access) (cs : List (Word × Nat)) : State × (List (EngAt × Nat) ⊕ Nat) :=
  match cs with
  | [] => (s, .inl [])
  | (x, n) :: r =>
    match s.engAt op side x n k with
    | (s, .bad st) => (s, .inr st)
    | (s, a) =>
      match s.engRange op side k r with
      | (s, .inl l) => (s, .inl ((a, n) :: l))
      | (s, .inr st) => (s, .inr st)

/-- Bytes of resolved chunks. -/
def State.engGet (s : State) (op : EngineOp) (l : List (EngAt × Nat)) : State × List Byte :=
  l.foldl (fun (r : State × List Byte) e =>
    match e.1 with
    | .scratch o => (r.1, r.2 ++ r.1.readScratch (r.1.opGroup op) o e.2)
    | .pa a => let (s, b) := r.1.readParts op.part [(a, e.2)]; (s.othersAccess op.core [(a, e.2)], r.2 ++ b)
    | .bad _ => r) (s, [])

/-- Bytes put into resolved chunks. -/
def State.engPut (s : State) (op : EngineOp) (l : List (EngAt × Nat)) (bs : List Byte) : State :=
  match l with
  | [] => s
  | (.scratch o, n) :: r => (s.writeScratch (s.opGroup op) o (bs.take n)).engPut op r (bs.drop n)
  | (.pa a, n) :: r => ((s.writeParts op.unit op.part [(a, n)] (bs.take n)).othersAccess op.core [(a, n)]).engPut op r (bs.drop n)
  | (.bad _, n) :: r => s.engPut op r (bs.drop n)

/-- n bytes read at an engine address, or the status. -/
def State.engRead (s : State) (op : EngineOp) (side : Nat) (x : Word) (n : Nat) : State × (List Byte ⊕ Nat) :=
  match s.engRange op side .read (chunks x n) with
  | (s, .inl l) => let (s, b) := s.engGet op l; (s, .inl b)
  | (s, .inr st) => (s, .inr st)

/-- Bytes written at an engine address, all or none, or the status. -/
def State.engWrite (s : State) (op : EngineOp) (side : Nat) (x : Word) (bs : List Byte) : State × Option Nat :=
  match s.engRange op side .write (chunks x bs.length) with
  | (s, .inl l) => (s.engPut op l bs, none)
  | (s, .inr st) => (s, some st)

/-! ### Acceptance (R189) -/

/-- The operations of one class of a group that have not completed, oldest first. -/
def State.classOps (s : State) (serial cls : Nat) : List EngineOp := s.ops.filter fun x => x.serial == serial && x.cls == cls

/-- The operation of a queue that its engine works on: the oldest that has not done its work (R199, R229). -/
def State.headOp (s : State) (op : EngineOp) : Option EngineOp := s.ops.find? fun x => x.sameQueue op && x.status == 0

/-- An operation's turn begins when every older one of its queue has done its work. -/
def State.startNext (s : State) (op : EngineOp) : State :=
  match s.headOp op with
  | some x => s.schedule 1 (.macroStep x.token)
  | none => s

/-- Format slots of the kernel that a group-wide operation reads (R63, R321). -/
def State.wideSlots (s : State) (g : Group) (act : LaneMask) : List Nat :=
  let k := match s.recOf? g (LaneMask.lowest act) with
    | some r => r.kernel
    | none => g.kernel
  ((s.kernel? k).map (·.fslots)).getD []

/-- An operation accepted in a class: its sequence number, its counter and its handle (R184, R189). -/
def Ops.accept (o : Ops) (t : State) (cls opcode : Nat) (d : Opnd) (args : List Word) (bytes : Nat := 0) (promise : Word := 0) : State :=
  let g := o.orig.g
  if Store.getOr g.cnt cls 0 ≥ 64 || o.orig.engineFull g cls then o.stallAt (.engineRoom cls)
  else
    let tok := t.stamp
    let seq := Store.getOr g.seq cls 0
    let op : EngineOp :=
      { token := tok, unit := g.unit, serial := g.serial, core := g.core, gid := g.gid, cls := cls, seq := seq, opcode := opcode
        dst := d.reg?, space := o.orig.wideSpace g o.act, kernel := g.kernel, part := g.part, world := g.world, args := args
        bytes := bytes, promise := promise, mode := o.um, fslots := o.orig.wideSlots g o.act
        shapes := [0, 1, 2, 3, 4, 5, 6, 7].map fun n => Store.getOr g.shapes n 0
        by_ := o.live
        sections := ((g.pathSlices t.cur.path).filter fun x => x.depth != 0).map (·.idx) }
    let first := (t.headOp op).isNone
    let t := { t with ops := t.ops ++ [op] }.tick
    let t := t.modG fun g =>
      let g := { g with cnt := Store.set g.cnt cls (Store.getOr g.cnt cls 0 + 1), seq := Store.set g.seq cls ((seq + 1) % 2 ^ 16) }
      match d.reg? with
      | some r => g.setRegState r (.pending tok)
      | none => g
    let t := if first then t.scheduleAt (o.orig.cyc + 8) (.macroStep tok) else t
    (if cls = 0 then t.scheduleAt (promise.toNat + 256) (.late tok) else t).done o

/-! ### Completion (R186, R193, R194) -/

/-- A completion word (R186). -/
def EngineOp.word (op : EngineOp) : Word :=
  Sys2Proof.word (op.done * 2 ^ 32 + op.seq * 2 ^ 16 + op.cls * 2 ^ 13 + op.status)

/-- A reference word (R186). -/
def EngineOp.ref (op : EngineOp) : Word := Sys2Proof.word (op.gid % 2 ^ 32 * 2 ^ 32 + op.seq * 2 ^ 16 + op.cls * 2 ^ 13)

/-- Versions of which some are dropped, and with each those of the same line that are older (R299). -/
def dropThrough (hit : OldVersion → Bool) (vs : List OldVersion) : List OldVersion :=
  match vs with
  | [] => []
  | v :: r => if hit v || r.any (fun w => w.pa == v.pa && hit w) then dropThrough hit r else v :: dropThrough hit r

/-- A later table operation of a path has been served, or its PROBE has completed: the steps that the path made before it are ordered before
what follows, and nobody reads what they superseded any more (R299, R376; log 8). -/
def State.dropOrdered (s : State) (serial : Nat) (by_ : LaneMask) (before : Nat) : State :=
  { s with oldBuckets := dropThrough (fun v => v.serial == serial && v.by_ &&& by_ != 0 && v.stamp < before) s.oldBuckets }

/-- An operation's work ends with a status; it completes in its class's order. -/
def State.endOp (s : State) (token status : Nat) : State :=
  let s := s.modOp token fun x => { x with status := status, held := [] }
  match s.ops.find? fun x => x.token == token with
  | some x => (s.schedule 0 (.engineOpComplete token)).startNext x
  | none => s

/-- ENGINE_OP_COMPLETE (R194): completion word, FULL and counter in one step, in issue order within the group and class. -/
def execEngineOpComplete (token : Nat) (s : State) : Res :=
  match s.ops.find? fun x => x.token == token with
  | none => .next s
  | some op =>
    if op.status = 0 || ((s.classOps op.serial op.cls).head?.map (·.token)) != some token then .next s
    else
      let s := { s with ops := s.ops.filter fun x => x.token != token }
      let s := if op.opcode = 0xD2 then s.dropOrdered op.serial op.by_ op.token else s
      let s :=
        if (s.grp op.unit).serial ≠ op.serial then s
        else
          s.modGrp op.unit fun g =>
            let g := { g with cnt := Store.set g.cnt op.cls (Store.getOr g.cnt op.cls 0 - 1), late := g.late.filter (· != token)
                              mxFlags := if [0xC9, 0xCA, 0xD6].contains op.opcode then g.mxFlags ||| op.work.getD 0 0 else g.mxFlags }
            match op.dst with
            | some r => if g.regState r = .pending token then g.writeReg r (Lanes.uniform op.word) (~~~0) else g
            | none => g
      let s := match (s.classOps op.serial op.cls).head? with
        | some x => if x.status = 0 then s else s.schedule 0 (.engineOpComplete x.token)
        | none => s
      .next (s.reap op.unit)

/-! ### Copy operations (R190, R191) -/

/-- Units past the first in flight that an engine may have started (R200). -/
def unitsInFlight : Nat := 2048

/-- Fields of a copy descriptor (R191). -/
structure CopyDesc where
  row : Nat
  src : Word
  dst : Word
  rows : Nat
  planes : Nat
  start : Nat
  srs : Word
  sps : Word
  drs : Word
  dps : Word

/-- A copy descriptor, if its fields are in range. -/
def copyDesc? (b : List Byte) : Option CopyDesc :=
  let d : CopyDesc :=
    { row := fieldOf b 4 4, src := word (fieldOf b 8 8), dst := word (fieldOf b 0x10 8), rows := fieldOf b 0x18 2
      planes := fieldOf b 0x1A 2, start := fieldOf b 0x1C 4, srs := word (fieldOf b 0x20 8), sps := word (fieldOf b 0x28 8)
      drs := word (fieldOf b 0x30 8), dps := word (fieldOf b 0x38 8) }
  if fieldOf b 0 1 = 1 ∧ fieldOf b 1 3 = 0 ∧ 1 ≤ d.row ∧ d.row ≤ 1048576 ∧ 1 ≤ d.rows ∧ 1 ≤ d.planes ∧ d.rows * d.planes ≤ 16777215 ∧
      d.start < d.rows * d.planes then some d else none

/-- What one step of an operation comes to: more to do from a unit on, some clk later; a wait for what it needs; or an end with the first
unit not done and a status. -/
inductive UnitRes where
  | more (done after : Nat)
  | wait
  | fin (done status : Nat)
  deriving DecidableEq, Repr

/-- Some bytes of a CPY from a byte on, all or none: how many are then done, or the status (R190). -/
def State.cpyBytes (s : State) (op : EngineOp) (src dst : Word) (k : Nat) : State × (Nat ⊕ Nat) :=
  match s.engRead op 0 src k with
  | (s, .inr st) => (s, .inr st)
  | (s, .inl b) =>
    match s.engWrite op 1 dst b with
    | (s, some st) => (s, .inr st)
    | (s, none) => (s, .inl (op.done + k))

/-- Up to 128 bytes of a CPY from a byte on, within one page of either side; where they cannot all be moved, those before the next
scratchpad bank of a side, since the bytes below the first failing one are done (R190, R193). -/
def State.cpyUnit (s : State) (op : EngineOp) : State × UnitRes :=
  let n := (op.args.getD 2 0).toNat
  let src := op.args.getD 0 0 + word op.done
  let dst := op.args.getD 1 0 + word op.done
  if n > 16777215 then (s, .fin 0 0x04)
  else if op.done ≥ n then (s, .fin n 0x01)
  else
    let k := min (min 128 (n - op.done)) (min (4096 - src.toNat % 4096) (4096 - dst.toNat % 4096))
    let j := min k (min (128 - src.toNat % 128) (128 - dst.toNat % 128))
    let out (r : State × (Nat ⊕ Nat)) : State × UnitRes :=
      match r with
      | (s, .inl m) => (s, if m ≥ n then .fin n 0x01 else .more m 1)
      | (s, .inr st) => (s, .fin op.done st)
    match s.cpyBytes op src dst k with
    | (s, .inr st) => if j < k then out (s.cpyBytes op src dst j) else (s, .fin op.done st)
    | r => out r

/-- The next row of a CPY2 (R191), at 128 bytes per clk (R200). -/
def State.cpy2Unit (s : State) (op : EngineOp) (d : CopyDesc) : State × UnitRes :=
  let r := op.done
  let y := word (r % d.rows)
  let z := word (r / d.rows)
  if r ≥ d.rows * d.planes then (s, .fin r 0x01)
  else
  match s.engRead op 0 (d.src + y * d.srs + z * d.sps) d.row with
  | (s, .inr st) => (s, .fin r st)
  | (s, .inl b) =>
    match s.engWrite op 1 (d.dst + y * d.drs + z * d.dps) b with
    | (s, some st) => (s, .fin r st)
    | (s, none) => (s, if r + 1 ≥ d.rows * d.planes then .fin (r + 1) 0x01 else .more (r + 1) ((d.row + 127) / 128))

/-! ### Gather operations (R192) -/

/-- Fields of an index descriptor (R192). -/
structure IndexDesc where
  ty : Nat
  size : Nat
  count : Nat
  table : Word
  index : Word
  dense : Word
  start : Nat
  bound : Nat

/-- An index descriptor, if its fields are in range. -/
def indexDesc? (b : List Byte) : Option IndexDesc :=
  let d : IndexDesc :=
    { ty := fieldOf b 1 1, size := 2 ^ min (fieldOf b 2 1) 10, count := fieldOf b 4 4, table := word (fieldOf b 8 8), index := word (fieldOf b 0x10 8)
      dense := word (fieldOf b 0x18 8), start := fieldOf b 0x20 4, bound := fieldOf b 0x28 8 }
  if fieldOf b 0 1 = 2 ∧ d.ty ≤ 3 ∧ fieldOf b 2 1 ≤ 9 ∧ fieldOf b 3 1 = 0 ∧ 1 ≤ d.count ∧ d.count ≤ 16777215 ∧ d.start < d.count ∧
      fieldOf b 0x24 4 = 0 ∧ fieldOf b 0x30 16 = 0 then some d else none

/-- Bytes of an index, and its value as its type. -/
def IndexDesc.indexBytes (d : IndexDesc) : Nat := if d.ty < 2 then 4 else 8
def IndexDesc.value (d : IndexDesc) (v : Nat) : Int := intOf v (8 * d.indexBytes) (d.ty % 2 == 1)

/-- The next element of a GTHR or SCTR (R192). -/
def State.gatherOne (s : State) (op : EngineOp) (d : IndexDesc) : State × UnitRes :=
  let i := op.done
  let next : UnitRes := if i + 1 ≥ d.count then .fin (i + 1) 0x01 else .more (i + 1) 1
  if i ≥ d.count then (s, .fin i 0x01)
  else
  match s.engRead op 2 (d.index + word (i * d.indexBytes)) d.indexBytes with
  | (s, .inr st) => (s, .fin i st)
  | (s, .inl b) =>
    let k := d.value (leNat b)
    let t := d.table + BitVec.ofInt 64 (k * d.size)
    let inb := d.bound = 0 || (0 ≤ k && k < d.bound)
    let dense := d.dense + word (i * d.size)
    let put (s : State) (x : Word) (b : List Byte) : State × UnitRes :=
      match s.engWrite op 1 x b with
      | (s, some st) => (s, .fin i st)
      | (s, none) => (s, next)
    if op.opcode = 0xA2 then
      if inb then
        match s.engRead op 0 t d.size with
        | (s, .inr st) => (s, .fin i st)
        | (s, .inl b) => put s dense b
      else put s dense (List.replicate d.size 0)
    else if inb then
      match s.engRead op 0 dense d.size with
      | (s, .inr st) => (s, .fin i st)
      | (s, .inl b) => put s t b
    else (s, next)

/-- Elements of a GTHR or SCTR, one after another, up to a number. -/
def State.gatherSome (s : State) (op : EngineOp) (d : IndexDesc) (n : Nat) : State × UnitRes :=
  match n with
  | 0 => (s, .more op.done 1)
  | n + 1 =>
    match s.gatherOne op d with
    | (s, .more i _) => s.gatherSome { op with done := i } d n
    | r => r

/-- The elements that a GTHR or SCTR starts in one clk (R200). -/
def State.gatherUnit (s : State) (op : EngineOp) (d : IndexDesc) : State × UnitRes := s.gatherSome op d 16

/-- The 512 bytes of a completion bitmap (R359). -/
def bitmapBytes (whole : Nat → Bool) : List Byte :=
  (List.range 512).map fun k => BitVec.ofNat 8 ((List.range 8).foldl (fun v j => if whole (8 * k + j) then v + 2 ^ j else v) 0)

/-- An operation that has lost a request ends at its first unit not done; a GTHR or SCTR writes the completion bitmap, and a fault on that is
its status (R359). -/
def State.cutShort (s : State) (op : EngineOp) (done : Nat) : State × UnitRes :=
  if op.opcode ≠ 0xA2 ∧ op.opcode ≠ 0xA3 then (s, .fin done 0x08)
  else
    let whole (i : Nat) : Bool := done + i < op.done && !op.lost.contains (done + i)
    match s.engWrite op 3 (op.args.getD 0 0 + 64) (bitmapBytes whole) with
    | (s, some st) => (s, if st = bankWait then .more op.done 8 else .fin done st)
    | (s, none) => (s, .fin done 0x08)

/-- A descriptor read by the engine: aligned on 64 bytes and readable, or the status. -/
def State.readDesc (s : State) (op : EngineOp) : State × (List Byte ⊕ Nat) :=
  let x := op.args.getD 0 0
  if x.toNat % 64 ≠ 0 then (s, .inr 0x04) else s.engRead op 3 x 64

/-- The start unit of a copy or index descriptor, if its fields are in range. -/
def EngineOp.start? (op : EngineOp) (b : List Byte) : Option Nat :=
  if op.opcode = 0xA1 then (copyDesc? b).map (·.start) else (indexDesc? b).map (·.start)

/-- The first unit not done of an operation that is stopped: of one whose descriptor has not been read, its start unit (R193). -/
def State.countOf (s : State) (op : EngineOp) : State × Nat :=
  if op.opcode = 0xA1 ∨ op.opcode = 0xA2 ∨ op.opcode = 0xA3 then
    match op.desc with
    | some _ => (s, op.done)
    | none =>
      match s.readDesc op with
      | (s, .inl b) => (s, (op.start? b).getD 0)
      | (s, .inr _) => (s, 0)
  else (s, op.done)

/-- The next units of a copy or gather operation, its descriptor first read. -/
def State.moveStep (s : State) (op : EngineOp) : State × UnitRes :=
  if op.opcode = 0xA0 then s.cpyUnit op
  else
    match op.desc with
    | none =>
      match s.readDesc op with
      | (s, .inr st) => (s, .fin 0 st)
      | (s, .inl b) =>
        match op.start? b with
        | none => (s, .fin 0 0x04)
        | some n => (s.modOp op.token fun x => { x with desc := some b }, .more n 8)
    | some b =>
      if op.opcode = 0xA1 then
        match copyDesc? b with
        | none => (s, .fin 0 0x04)
        | some d => s.cpy2Unit op d
      else
        match indexDesc? b with
        | none => (s, .fin 0 0x04)
        | some d => s.gatherUnit op d

/-- The next units of an operation, which is done only when its last answer has come. -/
def State.landed (s : State) (op : EngineOp) : State × UnitRes :=
  match s.moveStep op with
  | (s, .fin done 0x08) => s.cutShort { op with done := done } done
  | (s, .fin done 0x01) =>
    let last := ((s.ops.filter fun x => x.token == op.token).flatMap fun x => x.flying.map (·.2.2)).foldl max 0
    (s, if s.cyc < last then .more done (last - s.cyc) else .fin done 0x01)
  | r => r

/-- A copy or gather operation goes on: it ends with the loss of a request (R359), waits while as many units are in flight as may be (R200),
and ends when the last answer has come (R356). -/
def State.moveUnit (s : State) (op : EngineOp) : State × UnitRes :=
  let op := { op with flying := op.flying.filter fun e => s.cyc < e.2.2 }
  let s := s.modOp op.token fun x => { x with flying := op.flying }
  match op.lost, op.flying.head? with
  | u :: r, _ => s.cutShort op (r.foldl min u)
  | [], some (u, _, clk) => if u + unitsInFlight ≤ op.done then (s, .more op.done (clk - s.cyc)) else s.landed op
  | [], none => s.landed op

/-! ### Promises (R197) -/

/-- Bytes of an operation not yet moved. -/
def EngineOp.left (op : EngineOp) : Nat :=
  let per := match op.desc.bind copyDesc? with
    | some d => d.row
    | none => 1
  op.bytes - min op.bytes (op.done * per)

/-- Whether an engine address lies in the host or peer window. -/
def State.engInWindow (s : State) (sp : Space) (x : Word) (k : Access) : State × Bool :=
  if x.toNat / 2 ^ 48 = 0xFFFE then (s, false)
  else
    match s.translate sp x k with
    | (s, .ok pa _ _ _) => (s, inWindow pa)
    | (s, .fault _ _) => (s, false)

/-- The promise of a copy of n bytes accepted at a clk (R197). -/
def State.promise (s : State) (cyc core : Nat) (sp : Space) (src dst : Word) (n : Nat) : State × Word :=
  let (s, w1) := s.engInWindow sp src .read
  let (s, w2) := s.engInWindow sp dst .write
  let q := ((s.ops.filter fun x => x.core == core && x.cls == 0 && x.status == 0).map EngineOp.left).foldl (· + ·) 0
  (s, word (cyc + (if w1 || w2 then 2000 else 400) + (q + n + 127) / 128))

/-! ### The instructions -/

/-- The registers of a block from an even s register on. -/
def sBlock (a : Opnd) (n : Nat) : List RegCode :=
  match a with
  | .sreg k => (List.range n).map fun i => 0x10 + k.val + i
  | _ => []

/-- The entry of CPY: its operands, marks and conditions. -/
def infoCpy (d a b : Opnd) : Info :=
  { opcode := 0xA0, a := some { op := a }, b := some { op := b, lit := .u32 }, dst := some d, long := true, markA := false
    blockA := sBlock a 2, legal := (Instr.cpy d a b).wf }

/-- CPY (R188 to R190). -/
def execCpy (d a b : Opnd) (s : State) : Res :=
  run (infoCpy d a b) s fun o t =>
    if o.act = 0 then t.done o
    else
      let g := o.orig.g
      let pair := (sBlock a 2).map fun r => (g.regVal r).at 0
      let n := (o.b.at 0).toNat
      let (t, p) := t.promise o.orig.cyc g.core (o.orig.wideSpace g o.act) (pair.getD 0 0) (pair.getD 1 0) n
      o.accept t 0 0xA0 d (pair ++ [o.b.at 0]) n p

/-- The entry of CPY2: its operands, marks and conditions. -/
def infoCpy2 (d a b : Opnd) : Info :=
  { opcode := 0xA1, a := some { op := a, lit := .ty .i64 }, b := some { op := b, lit := .ty .i64 }, dst := some d, long := true
    legal := (Instr.cpy2 d a b).wf }

/-- CPY2 (R188, R191). -/
def execCpy2 (d a b : Opnd) (s : State) : Res :=
  run (infoCpy2 d a b) s fun o t =>
    if o.act = 0 then t.done o
    else
      let g := o.orig.g
      let x := o.a.at 0 + o.b.at 0
      let sp := o.orig.wideSpace g o.act
      let peek : EngineOp := { token := 0, unit := g.unit, serial := g.serial, core := g.core, gid := g.gid, cls := 0, seq := 0, opcode := 0xA1
                               space := sp, part := g.part, args := [x] }
      let (t, desc) := t.readDesc peek
      let cd := match desc with
        | .inl b => copyDesc? b
        | .inr _ => none
      let n := (cd.map fun c => c.row * c.rows * c.planes).getD 0
      let (t, p) := t.promise o.orig.cyc g.core sp ((cd.map (·.src)).getD 0) ((cd.map (·.dst)).getD 0) n
      o.accept t 0 0xA1 d [x] n p

/-- The entry of GTHR and SCTR. -/
def gatherInfo (i : Instr) (opcode : Nat) (d a b : Opnd) : Info :=
  { opcode := opcode, a := some { op := a, lit := .ty .i64 }, b := some { op := b, lit := .ty .i64 }, dst := some d, long := true
    legal := i.wf }

/-- GTHR and SCTR. -/
def gatherOp (i : Instr) (opcode : Nat) (d a b : Opnd) (s : State) : Res :=
  run (gatherInfo i opcode d a b) s fun o t =>
    if o.act = 0 then t.done o else o.accept t 1 opcode d [o.a.at 0 + o.b.at 0]

/-- GTHR (R188, R192). -/
def execGthr (d a b : Opnd) (s : State) : Res := gatherOp (.gthr d a b) 0xA2 d a b s
/-- SCTR (R188, R192). -/
def execSctr (d a b : Opnd) (s : State) : Res := gatherOp (.sctr d a b) 0xA3 d a b s

/-- The late operations of a group that block a WAITC copy with a limit (R198). -/
def State.lateBlocks (s : State) (g : Group) (limit : Nat) : List Nat :=
  let ops := (s.classOps g.serial 0).map (·.token)
  (ops.take (ops.length - limit)).filter fun t => g.late.contains t

/-- The entry of WAITC: its operands, marks and conditions. -/
def infoWaitc (a : Opnd) (c : Fin 8) : Info :=
  { opcode := 0xA4, a := some { op := a, lit := .u32 }, blocking := true, legal := (Instr.waitc a c).wf }

/-- WAITC (R195, R198). -/
def execWaitc (a : Opnd) (c : Fin 8) (s : State) : Res :=
  run (infoWaitc a c) s fun o t =>
    let g := o.orig.g
    let n := min (o.a.at 0).toNat 64
    if Store.getOr g.cnt c.val 0 ≤ n then t.done o
    else
      match o.orig.lateBlocks g n with
      | tok :: _ =>
        if c.val = 0 then (o.orig.modG fun g => { g with late := g.late.filter (· != tok) }).trapGroup 0x0D
        else o.waitAt (.count c.val n) 1 0
      | [] => o.waitAt (.count c.val n) 1 0

/-- The entry of RDCNT: its operands, marks and conditions. -/
def infoRdcnt (d : Opnd) (c : Fin 8) : Info :=
  { opcode := 0xA5, dst := some d, legal := (Instr.rdcnt d c).wf }

/-- RDCNT (R195). -/
def execRdcnt (d : Opnd) (c : Fin 8) (s : State) : Res :=
  run (infoRdcnt d c) s fun o t =>
    t.finish o d (Lanes.uniform (word (Store.getOr o.orig.g.cnt c.val 0))) o.act

/-- Whether an operation's handle register is still bound to it: one with none, or with a handle that KILL has cut off, can no longer be
looked at (R189). -/
def State.handled (s : State) (op : EngineOp) : Bool :=
  let g := s.opGroup op
  g.serial == op.serial && op.dst.any fun r => g.regState r == .pending op.token

/-- Whether an operation is of the kernel of a group that looks at it (R196); a handler or curator group belongs to no kernel, and looks
only at its own (R320). -/
def State.ofKernel (s : State) (g : Group) (op : EngineOp) : Bool :=
  op.serial == g.serial || (g.kind == .user && (s.opGroup op).kind == .user && op.kernel == g.kernel)

/-- The operation that a handle operand resolves to; that of a HASH has no handle (R184, R196). -/
def State.resolveOp (s : State) (a : Opnd) : Option EngineOp :=
  let g := s.g
  match a.reg? with
  | none => none
  | some r =>
    let w := (g.regVal r).at 0
    match g.regState r with
    | .pending tok => s.ops.find? fun x => x.token == tok && x.serial == g.serial
    | .full =>
      if w.toNat % 256 ≠ 0 then none
      else s.ops.find? fun x => x.cls ≤ 4 && s.ofKernel g x && s.handled x && x.gid == w.toNat / 2 ^ 32 &&
        x.cls == bitsOf w.toNat 15 13 && x.seq == bitsOf w.toNat 31 16
    | _ => none

/-- The entry of an instruction that looks at an operation through its handle (R196). -/
def handleInfo (i : Instr) (opcode : Nat) (d a : Opnd) : Info :=
  { opcode := opcode, a := some { op := a }, dst := some d, markA := false, noWaitA := true, legal := i.wf }

/-- An instruction that looks at an operation through its handle: field A without the wait of R70 (R196). -/
def handleOp (i : Instr) (opcode : Nat) (d a : Opnd) (v : Option EngineOp → Word → Word) (act : EngineOp → State → State) (s : State) : Res :=
  run (handleInfo i opcode d a) s fun o t =>
    let r := o.orig.resolveOp a
    let t := match r with
      | some op => act op t
      | none => t
    t.finish o d (Lanes.uniform (v r (o.a.at 0))) o.act

/-- HTEST (R196). -/
def execHtest (d a : Opnd) (s : State) : Res :=
  handleOp (.htest d a) 0xA6 d a (fun r _ => if r.isSome then 0 else 1) (fun _ t => t) s

/-- HSTAT (R196). -/
def execHstat (d a : Opnd) (s : State) : Res :=
  handleOp (.hstat d a) 0xA9 d a (fun r w =>
    match r with
    | some op => op.ref
    | none => if w.toNat % 256 = 0 then w + 0xFF else w) (fun _ t => t) s

/-- HPROM (R196, R197). -/
def execHprom (d a : Opnd) (s : State) : Res :=
  handleOp (.hprom d a) 0xA8 d a (fun r _ =>
    match r with
    | some op => if op.cls = 0 then op.promise else ~~~0
    | none => ~~~0) (fun _ t => t) s

/-- HCANC (R196): a COLL is not stopped, and an operation whose work is done completes as it is. -/
def execHcanc (d a : Opnd) (s : State) : Res :=
  handleOp (.hcanc d a) 0xA7 d a (fun r _ =>
    match r with
    | some op => if op.cls = 4 then 2 else 0
    | none => 1) (fun op t => if op.cls = 4 then t else t.modOp op.token fun x => { x with cancel := true }) s

/-- LATE (R198): raised at a wait on the operation that the group is in, or else at the first that it begins. A path that a group-handler
run holds is not waiting, and the wait that goes on after the run raises nothing (DESIGN CHOICE, log 82). -/
def execLate (token : Nat) (s : State) : Res :=
  match s.ops.find? fun x => x.token == token with
  | none => .next s
  | some op =>
    let g := s.grp op.unit
    if g.serial ≠ op.serial then .next s
    else
      let on (q : Path) : Bool := !q.held && match q.wait with
        | some w => match w.why with
          | .regs srcs dsts => (srcs ++ dsts).any fun r => g.regState r == .pending token
          | .count 0 n => (s.lateBlocks { g with late := [token] } n).contains token
          | _ => false
        | none => false
      match g.paths.find? on with
      | some q => .next (s.trapGroupAt op.unit q.id 0x0D (g.pathPc q.id))
      | none => .next (s.modGrp op.unit fun g => { g with late := g.late ++ [token] })

end Sys2Proof.Machine
end

