-- ==== Sys2Proof/Machine/Integer.lean ====
section
/-!
DEFINITION. Integer.lean: integer, logic, shift and bit-field instructions (R146 to R154, R163).
-/
namespace Sys2Proof.Machine

/-- The operands of a typed instruction with destination D and sources A, B and, where it accumulates, C. -/
def aluInfo (i : Instr) (opcode : Nat) (d a : Opnd) (b : Option Opnd) (acc : Bool) (ok : Bool) : Info :=
  { opcode := opcode, a := some { op := a }, b := b.map fun b => { op := b }, c := if acc then some { op := d } else none
    dst := some d, legal := i.wf && ok }

/-- A per-lane instruction: the outcome of each lane from the mode copy that it follows and its values of A, B and C (R146, R390). -/
def perLane (info : Info) (extra : Nat) (d : Opnd) (f : Word32 → Word → Word → Word → LaneRes) (s : State) : Res :=
  run info s fun o t =>
    (t.spend extra).finishLanes o d fun l => f (o.modeOf l) (o.a.at l) (o.b.at l) (o.c.at l)

/-- The typed integer instructions of R149: v is the exact result, and sat says whether SAT is read. -/
def intLane (sat : Bool) (v : Nat → Bool → Int → Int → Int → Int) (m : Word32) (a b c : Word) : LaneRes :=
  let t := modeEtype m
  let w := t.width
  let sg := t.signed
  .val (fitInt (sat && modeSat m) (v w sg (intOf a.toNat w sg) (intOf b.toNat w sg) (intOf c.toNat w sg)) w sg)

/-- A two-source instruction of set INT (R147, R148). -/
def intAlu (i : Instr) (opcode : Nat) (d a b : Opnd) (acc sat : Bool) (v : Nat → Bool → Int → Int → Int → Int) (s : State) : Res :=
  perLane (aluInfo i opcode d a (some b) acc (s.etypesOk EType.isInt)) 0 d (intLane sat v) s

/-- A one-source instruction of set INT. -/
def intUnary (i : Instr) (opcode : Nat) (d a : Opnd) (f : Word32 → Word → Word) (s : State) : Res :=
  perLane (aluInfo i opcode d a none false (s.etypesOk EType.isInt)) 0 d (fun m a _ _ => .val (f m a)) s

/-- IADD: x + y (R148). -/
def execIadd (d a b : Opnd) (s : State) : Res := intAlu (.iadd d a b) 0x20 d a b false true (fun _ _ x y _ => x + y) s
/-- ISUB: x - y (R148). -/
def execIsub (d a b : Opnd) (s : State) : Res := intAlu (.isub d a b) 0x21 d a b false true (fun _ _ x y _ => x - y) s
/-- IMUL: the product (R148). -/
def execImul (d a b : Opnd) (s : State) : Res := intAlu (.imul d a b) 0x22 d a b false true (fun _ _ x y _ => x * y) s
/-- IMULH: the high w bits of the product (R148). -/
def execImulh (d a b : Opnd) (s : State) : Res :=
  intAlu (.imulh d a b) 0x23 d a b false false (fun w _ x y _ => (x * y) / (2 ^ w : Nat)) s
/-- IMAD: x times y plus c (R148). -/
def execImad (d a b : Opnd) (s : State) : Res := intAlu (.imad d a b) 0x24 d a b true true (fun _ _ x y c => x * y + c) s
/-- IMIN (R148). -/
def execImin (d a b : Opnd) (s : State) : Res := intAlu (.imin d a b) 0x27 d a b false false (fun _ _ x y _ => min x y) s
/-- IMAX (R148). -/
def execImax (d a b : Opnd) (s : State) : Res := intAlu (.imax d a b) 0x28 d a b false false (fun _ _ x y _ => max x y) s

/-- The exact result of a division by zero (R150). -/
def divByZero (rem : Bool) (w : Nat) (sg : Bool) (x : Int) : Int :=
  if rem then x else if x > 0 then intMax w sg else if x < 0 then intMin w sg else 0

/-- One lane of IDIV or IREM (R150): division toward zero, DIVZERO under DZT. IREM does not read SAT. -/
def divLane (rem : Bool) (m : Word32) (a b _c : Word) : LaneRes :=
  let t := modeEtype m
  let w := t.width
  let sg := t.signed
  let x := intOf a.toNat w sg
  let y := intOf b.toNat w sg
  let fit (v : Int) : Word := fitInt (!rem && modeSat m) v w sg
  if y = 0 then
    let v := fit (divByZero rem w sg x)
    if modeDzt m then .trap 0x01 0 v 0 else .val v
  else .val (fit (if rem then x - y * x.tdiv y else x.tdiv y))

/-- The extra clk of a division: the widest slice of the path decides (R163, R390; DESIGN CHOICE, log 81). -/
def State.divExtra (s : State) : Nat :=
  if (s.g.pathSlices s.cur.path).any fun x => x.run != 0 && (modeEtype x.mode).width == 64 then 15 else 7

/-- IDIV (R150). -/
def execIdiv (d a b : Opnd) (s : State) : Res :=
  perLane (aluInfo (.idiv d a b) 0x25 d a (some b) false (s.etypesOk EType.isInt)) s.divExtra d (divLane false) s
/-- IREM (R150). -/
def execIrem (d a b : Opnd) (s : State) : Res :=
  perLane (aluInfo (.irem d a b) 0x26 d a (some b) false (s.etypesOk EType.isInt)) s.divExtra d (divLane true) s

/-- IABS (R148). -/
def execIabs (d a : Opnd) (s : State) : Res :=
  perLane (aluInfo (.iabs d a) 0x29 d a none false (s.etypesOk EType.isInt)) 0 d (intLane true fun _ _ x _ _ => (x.natAbs : Int)) s
/-- INEG (R148). -/
def execIneg (d a : Opnd) (s : State) : Res :=
  perLane (aluInfo (.ineg d a) 0x2A d a none false (s.etypesOk EType.isInt)) 0 d (intLane true fun _ _ x _ _ => -x) s

/-- The entry of LEA. -/
def infoLea (d a b : Opnd) (s : State) : Info :=
  { opcode := 0x2C, a := some { op := a, lit := .ty .u64 }, b := some { op := b, lit := .ty .i64 }, dst := some d
    legal := (Instr.lea d a b).wf && s.etypesOk fun _ => true }

/-- LEA: a plus b times the byte width of ETYPE (R149). A literal reads as U64 in A and as I64 in B. -/
def execLea (d a b : Opnd) (s : State) : Res :=
  perLane (infoLea d a b s) 0 d
    (fun m a b _ => .val (a + b * word (modeEtype m).bytes)) s

/-- IMULW: the product written at width 2w (R148). -/
def execImulw (d a b : Opnd) (s : State) : Res :=
  perLane (aluInfo (.imulw d a b) 0x2D d a (some b) false (s.etypesOk fun t => t.isInt && t.width < 64)) 0 d
    (fun m a b _ =>
      let t := modeEtype m
      .val (intImage (intOf a.toNat t.width t.signed * intOf b.toNat t.width t.signed) (2 * t.width) t.signed)) s

/-- The entry of a raw 64-bit instruction. -/
def rawInfo (i : Instr) (opcode : Nat) (d a : Opnd) (b : Option Opnd) (acc : Bool) : Info :=
  { opcode := opcode, a := some { op := a, lit := .ty .i64 }, b := b.map fun b => { op := b, lit := .ty .i64 }
    c := if acc then some { op := d } else none, dst := some d, legal := i.wf }

/-- A raw 64-bit instruction: literals read as I64 (R148). -/
def rawAlu (i : Instr) (opcode : Nat) (d a : Opnd) (b : Option Opnd) (acc : Bool) (f : Word → Word → Word → Word) (s : State) : Res :=
  perLane (rawInfo i opcode d a b acc) 0 d (fun _ a b c => .val (f a b c)) s

/-- AND (R148). -/
def execAnd (d a b : Opnd) (s : State) : Res := rawAlu (.and d a b) 0x30 d a (some b) false (fun a b _ => a &&& b) s
/-- OR (R148). -/
def execOr (d a b : Opnd) (s : State) : Res := rawAlu (.or d a b) 0x31 d a (some b) false (fun a b _ => a ||| b) s
/-- XOR (R148). -/
def execXor (d a b : Opnd) (s : State) : Res := rawAlu (.xor d a b) 0x32 d a (some b) false (fun a b _ => a ^^^ b) s
/-- ANDN (R148). -/
def execAndn (d a b : Opnd) (s : State) : Res := rawAlu (.andn d a b) 0x33 d a (some b) false (fun a b _ => a &&& ~~~b) s
/-- NOT (R148). -/
def execNot (d a : Opnd) (s : State) : Res := rawAlu (.not d a) 0x34 d a none false (fun a _ _ => ~~~a) s

/-- The bits of a bit field's control (R151): lo and len. -/
def fieldLo (b : Word) : Nat := b.toNat % 64
def fieldLen (b : Word) : Nat := min (bitsOf b.toNat 14 8) (64 - fieldLo b)

/-- BFI (R151). -/
def execBfi (d a b : Opnd) (s : State) : Res :=
  rawAlu (.bfi d a b) 0x3E d a (some b) true (fun a b c =>
    let lo := fieldLo b
    let m : Word := word ((2 ^ fieldLen b - 1) * 2 ^ lo)
    (c &&& ~~~m) ||| ((a <<< lo) &&& m)) s

/-- The entry of SEL: its operands, marks and conditions. -/
def infoSel (d a b : Opnd) : Info :=
  { opcode := 0x3F, a := some { op := a, lit := .ty .i64 }, b := some { op := b, lit := .ty .i64 }, dst := some d
    legal := (Instr.sel d a b).wf, sel := true }

/-- SEL: the guard predicate of each lane chooses, whatever GE holds (R154). -/
def execSel (d a b : Opnd) (s : State) : Res :=
  run (infoSel d a b) s fun o t =>
    t.finishLanes o d fun l => .val (if o.orig.g.guard l then o.a.at l else o.b.at l)

/-- A shift's result in ETYPE: sh gives the new low w bits from the old ones and the count (R151). -/
def shiftLane (sh : Nat → Nat → Nat → Nat) (m : Word32) (a b _c : Word) : LaneRes :=
  let t := modeEtype m
  .val (intImage (sh t.width (a.toNat % 2 ^ t.width) b.toNat : Nat) t.width t.signed)

/-- A shift or rotate: the count b is read as U64 (R151). -/
def shiftAlu (i : Instr) (opcode : Nat) (d a b : Opnd) (sh : Nat → Nat → Nat → Nat) (s : State) : Res :=
  perLane (aluInfo i opcode d a (some b) false (s.etypesOk EType.isInt)) 0 d (shiftLane sh) s

/-- SHL (R151). -/
def execShl (d a b : Opnd) (s : State) : Res :=
  shiftAlu (.shl d a b) 0x35 d a b (fun w x n => if n ≥ w then 0 else x * 2 ^ n % 2 ^ w) s
/-- SHR (R151). -/
def execShr (d a b : Opnd) (s : State) : Res :=
  shiftAlu (.shr d a b) 0x36 d a b (fun w x n => if n ≥ w then 0 else x / 2 ^ n) s
/-- SAR (R151). -/
def execSar (d a b : Opnd) (s : State) : Res :=
  shiftAlu (.sar d a b) 0x37 d a b (fun w x n => ((intOf x w true / (2 ^ min n w : Nat)) % (2 ^ w : Nat)).toNat) s
/-- ROTL (R151). -/
def execRotl (d a b : Opnd) (s : State) : Res :=
  shiftAlu (.rotl d a b) 0x38 d a b (fun w x n => x * 2 ^ (n % w) % 2 ^ w + x / 2 ^ (w - n % w)) s

/-- The number of 1 bits among the low n bits. -/
def popCount (x n : Nat) : Nat :=
  match n with
  | 0 => 0
  | n + 1 => x / 2 ^ n % 2 + popCount x n

/-- The low n bits in reverse order. -/
def reverseBits (x n : Nat) : Nat :=
  match n with
  | 0 => 0
  | n + 1 => x % 2 * 2 ^ n + reverseBits (x / 2) n

/-- Trailing zeros of the low n bits; n for 0. -/
def trailingZeros (x n : Nat) : Nat :=
  match n with
  | 0 => 0
  | n + 1 => if x % 2 = 1 then 0 else 1 + trailingZeros (x / 2) n

/-- POPC (R148). -/
def execPopc (d a : Opnd) (s : State) : Res :=
  intUnary (.popc d a) 0x39 d a (fun m a => word (popCount a.toNat (modeEtype m).width)) s
/-- CLZ (R148). -/
def execClz (d a : Opnd) (s : State) : Res :=
  intUnary (.clz d a) 0x3A d a (fun m a =>
    let w := (modeEtype m).width
    let x := a.toNat % 2 ^ w
    word (if x = 0 then w else w - 1 - Nat.log2 x)) s
/-- CTZ (R148). -/
def execCtz (d a : Opnd) (s : State) : Res :=
  intUnary (.ctz d a) 0x3B d a (fun m a => word (trailingZeros a.toNat (modeEtype m).width)) s
/-- BREV (R148). -/
def execBrev (d a : Opnd) (s : State) : Res :=
  intUnary (.brev d a) 0x3C d a (fun m a =>
    let t := modeEtype m
    intImage (reverseBits a.toNat t.width : Nat) t.width t.signed) s

/-- BFX (R151): a bit field of the whole 64 bits, extended by the signedness of ETYPE. -/
def execBfx (d a b : Opnd) (s : State) : Res :=
  perLane (aluInfo (.bfx d a b) 0x3D d a (some b) false (s.etypesOk EType.isInt)) 0 d (fun m a b _ =>
    let len := fieldLen b
    let x := a.toNat / 2 ^ fieldLo b % 2 ^ len
    .val (if len = 0 then 0 else intImage (intOf x len (modeEtype m).signed) 64 true)) s

/-- The condition of ICMP (R152); the codes that ICMP does not have never reach it. -/
def icmpHolds (c : Cond) (x y : Int) (ux uy : Int) : Bool :=
  match c with
  | .eq => x == y
  | .ne => x != y
  | .lt => x < y
  | .le => x ≤ y
  | .gt => x > y
  | .ge => x ≥ y
  | .ult => ux < uy
  | .ule => ux ≤ uy
  | .ugt => ux > uy
  | .uge => ux ≥ uy
  | .always => true
  | .ord | .uno | .ueq | .one | .never => false

/-- The entry of ICMP: its operands, marks and conditions. -/
def infoIcmp (c : Cond) (p : Fin 8) (a b : Opnd) (s : State) : Info :=
  { opcode := 0x2B, a := some { op := a }, b := some { op := b }
    legal := (Instr.icmp c p a b).wf && s.etypesOk EType.isInt }

/-- ICMP (R152, R153). -/
def execIcmp (c : Cond) (p : Fin 8) (a b : Opnd) (s : State) : Res :=
  run (infoIcmp c p a b s) s fun o t =>
    let bits := maskOf fun l =>
      let ty := modeEtype (o.orig.g.modeOf l)
      let rd (v : Word) (sg : Bool) : Int := intOf v.toNat ty.width sg
      icmpHolds c (rd (o.a.at l) ty.signed) (rd (o.b.at l) ty.signed) (rd (o.a.at l) false) (rd (o.b.at l) false)
    (t.modG fun g => g.writePred p bits o.act).done o

end Sys2Proof.Machine
end

