-- ==== Sys2Proof/Machine/Float.lean ====
section
/-!
DEFINITION. Float.lean: floating-point, log-number and conversion instructions (R155 to R159, R163).
-/
namespace Sys2Proof.Machine

/-- The outcome of a floating-point lane: the result, or FPEXC when a raised flag has its FPX enable set (R47). -/
def fpOutcome (m : Word32) (pred : Bool) (r : FRes) : LaneRes :=
  if r.flags.toNat &&& modeFpx m ≠ 0 then .trap 0x02 (r.flags.toNat + (if pred then 16 else 0)) (word r.bits) 0
  else .val (word r.bits)

/-- A function of one element applied to the one or two elements of ETYPE, flags joined (R156). -/
def perElement (m : Word32) (a b c : Word) (f : Fmt → Nat → Nat → Nat → FRes) : FRes :=
  match (modeEtype m).kind with
  | .flt x => f x (a.toNat % 2 ^ x.width) (b.toNat % 2 ^ x.width) (c.toNat % 2 ^ x.width)
  | .packed x =>
    let lo := f x (halfOf x a.toNat 0) (halfOf x b.toNat 0) (halfOf x c.toNat 0)
    let hi := f x (halfOf x a.toNat 1) (halfOf x b.toNat 1) (halfOf x c.toNat 1)
    { bits := lo.bits + 2 ^ x.width * hi.bits, flags := lo.flags.join hi.flags }
  | _ => { bits := 0 }

/-- An arithmetic instruction of set FLT on flushed values (R156). -/
def fltLane (f : Fmt → Bool → Rnd → Val → Val → Val → FRes) (m : Word32) (a b c : Word) : LaneRes :=
  let z := modeFtz m
  fpOutcome m false (perElement m a b c fun x a b c => f x z (modeRnd m) (x.operand z a) (x.operand z b) (x.operand z c))

/-- The extra clk of divisions, roots and transcendentals (R163, R390): those of FP64 where any slice of the path that runs has that type
(DESIGN CHOICE, log 81). -/
def State.fltExtra (s : State) : Nat :=
  if (s.g.pathSlices s.cur.path).any fun x => x.run != 0 && modeEtype x.mode == .fp64 then 7 else 3

/-- An instruction of set FLT. -/
def fltAlu (i : Instr) (opcode : Nat) (d a : Opnd) (b : Option Opnd) (acc : Bool) (extra : Nat)
    (f : Fmt → Bool → Rnd → Val → Val → Val → FRes) (s : State) : Res :=
  perLane (aluInfo i opcode d a b acc (s.etypesOk EType.isFlt)) extra d (fltLane f) s

/-- a times b plus or minus c, rounded once; a signalling NaN anywhere raises invalid (R156). -/
def fusedMulAdd (x : Fmt) (z : Bool) (r : Rnd) (a b c : Val) : FRes :=
  let p := a.mul b
  let q := p.1.add r c
  (x.roundVal z r q.1).raise (p.2 || q.2)

/-- FADD (R155). -/
def execFadd (d a b : Opnd) (s : State) : Res :=
  fltAlu (.fadd d a b) 0x40 d a (some b) false 0 (fun x z r a b _ => x.finish z r (a.add r b)) s
/-- FSUB (R155). -/
def execFsub (d a b : Opnd) (s : State) : Res :=
  fltAlu (.fsub d a b) 0x41 d a (some b) false 0 (fun x z r a b _ => x.finish z r (a.add r b.negate)) s
/-- FMUL (R155). -/
def execFmul (d a b : Opnd) (s : State) : Res :=
  fltAlu (.fmul d a b) 0x42 d a (some b) false 0 (fun x z r a b _ => x.finish z r (a.mul b)) s
/-- FFMA (R155). -/
def execFfma (d a b : Opnd) (s : State) : Res :=
  fltAlu (.ffma d a b) 0x43 d a (some b) true 0 fusedMulAdd s
/-- FFMS (R155). -/
def execFfms (d a b : Opnd) (s : State) : Res :=
  fltAlu (.ffms d a b) 0x44 d a (some b) true 0 (fun x z r a b c => fusedMulAdd x z r a b c.negate) s
/-- FDIV (R155, R156). -/
def execFdiv (d a b : Opnd) (s : State) : Res :=
  fltAlu (.fdiv d a b) 0x49 d a (some b) false s.fltExtra (fun x z r a b _ => x.div z r a b) s
/-- FSQRT (R155, R156). -/
def execFsqrt (d a : Opnd) (s : State) : Res :=
  fltAlu (.fsqrt d a) 0x4A d a none false s.fltExtra (fun x z r a _ _ => x.sqrt z r a) s
/-- FRCP: 1 divided by a (R155, R156). -/
def execFrcp (d a : Opnd) (s : State) : Res :=
  fltAlu (.frcp d a) 0x4B d a none false s.fltExtra (fun x z r a _ _ => x.div z r (.num false 1 0) a) s
/-- FRSQ (R155, R156). -/
def execFrsq (d a : Opnd) (s : State) : Res :=
  fltAlu (.frsq d a) 0x4C d a none false s.fltExtra (fun x z r a _ _ => x.rsqrt z r a) s
/-- FEXP2 (R155, R156). -/
def execFexp2 (d a : Opnd) (s : State) : Res :=
  fltAlu (.fexp2 d a) 0x4D d a none false s.fltExtra (fun x z r a _ _ => x.exp2 z r a) s
/-- FLOG2 (R155, R156). -/
def execFlog2 (d a : Opnd) (s : State) : Res :=
  fltAlu (.flog2 d a) 0x4E d a none false s.fltExtra (fun x z r a _ _ => x.log2 z r a) s

/-- An instruction on the flushed bits of each element (R157). -/
def bitsAlu (i : Instr) (opcode : Nat) (d a : Opnd) (b : Option Opnd) (f : Word32 → Fmt → Nat → Nat → FRes) (s : State) : Res :=
  perLane (aluInfo i opcode d a b false (s.etypesOk EType.isFlt)) 0 d (fun m a b c =>
    fpOutcome m false (perElement m a b c fun x a b _ => f m x (x.flush (modeFtz m) a) (x.flush (modeFtz m) b))) s

/-- FMIN (R157). -/
def execFmin (d a b : Opnd) (s : State) : Res := bitsAlu (.fmin d a b) 0x45 d a (some b) (fun _ x a b => x.minMax false a b) s
/-- FMAX (R157). -/
def execFmax (d a b : Opnd) (s : State) : Res := bitsAlu (.fmax d a b) 0x46 d a (some b) (fun _ x a b => x.minMax true a b) s
/-- FABS clears the sign bit (R157). -/
def execFabs (d a : Opnd) (s : State) : Res := bitsAlu (.fabs d a) 0x47 d a none (fun _ x a _ => { bits := a % x.signW }) s
/-- FNEG inverts the sign bit (R157). -/
def execFneg (d a : Opnd) (s : State) : Res :=
  bitsAlu (.fneg d a) 0x48 d a none (fun _ x a _ => { bits := (a + x.signW) % (2 * x.signW) }) s
/-- FRND: the rounding mode is the immediate's, 5 being the mode register's (R157). -/
def execFrnd (d a : Opnd) (i : BitVec 8) (s : State) : Res :=
  bitsAlu (.frnd d a i) 0x51 d a none (fun m x a _ =>
    x.rint (if i.toNat = 5 then modeRnd m else Rnd.ofCode i.toNat) a (x.unpack a)) s

/-- The class mask of a lane (R157). -/
def classMask (m : Word32) (a : Nat) : Nat :=
  let one (x : Fmt) (b : Nat) : Nat := 2 ^ ((x.unpack b).classBit (x.isSubnormal b))
  match (modeEtype m).kind with
  | .flt x => one x (x.flush (modeFtz m) a)
  | .packed x => one x (x.flush (modeFtz m) (halfOf x a 0)) + 2 ^ 16 * one x (x.flush (modeFtz m) (halfOf x a 1))
  | _ =>
    match Lns.ofCode (a % 256) with
    | .fin n _ => 2 ^ (if n then 1 else 6)
    | .zero n => 2 ^ (if n then 3 else 4)
    | .inf n => 2 ^ (if n then 0 else 7)
    | .nan => 2 ^ 9

/-- FCLASS (R157). -/
def execFclass (d a : Opnd) (s : State) : Res :=
  perLane (aluInfo (.fclass d a) 0x50 d a none false (s.etypesOk fun t => t.isFlt || t == .lns8)) 0 d
    (fun m a _ _ => .val (word (classMask m a.toNat))) s

/-- The entry of FSCALE. -/
def infoFscale (d a b : Opnd) (s : State) : Info :=
  { aluInfo (.fscale d a b) 0x52 d a (some b) false (s.etypesOk EType.isFlt) with b := some { op := b, lit := .ty .i32 } }

/-- FSCALE: n is b read as I32 (R155, R156). -/
def execFscale (d a b : Opnd) (s : State) : Res :=
  perLane (infoFscale d a b s) 0 d
    (fun m a b c => fpOutcome m false (perElement m a a c fun x a _ _ =>
      x.scale (modeFtz m) (modeRnd m) (x.operand (modeFtz m) a) (intOf b.toNat 32 true))) s

/-- The condition of FCMP and whether it raises invalid (R152). -/
def fcmpHolds (c : Cond) (a b : Val) : Bool × Bool :=
  let uno := a.isNan || b.isNan
  let snan := a.isSNan || b.isSNan
  let k := a.cmp b
  match c with
  | .eq => (!uno && k == 0, snan)
  | .ne => (uno || k != 0, snan)
  | .lt => (!uno && k < 0, uno)
  | .le => (!uno && k ≤ 0, uno)
  | .gt => (!uno && k > 0, uno)
  | .ge => (!uno && k ≥ 0, uno)
  | .ord => (!uno, snan)
  | .uno => (uno, snan)
  | .ult => (uno || k < 0, snan)
  | .ule => (uno || k ≤ 0, snan)
  | .ugt => (uno || k > 0, snan)
  | .uge => (uno || k ≥ 0, snan)
  | .ueq => (uno || k == 0, snan)
  | .one => (!uno && k != 0, snan)
  | .always => (true, snan)
  | .never => (false, snan)

/-- The value FCMP compares: LNS8 codes stand for their nominal values, whose order is that of their logarithms (R152). -/
def cmpValue (t : EType) (ftz : Bool) (r : Nat) : Val :=
  match t.kind with
  | .lns =>
    match Lns.ofCode (r % 256) with
    | .fin n k => .num n (k + 17).toNat 0
    | .zero n => .num n 0 0
    | .inf n => .inf n
    | .nan => .nan false
  | _ => t.value ftz r

/-- Set FCM (R147). -/
def EType.isFcm (t : EType) : Bool := (t.isFlt && !t.isPacked) || t == .lns8

/-- The entry of FCMP: its operands, marks and conditions. -/
def infoFcmp (c : Cond) (p : Fin 8) (a b : Opnd) (s : State) : Info :=
  { opcode := 0x4F, a := some { op := a }, b := some { op := b }
    legal := (Instr.fcmp c p a b).wf && s.etypesOk EType.isFcm }

/-- FCMP (R152, R153): a lane that traps leaves its predicate bit. -/
def execFcmp (c : Cond) (p : Fin 8) (a b : Opnd) (s : State) : Res :=
  run (infoFcmp c p a b s) s fun o t =>
    let f (l : Nat) : LaneRes :=
      let m := o.orig.g.modeOf l
      let ty := modeEtype m
      let r := fcmpHolds c (cmpValue ty (modeFtz m) (o.a.at l).toNat) (cmpValue ty (modeFtz m) (o.b.at l).toNat)
      fpOutcome m true { bits := r.1.toNat, flags := { invalid := r.2 } }
    let bits := maskOf fun l => f l == .val 1
    ((t.modG fun g => g.writePred p bits (okLanes o f)).done o).detach o (trapRecs t o (c.code * 8 + p) f)

/-- Whether CVT accepts a pairing of types (R158). -/
def cvtPair (src dst : EType) : Bool := src.isPacked == dst.isPacked

/-- One lane of CVT (R158). -/
def cvtLane (dst : EType) (m : Word32) (a _b _c : Word) : LaneRes :=
  let src := modeEtype m
  let z := modeFtz m
  match src.kind, dst.kind with
  | .packed x, .packed y =>
    let one (h : Nat) : FRes :=
      let v := x.operand z (halfOf x a.toNat h)
      (y.roundVal z (modeRnd m) v).raise v.isSNan
    let lo := one 0
    let hi := one 1
    fpOutcome m false { bits := lo.bits + 2 ^ y.width * hi.bits, flags := lo.flags.join hi.flags }
  | _, _ => fpOutcome m false (convert src dst z (modeSat m) (modeRnd m) a.toNat)

/-- CVT (R158). -/
def execCvt (d a : Opnd) (t : BitVec 8) (s : State) : Res :=
  let dst := (EType.ofCode t.toNat).getD .u64
  perLane (aluInfo (.cvt d a t) 0x53 d a none false (s.etypesOk fun src => cvtPair src dst)) 0 d (cvtLane dst) s

/-- The format slots a lane reads (R63, R321): its group's, its origin's kernel's in a handler group, 0 in a curator group. -/
def State.fslot (s : State) (g : Group) (l n : Nat) : Nat :=
  match g.kind with
  | .user => Store.getOr g.fslots n 0
  | .handler => (((s.recOf? g l).bind fun r => s.kernel? r.kernel).map fun k => k.fslots.getD n 0).getD 0
  | .curator => 0

/-- The value of a scale times a value, with the special cases of CVTS (R158). -/
def scaledVal (v : Val) (sc : Scale) : Val × Bool :=
  match sc, v with
  | .nan, v => (.nan false, v.isSNan)
  | _, .nan sg => (.nan false, sg)
  | .zero, .inf _ => (.nan false, true)
  | .zero, .num n _ _ => (.num n 0 0, false)
  | .val _ _, .inf n => (.inf n, false)
  | .val e f, .num n m k => (.num n (m * f) (k + e - 3), false)

/-- The type of the format slot FS of a lane; none where no type has the code (R63, R158). -/
def State.laneSlotType (s : State) (m : Word32) (l : Nat) : Option EType := EType.ofCode (s.fslot s.g l (modeFs m) % 32)

/-- The entry of CVTS: both types are unpacked (R158). -/
def infoCvts (d a b : Opnd) (s : State) : Info :=
  let ok := (LaneMask.lanes (s.g.live s.cur.path)).all fun l =>
    match s.laneSlotType (s.g.modeOf l) l with
    | some t => !t.isPacked
    | none => false
  { aluInfo (.cvts d a b) 0x54 d a (some b) false (ok && s.etypesOk fun t => !t.isPacked) with
    b := some { op := b, lit := .u32 } }

/-- CVTS into the TYPE of format slot FS (R158). -/
def execCvts (d a b : Opnd) (s : State) : Res :=
  run (infoCvts d a b s) s fun o t =>
    t.finishLanes o d fun l =>
      let m := o.modeOf l
      let dst := (s.laneSlotType m (if o.info.uniform then LaneMask.lowest o.act else l)).getD .u64
      let v := scaledVal ((modeEtype m).value (modeFtz m) (o.a.at l).toNat) (Scale.ofCode (o.b.at l).toNat)
      fpOutcome m false ((dst.ofVal (modeFtz m) (modeRnd m) v.1).raise v.2)

/-- LADD (R53). -/
def execLadd (d a b : Opnd) (s : State) : Res :=
  perLane (aluInfo (.ladd d a b) 0x55 d a (some b) false (s.etypesOk (· == .lns8))) 0 d
    (fun m a b _ => fpOutcome m false (lnsAdd (modeRnd m) (Lns.ofCode (a.toNat % 256)) (Lns.ofCode (b.toNat % 256)))) s

/-- LMUL (R53). -/
def execLmul (d a b : Opnd) (s : State) : Res :=
  perLane (aluInfo (.lmul d a b) 0x56 d a (some b) false (s.etypesOk (· == .lns8))) 0 d
    (fun m a b _ => fpOutcome m false (lnsMul (modeRnd m) (Lns.ofCode (a.toNat % 256)) (Lns.ofCode (b.toNat % 256)))) s

/-- The exact value of FDOT2's expression (R159): c plus both half-products, with the special values of the whole. -/
def dot2 (r : Rnd) (a0 b0 a1 b1 c : Val) : Val × Bool :=
  let p := a0.mul b0
  let q := a1.mul b1
  let inv := p.2 || q.2 || c.isSNan
  if p.1.isNan || q.1.isNan || c.isNan then (.nan false, inv)
  else
    let pq := p.1.add r q.1
    if pq.1.isNan then (.nan false, true)
    else
      let x := pq.1.add r c
      -- A sum of three zeros keeps a common sign; an exact zero of mixed signs follows R44, step 5.
      if x.1.isZero then (.num (if p.1.neg == q.1.neg && q.1.neg == c.neg && p.1.isZero && q.1.isZero && c.isZero then c.neg else r == .rdn) 0 0, inv)
      else (x.1, inv || x.2)

/-- The entry of FDOT2. -/
def infoFdot2 (d a b : Opnd) (s : State) : Info :=
  { aluInfo (.fdot2 d a b) 0x57 d a (some b) true (s.etypesOk EType.isPacked) with c := some { op := d, lit := .ty .fp32 } }

/-- FDOT2 (R159): C and the destination are FP32. -/
def execFdot2 (d a b : Opnd) (s : State) : Res :=
  perLane (infoFdot2 d a b s) 0 d
    (fun m a b c =>
      match (modeEtype m).kind with
      | .packed x =>
        let z := modeFtz m
        let h (v : Word) (e : Nat) : Val := x.operand z (halfOf x v.toNat e)
        let v := dot2 (modeRnd m) (h a 0) (h b 0) (h a 1) (h b 1) (Fmt.fp32.operand z c.toNat)
        fpOutcome m false (Fmt.fp32.finish z (modeRnd m) v)
      | _ => .val 0) s

/-- The entry of FSLOT: its operands, marks and conditions. -/
def infoFslot (d : Opnd) (f : Fin 8) : Info :=
  { opcode := 0x79, dst := some d, legal := (Instr.fslot d f).wf }

/-- FSLOT (R63, R78, R321). -/
def execFslot (d : Opnd) (f : Fin 8) (s : State) : Res :=
  run (infoFslot d f) s fun o t =>
    t.finish o d (Lanes.of fun l => word (s.fslot s.g l f)) o.act

end Sys2Proof.Machine
end

