-- ==== Sys2Proof/Machine/MatrixMath.lean ====
section
/-!
DEFINITION. MatrixMath.lean: the terms and sums of matrix steps (R54 to R60), tiles (R229, R236) and the conversion of QUANT
(R244).
-/
namespace Sys2Proof.Machine

/-! ### Terms (R56, R59) -/

/-- An element of a matrix operand: a float as an integer significand and the exponent of its last place, or a log. -/
inductive Elem where
  | nan (signalling : Bool)
  | inf (neg : Bool)
  | zero (neg : Bool)
  | flt (neg : Bool) (sig : Nat) (e : Int)
  | log (neg : Bool) (n : Int)
  deriving DecidableEq, Repr

/-- An element of a type, flushed under FTZ (R45, R51). -/
def elemOf (t : EType) (ftz : Bool) (bits : Nat) : Elem :=
  match t.kind with
  | .lns =>
    match Lns.ofCode (bits % 256) with
    | .fin neg n => .log neg n
    | .zero neg => .zero neg
    | .inf neg => .inf neg
    | .nan => .nan false
  | _ =>
    match t.value ftz bits with
    | .nan s => .nan s
    | .inf neg => .inf neg
    | .num neg m e => if m = 0 then .zero neg else .flt neg m e

/-- The sign of an element. -/
def Elem.neg (x : Elem) : Bool :=
  match x with
  | .nan _ => false
  | .inf n | .zero n => n
  | .flt n _ _ | .log n _ => n

/-- Element tests. -/
def Elem.isNan (x : Elem) : Bool :=
  match x with
  | .nan _ => true
  | _ => false
def Elem.isSNan (x : Elem) : Bool :=
  match x with
  | .nan s => s
  | _ => false
def Elem.isInf (x : Elem) : Bool :=
  match x with
  | .inf _ => true
  | _ => false
def Elem.isZero (x : Elem) : Bool :=
  match x with
  | .zero _ => true
  | _ => false

/-- A product term (R56); a finite one is (-1)^neg times m times 2^(e - f) (R59). -/
inductive Term where
  | nan (invalid : Bool)
  | inf (neg : Bool)
  | zero (neg : Bool)
  | fin (neg : Bool) (m : Nat) (e : Int) (f : Nat)
  deriving DecidableEq, Repr

/-- The code of the scale 1.0, which stands for a missing one (R55). -/
def scaleOne : Nat := 0x78

/-- M and e of a finite product without its scales, and f of R59. -/
def product (a b : Elem) (fbits : Nat) : Nat × Int × Nat :=
  match a, b with
  | .log _ n, .log _ k => (lnsT ((n + k) % 4).toNat, (n + k) / 4, 35)
  | .flt _ m e, .flt _ p g => (m * p, e + g + 2 * fbits, 2 * fbits + 12)
  | _, _ => (0, 0, 0)

/-- The term of two elements under four scale codes (R56, R59). -/
def termOf (a b : Elem) (fbits : Nat) (scales : List Nat) : Term :=
  let sc := scales.map Scale.ofCode
  let zeroScale := sc.contains .zero
  let neg := xor a.neg b.neg
  if a.isNan || b.isNan || sc.contains .nan then .nan (a.isSNan || b.isSNan)
  else if a.isInf || b.isInf then
    if zeroScale || a.isZero || b.isZero then .nan true else .inf neg
  else if zeroScale || a.isZero || b.isZero then .zero neg
  else
    let (m, e, f) := product a b fbits
    let m := sc.foldl (fun m x => match x with
      | .val _ f8 => m * f8
      | _ => m) m
    let e := sc.foldl (fun (e : Int) x => match x with
      | .val k _ => e + k
      | _ => e) e
    .fin neg m e f

/-! ### Sums (R57 to R60) -/

/-- The exact value of a finite term. -/
def Term.value (t : Term) : Val :=
  match t with
  | .fin neg m e f => .num neg m (e - f)
  | .zero neg => .num neg 0 0
  | .inf neg => .inf neg
  | .nan s => .nan s

/-- The settling of special terms and accumulators (R57). A signalling NaN in the accumulator raises no invalid, as R57 names terms only,
against R42's any operand (DESIGN CHOICE, log 77). -/
def specials (d : Val) (dBits : Nat) (f : Fmt) (ts : List Term) : Option FRes :=
  let invalid := ts.any fun t => t == .nan true
  let nan := ts.any fun t => match t with
    | .nan _ => true
    | _ => false
  let infs := ts.filterMap fun t => match t with
    | .inf n => some n
    | _ => none
  if d.isNan || nan then some (f.nanRes invalid)
  else
    match infs with
    | n :: _ =>
      if infs.contains (!n) || d == .inf (!n) then some (f.nanRes true) else some { bits := f.infOf n }
    | [] =>
      match d with
      | .inf _ => some { bits := dBits }
      | _ => none

/-- The exact sum of the finite terms as a multiple of a power of 2. -/
def exactSum (ts : List Term) : Val :=
  ts.foldl (fun s t => match t with
    | .fin _ _ _ _ => (s.add .rne t.value).1
    | _ => s) (.num false 0 0)

/-- The fixed-point sum S and emax (R59); none without a finite nonzero term. -/
def fixedSum (ts : List Term) : Option (Int × Int) :=
  let fins := ts.filterMap fun t => match t with
    | .fin neg m e f => some (neg, m, e, f)
    | _ => none
  match fins with
  | [] => none
  | (_, _, e0, _) :: _ =>
    let emax := fins.foldl (fun m x => max m x.2.2.1) e0
    some (fins.foldl (fun (s : Int) x =>
      let sh : Int := x.2.2.1 - x.2.2.2 - emax + 52
      let q : Int := if sh ≥ 0 then (x.2.1 * 2 ^ sh.toNat : Nat) else (x.2.1 / 2 ^ (-sh).toNat : Nat)
      if x.1 then s - q else s + q) 0, emax)

/-- The new value of an FP32 accumulator element: R57, then R58 or, for a fixed-point sum, R59. -/
def accumulate (fixed ftz : Bool) (rm : Rnd) (d : Nat) (ts : List Term) : FRes :=
  let dv := Fmt.fp32.operand ftz d
  match specials dv d .fp32 ts with
  | some r => r
  | none =>
    let p : Val := if fixed then (match fixedSum ts with
      | some (s, emax) => ofScaled s (emax - 52) false
      | none => .num false 0 0) else exactSum ts
    if p.isZero then { bits := d } else Fmt.fp32.roundVal ftz rm (dv.add rm p).1

/-- The new value of an FP64 accumulator element: R57, then one fused product after another (R60). -/
def accumulate64 (ftz : Bool) (rm : Rnd) (d : Nat) (ts : List Term) : FRes :=
  match specials (Fmt.fp64.operand ftz d) d .fp64 ts with
  | some r => r
  | none =>
    ts.foldl (fun (r : FRes) t =>
      let n := Fmt.fp64.finish ftz rm ((Fmt.fp64.operand ftz r.bits).add rm t.value)
      { bits := n.bits, flags := r.flags.join n.flags }) { bits := d }

/-- Flags as the matrix status holds them (R246): NV, OF, UF. -/
def mxFlagsOf (f : Flags) : Nat := f.invalid.toNat + 2 * f.overflow.toNat + 4 * f.underflow.toNat

/-! ### Tiles -/

/-- Accumulator slots by number. -/
abbrev Tiles := Store (Store Word32)

/-- A word of a slot. -/
def Tiles.word (m : Tiles) (t row col : Nat) : Word32 := Store.getOr (Store.getOr m t []) (32 * row + col) 0

/-- A word of a slot set. -/
def Tiles.setWord (m : Tiles) (t row col : Nat) (v : Word32) : Tiles :=
  let s := Store.getOr m t []
  Store.set m t (if v = 0 then Store.del s (32 * row + col) else Store.set s (32 * row + col) v)

/-- An FP64 element of a pair (R229). -/
def Tiles.get64 (m : Tiles) (t row col : Nat) : Nat :=
  (m.word (t + col / 16) row (2 * (col % 16) + 1)).toNat * 2 ^ 32 + (m.word (t + col / 16) row (2 * (col % 16))).toNat

/-- An FP64 element of a pair set. -/
def Tiles.set64 (m : Tiles) (t row col v : Nat) : Tiles :=
  (m.setWord (t + col / 16) row (2 * (col % 16)) (BitVec.ofNat 32 v)).setWord (t + col / 16) row (2 * (col % 16) + 1)
    (BitVec.ofNat 32 (v / 2 ^ 32))

/-- The element type of a format slot (R63). -/
def slotType (fs : Nat) : EType := (EType.ofCode (fs % 32)).getD .fp64

/-- Whether a format slot is scaled (R63). -/
def slotScaled (fs : Nat) : Bool := fs / 32 % 4 == 1

/-- One step over a tile: for each listed row and each column, the terms added to the element; with the flags raised. -/
def stepTile (m : Tiles) (t : Nat) (fp64 fixed ftz : Bool) (rm : Rnd) (rows : List Nat) (cols : Nat)
    (terms : Nat → Nat → List Term) : Tiles × Flags :=
  rows.foldl (fun (r : Tiles × Flags) i =>
    (List.range cols).foldl (fun (r : Tiles × Flags) j =>
      if fp64 then
        let x := accumulate64 ftz rm (r.1.get64 t i j) (terms i j)
        (r.1.set64 t i j x.bits, r.2.join x.flags)
      else
        let x := accumulate fixed ftz rm (r.1.word t i j).toNat (terms i j)
        (r.1.setWord t i j (BitVec.ofNat 32 x.bits), r.2.join x.flags)) r) (m, {})

/-! ### Shape records (R74) -/

/-- Fields of a shape record. -/
def shCols (h : Word) : Nat := bitsOf h.toNat 19 0
def shRows (h : Word) : Nat := bitsOf h.toNat 39 20
def shLd (h : Word) : Nat := bitsOf h.toNat 55 40
def shTrn (h : Word) : Bool := h.getLsbD 56
def shFsl (h : Word) : Nat := bitsOf h.toNat 59 57
def shSpat (h : Word) : Nat := bitsOf h.toNat 61 60

/-- The full depth of a step (R232, R234). -/
def fullDepth (opcode : Nat) (t : EType) (spat : Nat) : Nat :=
  if opcode = 0xC1 then (if spat = 2 then 64 else 32)
  else match t with
    | .lns8 => 64
    | .fp64 => 4
    | _ => 16

/-- Whether an instruction accepts an element type (R233). -/
def stepTypeOk (opcode : Nat) (t : EType) : Bool :=
  match opcode with
  | 0xC0 => t == .bf16 || t == .fp16 || t == .fp64
  | 0xC1 => t == .bf16
  | _ => t == .lns8

/-- Data and scale offsets of a B value (R231). -/
def bOffset (b : Word) : Nat := bitsOf b.toNat 14 0
def bScale (b : Word) : Nat := bitsOf b.toNat 46 32

/-- Whether a B value is well formed for K rows (R231, R234). -/
def bOk (b : Word) (k esize : Nat) (scaled : Bool) : Bool :=
  bitsOf b.toNat 63 47 == 0 && bitsOf b.toNat 31 15 == 0 && bOffset b % 32 == 0 && bOffset b + k * esize ≤ 32768 &&
  (!scaled || bScale b + 1 + k ≤ 32768)

/-- The shape check of a step (R234). -/
def shapeOk (opcode : Nat) (hA hB : Word) (fsA fsB : Nat) (b : Word) (tile : Nat) : Bool :=
  let t := slotType fsA
  let k := fullDepth opcode t (shSpat hA)
  fsA % 32 == fsB % 32 && stepTypeOk opcode t &&
  !(opcode == 0xC1 && (slotScaled fsA || slotScaled fsB)) &&
  (if opcode = 0xC1 then shSpat hA == 1 || shSpat hA == 2 else shSpat hA == 0) && shSpat hB == 0 &&
  shCols hA == shRows hB && shCols hA != 0 && shCols hA ≤ k &&
  1 ≤ shRows hA && shRows hA ≤ 32 && 1 ≤ shCols hB && shCols hB ≤ 32 &&
  !(t == .fp64 && tile % 2 == 1) && bOk b k t.bytes (slotScaled fsB)

/-- An element of the A block (R230). -/
def blockElem (t : EType) (block : List Lanes) (i k : Nat) : Nat :=
  let per := 8 / t.bytes
  bitsOf ((block.getD (k / per) []).at i).toNat (8 * t.bytes * (k % per) + 8 * t.bytes - 1) (8 * t.bytes * (k % per))

/-- The logical k of a stored value of a sparse row (R232). -/
def sparseIndex (spat meta_ v : Nat) : Nat :=
  if spat = 1 then 4 * (v / 2) + meta_ / 2 ^ (2 * v) % 4 else 4 * v + meta_ / 2 ^ (2 * v) % 4

/-- rowA and colA in a scale register of the block (R230). -/
def blockScales (block : List Lanes) (at_ i k : Nat) : Nat × Nat :=
  let r := block.getD at_ []
  (bitsOf (r.at i).toNat 7 0, if k < 32 then bitsOf (r.at k).toNat 15 8 else bitsOf (r.at (k - 32)).toNat 23 16)

/-- A byte and an element of a column store (R229, R231). -/
def colByte (c : Store Byte) (j o : Nat) : Nat := (Store.getOr c (32768 * j + o) 0).toNat
def colElem (c : Store Byte) (esize j o : Nat) : Nat :=
  (List.range esize).foldl (fun n i => n + colByte c j (o + i) * 256 ^ i) 0

/-- The B element (k, j) and its two scales (R231). -/
def bElem (c : Store Byte) (t : EType) (b : Word) (k j : Nat) : Nat := colElem c t.bytes j (bOffset b + k * t.bytes)
def bScales (c : Store Byte) (scaled : Bool) (b : Word) (k j : Nat) : Nat × Nat :=
  if scaled then (colByte c j (bScale b + 1 + k), colByte c j (bScale b)) else (scaleOne, scaleOne)

/-- The terms of an accepted step's element (R230 to R234). -/
def MxStep.terms (x : MxStep) (c : Store Byte) (i j : Nat) : List Term :=
  let t := slotType x.fsA
  let spat := shSpat x.a.shape
  let n := if x.a.opcode = 0xC1 then 16 else fullDepth x.a.opcode t spat
  let meta_ := ((x.a.block.getD 4 []).at i).toNat % 2 ^ 32
  (List.range n).filterMap fun v =>
    let k := if x.a.opcode = 0xC1 then sparseIndex spat meta_ v else v
    if k ≥ shCols x.a.shape then none
    else
      let sa := if slotScaled x.fsA then blockScales x.a.block (if x.a.opcode = 0xC2 then 8 else 4) i k else (scaleOne, scaleOne)
      let sb := bScales c (slotScaled x.fsB) x.b k j
      some (termOf (elemOf t x.ftz (blockElem t x.a.block i v)) (elemOf t x.ftz (bElem c t x.b k j))
        (match t.kind with
          | .flt f => f.fbits
          | _ => 0) [sa.1, sa.2, sb.1, sb.2])

/-- The effect of an accepted step on the tiles (R234). -/
def MxStep.apply (x : MxStep) (c : Store Byte) (m : Tiles) : Tiles × Flags :=
  let t := slotType x.fsA
  stepTile m x.tile (t == .fp64) (t == .lns8 || slotScaled x.fsA || slotScaled x.fsB) x.ftz (.ofCode x.rnd)
    ((List.range (shRows x.a.shape)).filter fun i => x.a.act.getLsbD i) (shCols x.shapeB) (x.terms c)

/-! ### QUANT (R244) -/

/-- The least e with 2^e at least m times 2^k, for m > 0. -/
def ceilLog2 (m : Nat) (k : Int) : Int := if m = 2 ^ Nat.log2 m then Nat.log2 m + k else Nat.log2 m + 1 + k

/-- The greater magnitude of two finite values. -/
def maxMag (a b : Val) : Val :=
  match a, b with
  | .num _ m e, .num _ p g => if Val.cmp (.num false m e) (.num false p g) < 0 then b else a
  | _, _ => a

/-- The exponent of the scale that QUANT derives from the greatest magnitude, or none for a zero one. -/
def quantExp (v : Val) : Option Int :=
  match v with
  | .num _ m e => if m = 0 then none else some (max (-14) (min 16 (ceilLog2 m e - 3)))
  | _ => none

/-- The scale code of QUANT. -/
def quantCode (e : Option Int) : Nat :=
  match e with
  | none => scaleOne
  | some e => 8 * (e + 15).toNat

/-- A value divided by a power of 2. -/
def Val.down (v : Val) (k : Int) : Val :=
  match v with
  | .num n m e => .num n m (e - k)
  | v => v

/-- The 1,088 bytes that QUANT writes for a slot, and the flags (R244). -/
def quantize (m : Tiles) (t : Nat) (rm : Rnd) (ftz : Bool) : List Byte × Flags :=
  let idx := List.range 32
  let d (i j : Nat) : Val := Fmt.fp32.operand ftz (m.word t i j).toNat
  let fin (v : Val) : Option Val := match v with
    | .num n m e => some (.num n m e)
    | _ => none
  let greatest (vs : List Val) : Val := (vs.filterMap fin).foldl maxMag (.num false 0 0)
  let r := idx.map fun i => quantExp (greatest (idx.map (d i)))
  let rOf (i : Nat) : Int := (r.getD i none).getD 0
  let c := idx.map fun j => quantExp (greatest (idx.map fun i => (d i j).down (rOf i)))
  let cOf (j : Nat) : Int := (c.getD j none).getD 0
  let out := idx.flatMap fun i => idx.map fun j => toLns rm ((d i j).down (rOf i + cOf j))
  (out.map (fun x => BitVec.ofNat 8 x.bits) ++ r.map (fun e => BitVec.ofNat 8 (quantCode e)) ++ c.map (fun e => BitVec.ofNat 8 (quantCode e)),
   out.foldl (fun f x => f.join x.flags) {})

end Sys2Proof.Machine
end

