-- ==== Sys2Proof/Machine/Matrix.lean ====
section
/-!
DEFINITION. Matrix.lean: matrix steps, gangs, power ramps, accumulator instructions, and the macro-operations of the sequencer
(R229 to R250).
-/
namespace Sys2Proof.Machine

/-! ### The unit's states (R240) -/

/-- A quadrant's unit set. -/
def State.setMx (s : State) (quad : Nat) (u : MxUnit) : State := { s with mx := Store.set s.mx quad u }

/-- The level of a unit in quarters at a clk. -/
def MxUnit.levelAt (u : MxUnit) (cyc : Nat) : Nat :=
  match u.st with
  | .cold => 0
  | .rampup => min 4 (u.level + 1 + (cyc - u.since) / 8)
  | .busy | .held => 4
  | .rampdown => 3 - min 3 ((cyc - u.since) / 8)

/-- Clk of a step (R235). -/
def MxStep.clks (x : MxStep) : Nat := if x.fsA % 32 = 0 then 16 else 8

/-- The unit starts its oldest step, whose first clk is given (R240). -/
def State.startStep (s : State) (quad clk : Nat) : State :=
  let u := s.mxUnit quad
  match u.steps with
  | [] => s
  | x :: _ =>
    (s.setMx quad { u with st := .busy, since := clk, hint := u.hint - 1, seq := none }).scheduleAt (clk + x.clks) (.matrixStepEnd quad)

/-- The unit ramps up from its present level, from a clk on (R240). -/
def State.rampUp (s : State) (quad clk : Nat) : State :=
  let u := s.mxUnit quad
  let lvl := if u.st = .rampdown then u.levelAt (clk - 1) else 0
  (s.setMx quad { u with st := .rampup, since := clk, level := lvl }).scheduleAt (clk + 8 * (4 - lvl)) (.rampupEnd quad)

/-- The unit ramps down from a clk on (R240). -/
def State.rampDown (s : State) (quad clk : Nat) : State :=
  (s.setMx quad { s.mxUnit quad with st := .rampdown, since := clk }).scheduleAt (clk + 32) (.rampdownEnd quad)

/-- The unit holds from a clk on (R240). -/
def State.hold (s : State) (quad clk : Nat) : State :=
  (s.setMx quad { s.mxUnit quad with st := .held, since := clk }).scheduleAt (clk + 256) (.heldTimeout quad)

/-- Whether an operation whose turn it is has a step for its quadrant's unit: MXGEMM with its descriptor read, RMUL with a lane's outputs
to do, QUANT, or HASH with its query read (R240, R245). -/
def State.hasStep (s : State) (o : EngineOp) : Bool :=
  o.status == 0 &&
  (o.opcode == 0xD1 && 1 < o.work.length ||
   (s.headOp o).map (·.token) == some o.token &&
    (o.opcode == 0xC9 && o.desc.isSome || o.opcode == 0xD6 && 3 < o.work.length || o.opcode == 0xCA))

/-- Whether a step of the sequencer waits for a quadrant's unit (R240). -/
def State.sequencing (s : State) (quad : Nat) : Bool := s.ops.any fun o => quadOf o.unit == quad && s.hasStep o

/-- The sequencer's operations with a step for a quadrant's unit look at it again (R245). -/
def State.wakeSeq (s : State) (quad : Nat) : State :=
  (s.ops.filter fun o => quadOf o.unit == quad && s.hasStep o).foldl (fun s o => s.wantMacro 0 o.token) s

/-- What follows a step that has ended, the clk after which is given: the next one, an accepted step before one of the sequencer, or
holding, or the ramp down (R240, R245). -/
def State.afterStep (s : State) (quad clk : Nat) : State :=
  let u := s.mxUnit quad
  if !u.steps.isEmpty then s.startStep quad clk
  else if s.sequencing quad then (s.setMx quad { u with since := clk, seq := none }).wakeSeq quad
  else if u.hint > 0 then s.hold quad clk
  else s.rampDown quad clk

/-- Whether an operation takes turns on its quadrant's matrix unit (R245). -/
def EngineOp.onUnit (op : EngineOp) : Bool := [0xC9, 0xCA, 0xD6].contains op.opcode

/-- Whether the sequencer's running step is of an operation. -/
def MxUnit.runs (u : MxUnit) (op : EngineOp) : Bool := (u.seq.map (·.1)) == some op.token

/-- A matrix unit that an operation leaves goes on to what follows (R240). -/
def State.unitFreed (s : State) (op : EngineOp) : State :=
  let quad := quadOf op.unit
  let u := s.mxUnit quad
  if u.runs op then (s.setMx quad { u with seq := none }).afterStep quad s.cyc
  else if u.st = .busy ∧ u.seq = none ∧ u.steps = [] then s.afterStep quad u.since
  else s

/-- A step accepted at a clk by a quadrant's unit (R235, R240): it starts in the next clk where the unit is BUSY or HELD and free. -/
def State.acceptStep (s : State) (clk quad : Nat) (x : MxStep) : State :=
  let u := s.mxUnit quad
  let s := s.setMx quad { u with steps := u.steps ++ [x] }
  match u.st with
  | .cold | .rampdown => s.rampUp quad (clk + 1)
  | .held => s.startStep quad (clk + 1)
  | .busy => if u.steps.isEmpty && u.seq.isNone then s.startStep quad (clk + 1) else s
  | .rampup => s

/-- A tile's flags entered in a group's matrix status (R61, R246). -/
def Group.raiseMx (g : Group) (f : Flags) : Group := { g with mxFlags := g.mxFlags ||| mxFlagsOf f }

/-- The clk up to which a quadrant is being zeroed (R84). -/
def State.quadBusy (s : State) (quad : Nat) : Nat := Store.getOr s.mm.quadBusy quad 0

/-- MATRIX_STEP_END (R235, R240): the tile is written when the step's last clk is over, and not while the quadrant is being zeroed
(R84). -/
def execMatrixStepEnd (quad : Nat) (s : State) : Res :=
  let u := s.mxUnit quad
  match u.steps with
  | [] => .next s
  | x :: r =>
    let stop := u.since + x.clks
    if u.st ≠ .busy ∨ u.seq ≠ none ∨ s.cyc < stop then .next s
    else if s.cyc < s.quadBusy quad then .next (s.scheduleAt (s.quadBusy quad) (.matrixStepEnd quad))
    else
      let s := s.setMx quad { u with steps := r }
      let s :=
        if (s.grp x.unit).serial ≠ x.serial then s
        else
          s.modGrp x.unit fun g =>
            let (m, f) := x.apply (Store.getOr s.mm.column quad []) g.tiles
            ({ g with tiles := m }).raiseMx f
      .next ((s.afterStep quad stop).reap x.unit)

/-- RAMPUP_END (R240). -/
def execRampupEnd (quad : Nat) (s : State) : Res :=
  let u := s.mxUnit quad
  let stop := u.since + 8 * (4 - u.level)
  .next (if u.st ≠ .rampup ∨ s.cyc < stop then s
    else if !u.steps.isEmpty then s.startStep quad stop
    else if s.sequencing quad then (s.setMx quad { u with st := .busy, since := stop }).wakeSeq quad
    else s.hold quad stop)

/-- RAMPDOWN_END (R240). -/
def execRampdownEnd (quad : Nat) (s : State) : Res :=
  let u := s.mxUnit quad
  .next (if u.st = .rampdown ∧ u.since + 32 ≤ s.cyc then s.setMx quad { u with st := .cold, since := u.since + 32 } else s)

/-- HELD_TIMEOUT (R240). -/
def execHeldTimeout (quad : Nat) (s : State) : Res :=
  let u := s.mxUnit quad
  .next (if u.st = .held ∧ u.since + 256 ≤ s.cyc then s.rampDown quad (u.since + 256) else s)

/-- HINT_EFFECT (R240, R241): the hint count is set; the unit leaves COLD, or HELD when the count is 0. -/
def execHintEffect (unit count : Nat) (s : State) : Res :=
  let quad := quadOf unit
  let u := s.mxUnit quad
  let s := s.setMx quad { u with hint := min count 65535 }
  .next (match u.st with
    | .cold => s.rampUp quad s.cyc
    | .held => if count = 0 then s.rampDown quad s.cyc else s
    | _ => s)

/-- The entry of MXHINT: its operands, marks and conditions. -/
def infoMxhint (a : Opnd) : Info :=
  { opcode := 0xC8, a := some { op := a, lit := .u32 }, legal := (Instr.mxhint a).wf }

/-- MXHINT (R241). -/
def execMxhint (a : Opnd) (s : State) : Res :=
  run (infoMxhint a) s fun o t =>
    (t.scheduleAt (o.orig.cyc + 32) (.hintEffect s.cur.unit (min (o.a.at 0).toNat 65535))).done o

/-! ### Steps (R230 to R239) -/

/-- The format slot that a shape register names, as an operation of the path reads it (R63, R321). -/
def State.shapeSlot (s : State) (g : Group) (act : LaneMask) (h : Word) : Nat :=
  s.fslot g (LaneMask.lowest act) (shFsl h)

/-- The registers of a step's block with its scale or metadata register (R230). -/
def stepBlock (opcode fsA : Nat) (a : Opnd) : List RegCode :=
  match a with
  | .greg n =>
    let len := (if opcode = 0xC2 then 8 else 4) + (if opcode = 0xC1 || slotScaled fsA then 1 else 0)
    (List.range len).map fun i => 0x30 + n.val + i
  | _ => []

/-- COUNT and members of a gang word (R237). -/
def gangCount (w : Word) : Nat := bitsOf w.toNat 38 36
def gangMember (w : Word) (m : Nat) : Nat := bitsOf w.toNat (6 * m + 5) (6 * m)
def gangMembers (w : Word) : List Nat := (List.range (gangCount w)).map (gangMember w)

/-- The step that a group issues, with the A operand that it has itself. -/
def Ops.stepOf (o : Ops) (opcode hA hB tile : Nat) (block : List RegCode) : MxStep :=
  let g := o.orig.g
  let shA := Store.getOr g.shapes hA 0
  let shB := Store.getOr g.shapes hB 0
  { stamp := o.orig.stamp, unit := g.unit, serial := g.serial
    a := { opcode := opcode, block := block.map g.regVal, shape := shA, act := o.act }
    tile := tile, shapeB := shB, fsA := o.orig.shapeSlot g o.act shA, fsB := o.orig.shapeSlot g o.act shB, b := o.b.at 0
    rnd := bitsOf o.um.toNat 12 10, ftz := modeFtz o.um }

/-- Whether a step passes the shape check (R234). -/
def MxStep.shapeOk (x : MxStep) : Bool := Sys2Proof.Machine.shapeOk x.a.opcode x.a.shape x.shapeB x.fsA x.fsB x.b x.tile

/-- The slots of a step's tile, by the type of its own B operand, which a follower knows before its leader's step comes (R234, R238). -/
def MxStep.slots (x : MxStep) : List Nat := if x.fsB % 32 = 0 then [x.tile, x.tile + 1] else [x.tile]

/-- Whether a named member slot of a gang holds no group of a group's kernel (R238). -/
def State.gangBroken (s : State) (g : Group) (w : Word) : Bool :=
  (gangMembers w).any fun m => !(s.groups.any fun x => x.unit == 64 * g.core + m && x.kind == .user && x.kernel == g.kernel)

/-- The arrivals at a latch. -/
def State.latch (s : State) (core leader : Nat) : List GangArrival := s.gangs.filter fun a => a.core == core && a.leader == leader

/-- A ganged step arrives and waits; the rendezvous completes with the last member (R238). -/
def Ops.gangArrive (o : Ops) (x : MxStep) (isLeader : Bool) : State :=
  let g := o.orig.g
  let tok := o.orig.stamp
  let a : GangArrival := { core := g.core, leader := gangMember g.gang 0, path := o.orig.cur.path, token := tok, gang := g.gang
                           clk := o.orig.cyc, isLeader := isLeader, step := x }
  let t := (o.waitAt .gang 1 tok).tick
  let t := { t with gangs := t.gangs ++ [a] }
  if t.gangComplete a then t.scheduleAt (o.orig.cyc + 4) (.gangStepAccept g.core) else t

/-- The registers of field A of a step, and whether the lane is in a gang (R230, R237). -/
def State.blockOfStep (s : State) (opcode : Nat) (h : Fin 8) (a : Opnd) : List RegCode :=
  stepBlock opcode (s.shapeSlot s.g (s.g.active s.cur.path) (Store.getOr s.g.shapes h.val 0)) a

/-- The entry of MMA, MMAS and MMAL; an MMA with type 0 writes two tiles. A follower that names a block raises GANG, whatever the state of
its registers (R238, R272), though not before BADREG (R37). A step without a gang and without an active lane has no effect (R234). -/
def stepInfo (i : Instr) (opcode : Nat) (h hB : Fin 8) (tile : Fin 4) (a b : Opnd) (s : State) : Info :=
  let act := s.g.active s.cur.path
  let slot := if a = .zero then hB else h
  let fsOwn := s.shapeSlot s.g act (Store.getOr s.g.shapes slot.val 0)
  let last := if opcode = 0xC0 ∧ fsOwn % 32 = 0 then tile.val + 1 else tile.val
  { opcode := opcode, a := some { op := a }, b := some { op := b, lit := .ty .u64 }, blockA := (s.blockOfStep opcode h a).drop 1
    noCheckA := gangCount s.g.gang ≠ 0 && gangMember s.g.gang 0 ≠ s.g.slot, blocking := gangCount s.g.gang ≠ 0, badTile := last ≥ s.g.acc
    idle := gangCount s.g.gang = 0, legal := i.wf }

/-- MMA, MMAS and MMAL. -/
def stepOp (i : Instr) (opcode : Nat) (h hB : Fin 8) (tile : Fin 4) (a b : Opnd) (s : State) : Res :=
  let g := s.g
  let ganged := gangCount g.gang ≠ 0
  run (stepInfo i opcode h hB tile a b s) s fun o t =>
    let x := o.stepOf opcode h.val hB.val tile.val (s.blockOfStep opcode h a)
    if o.stage = 1 ∧ o.orig.p.answer.isSome then (t.modP fun q => { q with answer := none }).done o
    else if !ganged then
      if a = .zero then o.trap 0x17
      else if !x.shapeOk then o.trap 0x0C
      else if o.act = 0 then t.done o
      else if o.orig.waitOver g s.p { why := .stepRoom x.slots, keep := true } then ((t.acceptStep o.orig.cyc g.quadrant x).tick).done o
      else o.stallAt (.stepRoom x.slots)
    else
      let isLeader := gangMember g.gang 0 = g.slot
      let others := o.orig.latch g.core (gangMember g.gang 0)
      if isLeader = decide (a = .zero) then o.trap 0x17
      else if !g.hdl.isEmpty then o.trap 0x17
      else if others.any (fun r => r.gang != g.gang) || o.orig.gangBroken g g.gang then o.trap 0x17
      else if o.orig.waitOver g s.p { why := .stepRoom x.slots, keep := true } then o.gangArrive x isLeader
      else o.stallAt (.stepRoom x.slots)

/-- MMA (R233, R234). -/
def execMma (h g : Fin 8) (t : Fin 4) (a b : Opnd) (s : State) : Res := stepOp (.mma h g t a b) 0xC0 g h t a b s
/-- MMAS (R232 to R234). -/
def execMmas (h g : Fin 8) (t : Fin 4) (a b : Opnd) (s : State) : Res := stepOp (.mmas h g t a b) 0xC1 g h t a b s
/-- MMAL (R233, R234). -/
def execMmal (h g : Fin 8) (t : Fin 4) (a b : Opnd) (s : State) : Res := stepOp (.mmal h g t a b) 0xC2 g h t a b s

/-- A waiting member takes a group trap and its arrival is withdrawn (R238). -/
def State.gangTrap (s : State) (r : GangArrival) (cause : Nat) : State :=
  let s := { s with gangs := s.gangs.filter fun x => x.token != r.token }
  if (s.grp r.step.unit).serial ≠ r.step.serial then s
  else s.trapGroupAt r.step.unit r.path cause ((s.grp r.step.unit).pathPc r.path)

/-- A member of a complete rendezvous accepts its step with the leader's A operand, or traps (R238). -/
def State.gangAccept (s : State) (clk : Nat) (l m : GangArrival) : State :=
  let x : MxStep := { m.step with a := l.step.a, fsA := l.step.fsA }
  if m.step.a.opcode ≠ l.step.a.opcode then s.gangTrap m 0x17
  else if !x.shapeOk then s.gangTrap m 0x0C
  else
    let s := { s with gangs := s.gangs.filter fun r => r.token != m.token }
    let s := s.modGrp x.unit fun g => g.modPath m.path fun q => { q with answer := some [] }
    s.acceptStep clk (quadOf x.unit) x

/-- The latches of a core: waiting members of a broken gang trap; a rendezvous has its steps accepted 4 clk after it is complete, the
lower slot first (R238). -/
def State.gangLatch (s : State) (core leader : Nat) : State :=
  let rs := s.latch core leader
  match rs with
  | [] => s
  | r :: _ =>
    if s.gangBroken (s.grp r.step.unit) r.gang then rs.foldl (fun s r => s.gangTrap r 0x17) s
    else if !s.gangComplete r then s
    else
      match rs.find? (·.isLeader) with
      | none => s
      | some l =>
        let due := (rs.map fun m => m.clk).foldl max 0 + 4
        let order := (List.range 64).filterMap fun n => rs.find? fun m => m.step.unit % 64 == n
        if s.cyc < due then s else order.foldl (fun s m => s.gangAccept due l m) s

/-- GANG_STEP_ACCEPT (R238). -/
def execGangStepAccept (core : Nat) (s : State) : Res :=
  .next ((((s.gangs.filter fun a => a.core == core).map (·.leader)).eraseDups).foldl (fun s l => s.gangLatch core l) s)

/-- Whether a gang word is one that GANG accepts for a group's slot (R237). -/
def gangOk (w : Word) (slot : Nat) : Bool :=
  let n := gangCount w
  let ms := gangMembers w
  bitsOf w.toNat 63 39 == 0 && n != 1 && n != 7 && ((List.range 6).all fun m => m < n || gangMember w m == 0) &&
  ms.eraseDups.length == ms.length && ms.all (fun m => m % 16 != 15) && (n == 0 || ms.contains slot)

/-- The entry of GANG: its operands, marks and conditions. -/
def infoGang (a : Opnd) : Info :=
  { opcode := 0xC7, a := some { op := a, lit := .ty .u64 }, legal := (Instr.gang a).wf }

/-- GANG (R237). -/
def execGang (a : Opnd) (s : State) : Res :=
  run (infoGang a) s fun o t =>
    let w := o.a.at 0
    if gangOk w o.orig.g.slot then (t.modG fun g => { g with gang := w }).done o else o.trap 0x17

/-! ### Accumulator instructions (R236) -/

/-- The slots of an accumulator instruction's tile. -/
def accSlots (w : Bool) (t : Fin 4) : List Nat := if w then [t.val, t.val + 1] else [t.val]

/-- An accumulator instruction stalls in place until its tile is free of steps (R235, R236, R245). -/
def Ops.onTiles (o : Ops) (ts : List Nat) (k : State) : State :=
  if o.orig.waitOver o.orig.g o.orig.p { why := .tiles ts, keep := true } then k else o.stallAt (.tiles ts)

/-- The entry of ACCZ: its operands, marks and conditions. -/
def infoAccz (w : Bool) (t : Fin 4) (s : State) : Info :=
  { opcode := 0xC3, badTile := (accSlots w t).any (· ≥ s.g.acc), legal := (Instr.accz w t).wf }

/-- ACCZ. -/
def execAccz (w : Bool) (t : Fin 4) (s : State) : Res :=
  run (infoAccz w t s) s fun o u =>
    o.onTiles (accSlots w t) ((u.modG fun g => { g with tiles := (accSlots w t).foldl (fun m n => Store.set m n []) g.tiles }).done o)

/-- The entry of ACCRD: its operands, marks and conditions. -/
def infoAccrd (d : Opnd) (w : Bool) (t : Fin 4) (b : Opnd) (s : State) : Info :=
  { opcode := 0xC4, b := some { op := b, lit := .ty .u64 }, dst := some d, badTile := (accSlots w t).any (· ≥ s.g.acc)
    legal := (Instr.accrd d w t b).wf }

/-- ACCRD. -/
def execAccrd (d : Opnd) (w : Bool) (t : Fin 4) (b : Opnd) (s : State) : Res :=
  run (infoAccrd d w t b s) s fun o u =>
    let m : Tiles := o.orig.g.tiles
    let c := (o.b.at 0).toNat % (if w then 32 else 16)
    o.onTiles (accSlots w t) (u.finish o d (Lanes.of fun l =>
      if w then word (m.get64 t.val l c)
      else word ((m.word t.val l (2 * c + 1)).toNat * 2 ^ 32 + (m.word t.val l (2 * c)).toNat)) o.act)

/-- The entry of ACCWR: its operands, marks and conditions. -/
def infoAccwr (w : Bool) (t : Fin 4) (a b : Opnd) (s : State) : Info :=
  { opcode := 0xC5, a := some { op := a, lit := .ty .i64 }, b := some { op := b, lit := .ty .u64 }
    badTile := (accSlots w t).any (· ≥ s.g.acc), legal := (Instr.accwr w t a b).wf }

/-- ACCWR. -/
def execAccwr (w : Bool) (t : Fin 4) (a b : Opnd) (s : State) : Res :=
  run (infoAccwr w t a b s) s fun o u =>
    let c := (o.b.at 0).toNat % (if w then 32 else 16)
    o.onTiles (accSlots w t) ((u.modG fun g =>
      { g with tiles := (LaneMask.lanes o.act).foldl (fun (m : Tiles) l =>
          if w then m.set64 t.val l c (o.a.at l).toNat
          else (m.setWord t.val l (2 * c) ((o.a.at l).setWidth 32)).setWord t.val l (2 * c + 1) ((o.a.at l >>> 32).setWidth 32)) g.tiles }).done o)

/-- The code of a unit's state (R246). -/
def MxUnit.code (u : MxUnit) : Nat :=
  match u.st with
  | .cold => 0
  | .rampup => 1
  | .busy => 2
  | .held => 3
  | .rampdown => 4

/-- The entry of MXSTAT: its operands, marks and conditions. -/
def infoMxstat (d : Opnd) (sel : Fin 4) : Info :=
  { opcode := 0xCB, dst := some d, legal := (Instr.mxstat d sel).wf }

/-- MXSTAT (R246). -/
def execMxstat (d : Opnd) (sel : Fin 4) (s : State) : Res :=
  run (infoMxstat d sel) s fun o t =>
    let g := o.orig.g
    let u := o.orig.mxUnit g.quadrant
    let put (t : State) (v : Word) : State := t.finish o d (Lanes.uniform v) o.act
    if sel.val = 2 then
      put t (word (u.code + 8 * u.levelAt o.orig.cyc + 256 * (o.orig.acceptedSteps g).length + 65536 * u.hint))
    else if sel.val = 3 then put t g.gang
    else if !o.orig.waitOver g o.orig.p { why := .matrixIdle, keep := true } then o.stallAt .matrixIdle
    else put (if sel.val = 1 then t.modG fun g => { g with mxFlags := 0 } else t) (word g.mxFlags)

/-! ### Column-store loads and macro-operations (R242 to R245) -/

/-- The entry of CSLD, MXGEMM and QUANT. -/
def macroInfo (i : Instr) (opcode : Nat) (d a b : Opnd) (ta tb : EType) : Info :=
  { opcode := opcode, a := some { op := a, lit := .ty ta }, b := some { op := b, lit := .ty tb }, dst := some d, long := true
    legal := i.wf }

/-- CSLD, MXGEMM and QUANT. -/
def macroOp (i : Instr) (opcode : Nat) (d a b : Opnd) (ta tb : EType) (args : Ops → List Word) (s : State) : Res :=
  run (macroInfo i opcode d a b ta tb) s fun o t =>
    if o.act = 0 then t.done o else o.accept t 2 opcode d (args o)

/-- CSLD (R242). -/
def execCsld (d a b : Opnd) (s : State) : Res := macroOp (.csld d a b) 0xC6 d a b .i64 .i64 (fun o => [o.a.at 0 + o.b.at 0]) s
/-- MXGEMM (R243). -/
def execMxgemm (d a b : Opnd) (s : State) : Res := macroOp (.mxgemm d a b) 0xC9 d a b .i64 .i64 (fun o => [o.a.at 0 + o.b.at 0]) s
/-- QUANT (R244). -/
def execQuant (d a b : Opnd) (s : State) : Res := macroOp (.quant d a b) 0xCA d a b .u64 .u64 (fun o => [o.a.at 0, o.b.at 0]) s

/-- The accumulator slots and kind of an operation's group; handler and curator groups have no tile and no column store (R229). -/
def State.opTiles (s : State) (op : EngineOp) : Nat := if (s.opGroup op).kind = .user then (s.opGroup op).acc else 0

/-- Whether an accepted step waits for the operation's unit or runs on it: the sequencer's next step comes after it (R245). -/
def State.stepsFirst (s : State) (op : EngineOp) : Bool := !(s.mxUnit (quadOf op.unit)).steps.isEmpty

/-- Whether a step that the operation's own group issued before it is still to be done: a CSLD writes after it has read (R247). -/
def State.olderSteps (s : State) (op : EngineOp) : Bool :=
  (s.mxUnit (quadOf op.unit)).steps.any fun x => x.serial == op.serial && x.stamp < op.token

/-- What becomes of an operation's turn on the unit: it waits; a step begins, which lasts some clk; or a step is over and has its effect
now. -/
inductive Turn where
  | wait
  | begun (clks : Nat)
  | over
  deriving DecidableEq, Repr

/-- A step of the sequencer on the unit, of some clk: ramp-up first where the unit is not BUSY or HELD, and accepted steps before it. At
its end an accepted step that waits starts (R240, R245). -/
def State.seqTurn (s : State) (op : EngineOp) (clks : Nat) : State × Turn :=
  let quad := quadOf op.unit
  let u := s.mxUnit quad
  match u.seq with
  | some (tok, stop) =>
    if tok = op.token ∧ stop ≤ s.cyc then ((s.setMx quad { u with since := stop, seq := none }).startStep quad stop, .over) else (s, .wait)
  | none =>
    if s.stepsFirst op then (s, .wait)
    else
      match u.st with
      | .cold | .rampdown => (s.rampUp quad s.cyc, .wait)
      | .rampup => (s, .wait)
      | .busy | .held =>
        (s.setMx quad { u with st := .busy, since := s.cyc, hint := u.hint - 1, seq := some (op.token, s.cyc + clks) }, .begun clks)

/-- An operation takes its turn on the unit: what it does when its step is over. -/
def State.onTurn (s : State) (op : EngineOp) (clks : Nat) (eff : State → State × UnitRes) : State × UnitRes :=
  match s.seqTurn op clks with
  | (s, .wait) => (s, .wait)
  | (s, .begun n) => (s, .more op.done n)
  | (s, .over) => eff s

/-- The column store of a quadrant with bytes of a slice set. -/
def setColumn (c : Store Byte) (j o : Nat) (bs : List Byte) : Store Byte :=
  bs.zipIdx.foldl (fun c e =>
    let i := 32768 * j + o + e.2
    if e.1 = 0 then Store.del c i else Store.set c i e.1) c

/-- Fields of a CSLD descriptor (R242). -/
structure CsldDesc where
  fs : Nat
  trn : Bool
  rows : Nat
  src : Word
  stride : Word
  off : Nat
  cols : Nat
  soff : Nat
  scale : Word

/-- A CSLD descriptor, if R242 accepts it; slots are the operation's format slots. -/
def csldDesc? (slots : List Nat) (b : List Byte) : Option CsldDesc :=
  let d : CsldDesc :=
    { fs := slots.getD (fieldOf b 1 1 % 8) 0, trn := fieldOf b 2 1 % 2 = 1, rows := fieldOf b 4 4, src := word (fieldOf b 8 8)
      stride := word (fieldOf b 0x10 8), off := fieldOf b 0x18 4, cols := fieldOf b 0x1C 1, soff := fieldOf b 0x1E 2
      scale := word (fieldOf b 0x20 8) }
  let t := slotType d.fs
  if fieldOf b 0 1 = 3 ∧ fieldOf b 1 1 < 8 ∧ fieldOf b 2 1 < 2 ∧ fieldOf b 3 1 = 0 ∧ fieldOf b 0x1D 1 = 0 ∧ fieldOf b 0x28 24 = 0 ∧
      1 ≤ d.rows ∧ d.rows ≤ 32768 ∧ 1 ≤ d.cols ∧ d.cols ≤ 32 ∧ d.off % 32 = 0 ∧ !t.isInt ∧ !t.isPacked ∧
      d.off + d.rows * t.bytes ≤ 32768 ∧ (slotScaled d.fs = false ∨ d.soff + 1 + d.rows ≤ 32768) then some d else none

/-- The elements of one row of a CSLD, or the status. -/
def State.csldRow (s : State) (op : EngineOp) (d : CsldDesc) (k : Nat) : State × (List (List Byte) ⊕ Nat) :=
  let e := (slotType d.fs).bytes
  if d.trn then
    (List.range d.cols).foldl (fun (r : State × (List (List Byte) ⊕ Nat)) j =>
      match r with
      | (s, .inr st) => (s, .inr st)
      | (s, .inl l) =>
        match s.engRead op 0 (d.src + BitVec.ofNat 64 j * d.stride + word (k * e)) e with
        | (s, .inl b) => (s, .inl (l ++ [b]))
        | (s, .inr st) => (s, .inr st)) (s, .inl [])
  else
    match s.engRead op 0 (d.src + BitVec.ofNat 64 k * d.stride) (d.cols * e) with
    | (s, .inl b) => (s, .inl ((List.range d.cols).map fun j => (b.drop (j * e)).take e))
    | (s, .inr st) => (s, .inr st)

/-- The scales of a CSLD, rowB then colB, or the status; empty for an unscaled slot. -/
def State.csldScales (s : State) (op : EngineOp) (d : CsldDesc) : State × (List Byte ⊕ Nat) :=
  if slotScaled d.fs then s.engRead op 0 d.scale (d.rows + d.cols) else (s, .inl [])

/-- The next row of a CSLD (R242); the scales are written with the last. -/
def State.csldOne (s : State) (op : EngineOp) (d : CsldDesc) : State × UnitRes :=
  let k := op.done
  let quad := quadOf op.unit
  match s.csldRow op d k with
  | (s, .inr st) => (s, .fin k st)
  | (s, .inl es) =>
    let lastRow := k + 1 ≥ d.rows
    match (if lastRow then s.csldScales op d else (s, .inl [])) with
    | (s, .inr st) => (s, .fin k st)
    | (s, .inl sc) =>
      let c := es.zipIdx.foldl (fun c e => setColumn c e.2 (d.off + k * (slotType d.fs).bytes) e.1) (Store.getOr s.mm.column quad [])
      let c := if sc.isEmpty then c
        else (List.range d.cols).foldl (fun c j => setColumn c j d.soff ((sc.drop (d.rows + j)).take 1 ++ sc.take d.rows)) c
      ({ s with mm := { s.mm with column := Store.set s.mm.column quad c } }, if lastRow then .fin (k + 1) 0x01 else .more (k + 1) 1)

/-- Rows of a CSLD, one after another, up to a number. -/
def State.csldRows (s : State) (op : EngineOp) (d : CsldDesc) (n : Nat) : State × UnitRes :=
  match n with
  | 0 => (s, .more op.done 1)
  | n + 1 =>
    match s.csldOne op d with
    | (s, .more k _) => s.csldRows { op with done := k } d n
    | r => r

/-- The rows of a CSLD of one clk: 256 bytes into the column store (R249). -/
def State.csldUnit (s : State) (op : EngineOp) (d : CsldDesc) : State × UnitRes :=
  s.csldRows op d (max 1 (256 / (d.cols * (slotType d.fs).bytes)))

/-- Fields of an MXGEMM descriptor (R243). -/
structure GemmDesc where
  tile : Nat
  shA : Word
  shB : Word
  a : Word
  ascale : Word
  b : Word
  start : Nat

/-- K-slice of a dense step of a type. -/
def kStep (t : EType) : Nat := fullDepth 0xC0 t 0

/-- An MXGEMM descriptor, if R243 accepts it for a group with so many slots. -/
def gemmDesc? (slots : List Nat) (acc : Nat) (b : List Byte) : Option GemmDesc :=
  let d : GemmDesc :=
    { tile := fieldOf b 1 1, shA := word (fieldOf b 8 8), shB := word (fieldOf b 0x10 8), a := word (fieldOf b 0x18 8)
      ascale := word (fieldOf b 0x20 8), b := word (fieldOf b 0x28 8), start := fieldOf b 0x30 4 }
  let fsA := slots.getD (shFsl d.shA) 0
  let fsB := slots.getD (shFsl d.shB) 0
  let t := slotType fsA
  let last := if t == .fp64 || d.tile / 4 % 2 = 1 then d.tile % 4 + 1 else d.tile % 4
  if fieldOf b 0 1 = 4 ∧ d.tile < 8 ∧ ¬(d.tile / 4 = 1 ∧ d.tile % 2 = 1) ∧ fieldOf b 2 6 = 0 ∧ fieldOf b 0x34 12 = 0 ∧
      bitsOf d.shA.toNat 63 60 = 0 ∧ bitsOf d.shB.toNat 63 60 = 0 ∧ fsA % 32 = fsB % 32 ∧
      (stepTypeOk 0xC0 t || stepTypeOk 0xC2 t) ∧ shCols d.shA = shRows d.shB ∧ shCols d.shA ≠ 0 ∧
      1 ≤ shRows d.shA ∧ shRows d.shA ≤ 32 ∧ 1 ≤ shCols d.shB ∧ shCols d.shB ≤ 32 ∧ ¬(t = .fp64 ∧ d.tile % 2 = 1) ∧
      bOk d.b (shCols d.shA) t.bytes (slotScaled fsB) ∧ last < acc then some d else none

/-- A row of A's elements of one step, or the status. -/
def State.gemmRow (s : State) (op : EngineOp) (d : GemmDesc) (e i k0 n : Nat) : State × (List Nat ⊕ Nat) :=
  if shTrn d.shA then
    (List.range n).foldl (fun (r : State × (List Nat ⊕ Nat)) k =>
      match r with
      | (s, .inr st) => (s, .inr st)
      | (s, .inl l) =>
        match s.engRead op 0 (d.a + word (((k0 + k) * shLd d.shA + i) * e)) e with
        | (s, .inl b) => (s, .inl (l ++ [leNat b]))
        | (s, .inr st) => (s, .inr st)) (s, .inl [])
  else
    match s.engRead op 0 (d.a + word ((i * shLd d.shA + k0) * e)) (n * e) with
    | (s, .inl b) => (s, .inl ((List.range n).map fun k => fieldOf b (k * e) e))
    | (s, .inr st) => (s, .inr st)

/-- Every row of A of one step, or the status. -/
def State.gemmRows (s : State) (op : EngineOp) (d : GemmDesc) (e k0 n : Nat) : State × (List (List Nat) ⊕ Nat) :=
  (List.range (shRows d.shA)).foldl (fun (r : State × (List (List Nat) ⊕ Nat)) i =>
    match r with
    | (s, .inr st) => (s, .inr st)
    | (s, .inl l) =>
      match s.gemmRow op d e i k0 n with
      | (s, .inl row) => (s, .inl (l ++ [row]))
      | (s, .inr st) => (s, .inr st)) (s, .inl [])

/-- The type of an MXGEMM's elements, and the number of its steps (R243). -/
def GemmDesc.type (d : GemmDesc) (op : EngineOp) : EType := slotType (op.fslots.getD (shFsl d.shA) 0)
def GemmDesc.steps (d : GemmDesc) (op : EngineOp) : Nat := (shCols d.shA + kStep (d.type op) - 1) / kStep (d.type op)

/-- A step of an MXGEMM (R243); its flags are kept until it completes (R246). -/
def State.gemmUnit (s : State) (op : EngineOp) (d : GemmDesc) : State × UnitRes :=
  let fsA := op.fslots.getD (shFsl d.shA) 0
  let fsB := op.fslots.getD (shFsl d.shB) 0
  let t := d.type op
  let ks := kStep t
  let steps := d.steps op
  let n := op.done
  let k0 := n * ks
  let len := min ks (shCols d.shA - k0)
  match s.gemmRows op d t.bytes k0 len with
  | (s, .inr st) => (s, .fin n st)
  | (s, .inl rows) =>
    match (if slotScaled fsA then s.engRead op 0 d.ascale (32 + shCols d.shA) else (s, .inl [])) with
    | (s, .inr st) => (s, .fin n st)
    | (s, .inl sc) =>
      let ftz := modeFtz op.mode
      let c := Store.getOr s.mm.column (quadOf op.unit) []
      let terms (i j : Nat) : List Term := (List.range len).map fun k =>
        let sb := bScales c (slotScaled fsB) d.b (k0 + k) j
        let sa := if slotScaled fsA then (fieldOf sc i 1, fieldOf sc (32 + k0 + k) 1) else (scaleOne, scaleOne)
        termOf (elemOf t ftz ((rows.getD i []).getD k 0)) (elemOf t ftz (bElem c t d.b (k0 + k) j))
          (match t.kind with
            | .flt f => f.fbits
            | _ => 0) [sa.1, sa.2, sb.1, sb.2]
      let (m, f) := stepTile (s.opGroup op).tiles (d.tile % 4) (t == .fp64) (t == .lns8 || slotScaled fsA || slotScaled fsB) ftz
        (modeRnd op.mode) (List.range (shRows d.shA)) (shCols d.shB) terms
      let s := s.modGrp op.unit fun g => { g with tiles := m }
      let s := s.modOp op.token fun x => { x with work := [x.work.getD 0 0 ||| mxFlagsOf f] }
      (s, if n + 1 ≥ steps then .fin (n + 1) 0x01 else .more (n + 1) 0)

/-- QUANT as one step (R244). -/
def State.quantUnit (s : State) (op : EngineOp) : State × UnitRes :=
  let dst := op.args.getD 0 0
  let b := op.args.getD 1 0
  if dst.toNat % 64 ≠ 0 ∨ b.toNat ≥ 4 ∨ b.toNat ≥ s.opTiles op then (s, .fin 0 0x04)
  else
    let (bs, f) := quantize (s.opGroup op).tiles b.toNat (modeRnd op.mode) (modeFtz op.mode)
    match s.engWrite op 1 dst bs with
    | (s, some st) => (s, .fin 0 st)
    | (s, none) => (s.modOp op.token fun x => { x with work := [mxFlagsOf f] }, .fin 1 0x01)

/-- The next unit of an operation of the matrix class, its descriptor first read; none touches a quadrant that is being zeroed (R84). -/
def State.matrixUnit (s : State) (op : EngineOp) : State × UnitRes :=
  let acc := s.opTiles op
  if (s.opGroup op).kind ≠ .user then (s, .fin 0 0x04)
  else if s.cyc < s.quadBusy (quadOf op.unit) then (s, .wait)
  else if op.opcode = 0xCA then s.onTurn op 48 fun s => s.quantUnit op
  else
    match op.desc with
    | none =>
      match s.readDesc op with
      | (s, .inr st) => (s, .fin 0 st)
      | (s, .inl b) =>
        let start := if op.opcode = 0xC6 then (csldDesc? op.fslots b).map fun _ => 0 else (gemmDesc? op.fslots acc b).map (·.start)
        match start with
        | none => (s, .fin 0 0x04)
        | some n => (s.modOp op.token fun x => { x with desc := some b }, .more n 8)
    | some b =>
      if op.opcode = 0xC6 then
        match csldDesc? op.fslots b with
        | none => (s, .fin 0 0x04)
        | some d => if s.olderSteps op then (s, .wait) else s.csldUnit op d
      else
        match gemmDesc? op.fslots acc b with
        | none => (s, .fin 0 0x04)
        | some d =>
          if op.done ≥ d.steps op then (s, .fin op.done 0x01)
          else s.onTurn op (if d.type op = .fp64 then 16 else 8) fun s => s.gemmUnit op d

end Sys2Proof.Machine
end

