-- ==== Sys2Proof/Machine/Packet.lean ====
section
/-!
DEFINITION. Packet.lean: request packets, their start, order and completion (R252, R254, R366), message-signalled interrupts
(R256), and the replies and withdrawal of mailbox entries (R364).
-/
namespace Sys2Proof.Machine

/-! ### Interrupts (R256) -/

/-- The message of a queue interface's remapping entry, sent, made pending, or not sent (R256). -/
def State.signal (s : State) (q : Qi) : State :=
  let e := (Store.getOr s.irtes q.irte 0).toNat
  let func := bitsOf e 30 21
  let index := e % 2 ^ 11
  if e / 2 ^ 31 % 2 = 0 || func != q.func || index ≥ Config.msixEntries func then s
  else
    let m := Store.getOr s.msix func {}
    if m.masked.contains index then
      { s with msix := Store.set s.msix func { m with pending := if m.pending.contains index then m.pending else m.pending ++ [index] } }
    else { s with messages := (func, index) :: s.messages }

/-- MSIX_VECTOR_UNMASK (R256): a pending vector sends its message. -/
def execMsixVectorUnmask (func index : Nat) (s : State) : Res :=
  let m := Store.getOr s.msix func {}
  let s := { s with msix := Store.set s.msix func { masked := m.masked.filter (· != index), pending := m.pending.filter (· != index) } }
  .next (if m.pending.contains index then { s with messages := (func, index) :: s.messages } else s)

/-! ### Mailbox entries (R364) -/

/-- A mailbox entry freed: its generation advances. -/
def State.freeMail (s : State) (core index : Nat) : State :=
  let k := 16 * core + index
  { s with mail := Store.set s.mail core ((s.mailbox core).filter fun m => m.index != index)
           mailGen := Store.set s.mailGen k ((Store.getOr s.mailGen k 0 + 1) % 2 ^ 28) }

/-- The tag of an entry: index and generation (R364). -/
def State.mailTag (s : State) (core index : Nat) : Nat := index + 16 * Store.getOr s.mailGen (16 * core + index) 0

/-- A pending register of a group filled, wherever the group is (R364). -/
def State.fillHandle (s : State) (serial token : Nat) (r : RegCode) (v : Word) : State :=
  let fill (g : Group) : Group :=
    if g.serial = serial ∧ g.regState r = .pending token then g.writeReg r (Lanes.uniform v) (~~~0) else g
  { s with groups := s.groups.map fill, ctxs := s.ctxs.map fun c => { c with saved := c.saved.map fill } }

/-- Whether a core's curator group is that of the shipped firmware, and runs (R367, R371). -/
def State.firmwareServes (s : State) (core : Nat) : Bool :=
  let g := s.grp (64 * core + 63)
  s.mgmt.booted && g.st != .halted && g.paths.any fun q => (q.wait.map (·.why)) == some .firmware

/-- The event in which the shipped firmware serves a request code (R367); it names the entry by its tag. -/
def svcEvent (code core tag : Nat) : Instr :=
  match code with
  | 1 => .svcLaunch core tag
  | 2 => .svcKill core tag
  | 3 => .yieldctx core tag
  | 4 => .fwver core tag
  | _ => .svcNop core tag

/-- The shipped firmware of a core, if it runs there, serves every entry that waits (R363, R367). -/
def State.serveQueue (s : State) (core : Nat) : State :=
  if s.firmwareServes core then
    ((s.mailbox core).filter fun m => !m.taken).foldl (fun s m => s.schedule 64 (svcEvent m.code core (s.mailTag core m.index))) s
  else s

/-- The code address at which a group's lowest slice stands. -/
def Group.firstPc (g : Group) : Word := (g.slices.head?.map (·.pc)).getD 0

/-- The answer to an entry of the device's own: DONE resumes the group that a soft error has halted, unless a pre-emption holds it HALTED,
and any other reply retires it. A reply to a saved group is kept with the image (R364, R371). -/
def State.softReply (s : State) (m : Mail) (v : Word) : State :=
  let good := v.toNat % 256 = 1
  let mine (g : Group) : Bool := g.serial == m.serial && g.soft == .raised
  match s.groups.find? mine with
  | some g =>
    if good then
      let s := s.modGrp g.unit fun g => { g with soft := .none }
      let s := if g.kind != .curator && (s.ctx? g.ctx).any (·.saving) then s else s.enterPending g.unit
      s.serveQueue g.core
    else s.failGroup g.unit 0x18 4 g.firstPc
  | none =>
    let note (g : Group) : Group := if mine g then { g with soft := if good then .none else .refused } else g
    { s with ctxs := s.ctxs.map fun c => { c with saved := c.saved.map note } }

/-- The reply word of an entry delivered and the entry freed (R364, R365). -/
def State.replyMail (s : State) (core index : Nat) (v : Word) : State :=
  match (s.mailbox core).find? fun m => m.index == index with
  | none => s
  | some m =>
    let s := s.freeMail core index
    if m.code = 0x1F then s.softReply m v
    else
      let s := match m.dst with
        | some r => s.fillHandle m.serial m.token r v
        | none => s
      s.reap m.unit

/-- The reply to the entry that a tag names, if it still names one (R364). -/
def State.replyTag (s : State) (core tag : Nat) (v : Word) : State :=
  match (s.mailbox core).find? fun m => s.mailTag core m.index == tag with
  | some m => s.replyMail core m.index v
  | none => s

/-- The entries of a group withdrawn (R364). -/
def State.withdrawMail (s : State) (serial : Nat) : State :=
  s.mail.foldl (fun s e => (e.2.filter fun m => m.serial == serial).foldl (fun s m => s.freeMail e.1 m.index) s) s

/-- A new entry in the next free place of a core's mailbox (R363). -/
def State.addMail (s : State) (core : Nat) (m : Mail) : State :=
  let idx := ((List.range 16).find? fun i => !(s.mailbox core).any fun x => x.index == i).getD 0
  { s with mail := Store.set s.mail core (s.mailbox core ++ [{ m with index := idx, order := s.stamp }]) }.tick

/-! ### Packets (R254) -/

/-- The event that a packet's bytes ask for (R254). -/
def packetEvent (p : Packet) : Instr :=
  let f (off n : Nat) : Nat := fieldOf p.bytes off n
  let ctx : BitVec 32 := BitVec.ofNat 32 (f 8 4)
  let none_ : Bool := f 0x10 48 == 0
  let ok : Bool := f 1 1 / 4 == 0 && f 2 2 == 0
  let bad : Instr := .badpkt p.id
  if !ok then bad
  else
    match f 0 1 with
    | 1 => if f 0x10 2 < 4096 && f 0x13 45 == 0 then .create p.id ctx (BitVec.ofNat 16 (f 0x10 2)) (BitVec.ofNat 8 (f 0x12 1)) else bad
    | 2 => if none_ then .destroy p.id ctx else bad
    | 3 => if f 0x18 40 = 0 then .launch p.id ctx (word (f 0x10 8)) else bad
    | 4 => if f 0x18 40 = 0 then .killRequest p.id ctx (word (f 0x10 8)) else bad
    | 5 => if none_ then .preempt p.id ctx else bad
    | 6 => if none_ then .resume p.id ctx else bad
    | 7 => if none_ then .regionSync p.id ctx else bad
    | 8 =>
      let kind := f 0x10 1
      if 1 ≤ kind && kind ≤ 4 && f 0x11 7 == 0 && f 0x24 28 == 0 && (kind ≤ 2 || f 0x20 4 < 65536) then
        .inval p.id ctx (BitVec.ofNat 8 kind) (word (f 0x18 8)) (BitVec.ofNat 32 (f 0x20 4))
      else bad
    | 9 =>
      if f 0x10 2 < 4096 && f 0x12 1 < 4 && f 0x14 4 == 0 && f 0x20 32 == 0 then
        .qgrant p.id ctx (BitVec.ofNat 16 (f 0x10 2)) (BitVec.ofNat 8 (f 0x12 1)) (BitVec.ofNat 8 (f 0x13 1)) (word (f 0x18 8))
      else bad
    | 10 => if f 0x10 2 < 4096 && f 0x12 46 == 0 then .qrevoke p.id ctx (BitVec.ofNat 16 (f 0x10 2)) else bad
    | _ => bad

/-- Whether two packets stand in one order: the same interface, or the same posting group (R254, R366). -/
def Packet.sameRing (a b : Packet) : Bool := a.qi == b.qi && a.poster == b.poster && a.svc.isNone && b.svc.isNone

/-- Whether a packet's interface still starts packets (R252); a posted packet always starts. -/
def State.ringRuns (s : State) (p : Packet) : Bool :=
  match p.qi with
  | none => true
  | some q => (Store.getOr s.qis q {}).st == .enabled && !(Store.getOr s.qis q {}).closing

/-- The next packet of a ring that may start: no earlier one is unstarted, and with ORDER none is incomplete (R254). -/
def State.nextPacket (s : State) : Option Packet :=
  s.packets.find? fun p =>
    !p.started && s.ringRuns p && s.packets.all fun x => !(x.id < p.id && x.sameRing p) || (x.started && !p.order)

/-- Every packet that may start does. -/
def State.startPackets (s : State) (fuel : Nat) : State :=
  match fuel with
  | 0 => s
  | fuel + 1 =>
    match s.nextPacket with
    | none => s
    | some p =>
      let begin_ (x : Packet) : Packet := if x.id = p.id then { x with started := true } else x
      (State.schedule { s with packets := s.packets.map begin_ } 1 (packetEvent p)).startPackets fuel

/-- A packet read at its address and put in its ring (R252, R366). -/
def State.fetchPacket (s : State) (p : Packet) : State :=
  let s := s.touch p.pa 64
  let b := s.mm.bytes p.pa 64
  let q := { p with id := s.stamp, bytes := b, irq := fieldOf b 1 1 % 2 = 1, order := fieldOf b 1 1 / 2 % 2 = 1 }
  { s with packets := s.packets ++ [q] }.tick

/-- EN ← 0 takes effect once the started packets have completed (R252). -/
def State.closeQi (s : State) (n : Nat) : State :=
  let q := Store.getOr s.qis n {}
  if q.closing && !(s.packets.any fun p => p.qi == some n && p.started) then
    { s with qis := Store.set s.qis n { q with en := false, st := .disabled, closing := false }
             packets := s.packets.filter fun p => p.qi != some n }
  else s

/-- The number of a packet's interface; none has the number 8192. -/
def Packet.qiNum (p : Packet) : Nat := p.qi.getD 8192

/-- The reply to an SVC for which a packet was posted: YIELDCTX's is DONE, another's the packet's status (R367). -/
def svcReply (p : Packet) (status : Nat) : Word := if status = 1 ∨ fieldOf p.bytes 0 1 = 5 then 1 else word (status * 256 + 3)

/-- The status of a packet written and its interrupt signalled; a REVOKED interface's PASID writes nothing (R254, R255). -/
def State.tellStatus (s : State) (p : Packet) (status : Nat) : State :=
  let q := Store.getOr s.qis p.qiNum {}
  let writes : Bool := p.svc.isNone && (p.qi.isNone || q.st != .revoked)
  let s := if writes then s.store deviceUnit (p.pa + 4) (leBytes status 4) else s
  if writes && p.qi.isSome && p.irq then s.signal q else s

/-- A packet completes: its status is written, then its interrupt is signalled; packets behind it may start (R252, R254). -/
def State.completePacket (s : State) (id status : Nat) : State :=
  match s.packets.find? fun p => p.id == id with
  | none => s
  | some p =>
    let s := s.tellStatus p status
    let s := { s with packets := s.packets.filter fun x => x.id != id }
    let s := match p.svc with
      | some (core, tag) => s.replyTag core tag (svcReply p status)
      | none => s
    let s := match p.qi with
      | some n => s.closeQi n
      | none => s
    s.startPackets (s.packets.length + 1)

/-- The packet of an id, with the partition on whose contexts it acts. -/
def State.packetPart (s : State) (id : Nat) : Nat := ((s.packets.find? fun p => p.id == id).map (·.part)).getD 0

/-- BADPKT (R254). -/
def execBadpkt (pkt : Nat) (s : State) : Res := .next (s.completePacket pkt 2)

end Sys2Proof.Machine
end

