-- ==== Sys2Proof/Machine/Trap.lean ====
section
/-!
DEFINITION. Trap.lean: the registrar, handler groups, and the instructions and events that resume threads (R317 to R334).
-/
namespace Sys2Proof.Machine

/-! ### Filing (R318) -/

/-- The key under which a record is filed: the entry's bundle and the owner; none makes the record fatal (R318). -/
def State.fileKey (s : State) (r : TrapRec) : State × Option (Word × Nat) :=
  let sys : Option (Word × Nat) :=
    let e := Store.getOr (s.part r.part).system r.cause 0
    if e.getLsbD 0 && !e.getLsbD 1 && bitsOf e.toNat 4 2 == 0 then some (bundleOf e, 0) else none
  let table := ((s.kernel? r.kernel).map (·.eff.table)).getD 0
  if r.cause ≥ 32 then (s, none)
  else if table = 0 then (s, sys)
  else
    match s.loadVa (s.ctxSpace r.ctx) (table + word (8 * r.cause)) 8 .read with
    | (s, none) => (s, none)
    | (s, some b) =>
      let e := word (leNat b)
      if bitsOf e.toNat 4 2 ≠ 0 ∨ e.getLsbD 0 = false then (s, none)
      else if e.getLsbD 1 then (s, sys) else (s, some (bundleOf e, r.ctx))

/-- A folio forms: it takes no further record and waits for a handler slot (R319). -/
def State.formFolio (s : State) (part num : Nat) : State :=
  (s.modPart part fun p => { p with folios := p.folios.map fun f => if f.num = num then { f with st := 2 } else f }).schedule 0
    (.handlerPlacement part num)

/-- Whether a folio is the open one of a record's key (R318). -/
def Folio.opens (f : Folio) (r : TrapRec) (entry : Word) (owner : Nat) : Bool :=
  f.st == 1 && f.world == r.world && f.cause == r.cause && f.entry == entry && f.owner == owner && f.recs.length < 32

/-- A record put into its key's open folio, or into a new one, or left waiting when none is free (R318, R319). -/
def State.fileUnder (s : State) (r : TrapRec) (entry : Word) (owner : Nat) : State :=
  let p := s.part r.part
  let r := { r with filed := s.cyc }
  match p.folios.find? fun f => f.opens r entry owner with
  | some f =>
    let s := s.modPart r.part fun p =>
      { p with folios := p.folios.map fun x => if x.num = f.num then { x with recs := x.recs ++ [some r] } else x }
    let s := s.writeRecord r.part f.num f.recs.length r
    if f.recs.length = 31 then s.formFolio r.part f.num else s
  | none =>
    match (List.range folioCount).find? fun n => !p.folios.any fun f => f.num == n with
    | none => s.modPart r.part fun p => { p with unfiled := p.unfiled ++ [(dieOf r.core, r)] }
    | some n =>
      let f : Folio := { num := n, half := dieOf r.core, part := r.part, world := r.world, cause := r.cause, entry := entry, owner := owner
                         since := s.cyc, window := s.windowOf r, recs := [some r] }
      ((s.modPart r.part fun p => { p with folios := p.folios ++ [f] }).writeRecord r.part n 0 r).schedule (s.windowOf r)
        (.collectionWindow r.part n)

/-- A record filed, or its thread retired with a fatal record of reason 0 (R318). -/
def State.fileRecord (s : State) (r : TrapRec) : State :=
  match s.fileKey r with
  | (s, none) => (s.fatalRecord r 0).retireThread r
  | (s, some (e, owner)) => s.fileUnder r e owner

/-- Whether a record must be sent on to the other registrar half, which holds its key's open folio (R318). -/
def State.heldAcross (s : State) (r : TrapRec) : Bool :=
  match (s.fileKey r).2 with
  | some (e, owner) =>
    match (s.part r.part).folios.find? fun f => f.opens r e owner with
    | some f => f.half != dieOf r.core
    | none => false
  | none => false

/-- The registrar half that a record reaches. -/
def TrapRec.half (r : TrapRec) : Nat := if r.forwarded then 1 - dieOf r.core else dieOf r.core

/-- The order in which records that reach a half in one clk are filed: by origin core, slot and lane (R335). -/
def TrapRec.before (a b : TrapRec) : Bool := [a.core, a.slot, a.lane] < [b.core, b.slot, b.lane]

/-- Records in the order of their threads (R335). -/
def byThread (rs : List TrapRec) : List TrapRec :=
  rs.foldl (fun out r => out.takeWhile (fun q => !r.before q) ++ r :: out.dropWhile (fun q => !r.before q)) []

/-- The record that the event of a token files, which is taken from those on their way: of all that reach its half in the same clk, the
first in the order of R335; the token passes on to the record whose turn it was. -/
def State.nextFiling (s : State) (token : Nat) : Option (State × TrapRec) :=
  (s.filing.find? fun f => f.1 == token).bind fun e =>
    let same := s.filing.filter fun f => f.2.due == e.2.due && f.2.half == e.2.half
    (firstBy (fun (a b : Nat × TrapRec) => a.2.before b.2) same).map fun n =>
      let pass (f : Nat × TrapRec) : Nat × TrapRec := if f.1 = n.1 then (n.1, e.2) else f
      ({ s with filing := (s.filing.map pass).filter fun f => f.1 != token }, n.2)

/-- RECORD_FILED (R318, R335); a record that is sent on to the other half is filed 150 clk later (R334). -/
def execRecordFiled (token : Nat) (s : State) : Res :=
  match s.nextFiling token with
  | none => .next s
  | some (t, r) =>
    if !r.forwarded && t.heldAcross r then
      let r := { r with forwarded := true, due := r.due + 150 }
      .next ({ t with filing := t.filing ++ [(token, r)] }.scheduleAt r.due (.recordFiled token))
    else .next (t.fileRecord r)

/-- COLLECTION_WINDOW (R319). -/
def execCollectionWindow (part folio : Nat) (s : State) : Res :=
  .next (if (s.part part).folios.any fun f => f.num == folio && f.st == 1 && f.since + f.window ≤ s.cyc then s.formFolio part folio else s)

/-! ### Handler groups (R320) -/

/-- Cores in the order in which a handler slot is searched for (R320). -/
def coresFrom (core : Nat) : List Nat :=
  let gal := (List.range 12).map fun i => 12 * galleryOf core + i
  let die := (List.range 96).map fun i => 96 * dieOf core + i
  let far := (List.range 96).map fun i => 96 * (1 - dieOf core) + i
  core :: gal.filter (· != core) ++ die.filter (fun c => galleryOf c != galleryOf core) ++ far

/-- Allocated g registers of a quadrant's user and handler groups; those of a curator group are its slot's own (R114, log 12). -/
def State.quadRegs (s : State) (quad : Nat) : Nat :=
  ((s.quadGroups quad).filter fun g => g.kind != .curator).foldl (fun n g => n + g.alloc) 0

/-- Whether a handler group of a partition and world can take slot 15 of a quadrant (R320). -/
def State.handlerFits (s : State) (part wld core q : Nat) : Bool :=
  assignOk (Store.getOr s.mm.quadAssign (4 * core + q) 0) part wld && s.quadRegs (4 * core + q) + 64 ≤ 1536 &&
  !s.hasGrp (64 * core + 16 * q + 15)

/-- A handler group at creation (R320). -/
def handlerGroup (unit serial : Nat) (f : Folio) (cyc : Nat) : Group :=
  let n := f.recs.length
  let s0 : Word := 0xFFFD000000000000
  let vals : List Word := [s0, word n, word f.cause, 0, 0, 0, 0, 0]
  let lanes (x : Nat) : SliceMask := (maskOf fun l => l < n).extractLsb' (4 * x) 4
  { unit := unit, serial := serial, kind := .handler, ctx := f.owner, part := f.part, world := f.world
    gid := 0xFFFFFFFF, bid := 0xFFFFFFFF, cid := 0xFFFFFFFF, alloc := 64
    sregs := vals.zipIdx.map fun e => (e.2, { st := .full, val := e.1 })
    slices := (sliceIds.filter fun x => lanes x != 0).map fun x =>
      { idx := x, pc := f.entry, run := lanes x, gone := ~~~(lanes x), mode := 0x00006160 }
    paths := [{ id := 0 }], setSince := cyc, issueFrom := cyc + 48, lastIssue := cyc, xfer := serial
    bound := (List.range n).map fun l => (l, { folio := f.num, pos := l }) }

/-- HANDLER_PLACEMENT (R319, R320): until a slot is found the folio stays FORMING. -/
def execHandlerPlacement (part folio : Nat) (s : State) : Res :=
  match (s.part part).folios.find? fun f => f.num == folio && f.st == 2 with
  | none => .next s
  | some f =>
    match f.recs.head?.bind id with
    | none => .next s
    | some r =>
      let slots := (coresFrom r.core).flatMap fun c => [0, 1, 2].map fun q => (c, q)
      match slots.find? fun e => s.handlerFits part f.world e.1 e.2 with
      | none => .next (s.schedule 64 (.handlerPlacement part folio))
      | some (c, q) =>
        let u := 64 * c + 16 * q + 15
        let g := handlerGroup u s.stamp f s.cyc
        let s := { s with groups := s.groups ++ [g], stamp := s.stamp + 1 }.wantDrowsy u
        let s := s.modPart part fun p =>
          { p with folios := p.folios.map fun x => if x.num = folio then { x with st := 3, handler := some u } else x }
        match s.fetchAt g f.entry with
        | (s, .inl b) => .next (if b.entry then s else s.failHandler u)
        | (s, .inr _) => .next (s.failHandler u)

/-! ### HRET, HKILL, XRD and XWR -/

/-- Clk by the distance of two cores: the same, the same die, another die (R334). -/
def byDistance (a b same die other : Nat) : Nat := if a = b then same else if dieOf a = dieOf b then die else other

/-- The entry of HRET: its operands, marks and conditions. -/
def infoHret (a : Opnd) (s : State) : Info :=
  { opcode := 0x14, a := some { op := a, lit := .u32 }, legal := (Instr.hret a).wf && s.g.kind == .handler }

/-- HRET (R330, R331): each bound active lane resumes or kills its origin; the active lanes retire.
It is a release of the path's earlier accesses, which the resumed threads' accesses follow; it does not wait for them (log 21). -/
def execHret (a : Opnd) (s : State) : Res :=
  run (infoHret a s) s fun o t =>
    let g := o.orig.g
    let lanes := LaneMask.lanes o.act
    let recs := lanes.filterMap fun l => (t.boundRec g l).map fun r => (l, (o.a.at l).toNat, r)
    let read (t : State) : State := lanes.foldl (fun t l => (t.readBound g l).1) t
    if lanes.any fun l => (o.a.at l).toNat > 2 then o.trap 0x09
    else if recs.any fun e => e.2.1 < 2 && !codeOk e.2.2.pc then o.trap 0x0B
    else
      let t := recs.foldl (fun (t : State) e =>
        let r := e.2.2
        if e.2.1 = 2 then
          ((t.modKernel r.kernel fun k => { k with retired := k.retired + 1 }).voidBinding g.unit e.1).retireThread r
        else
          let tok := t.stamp
          let x : Resume := { token := tok, rec_ := r, skip := e.2.1 == 1 }
          let t := { t with resuming := t.resuming ++ [x] }
          ((t.scheduleAt (o.orig.cyc + byDistance g.core r.core 20 80 230) (.laneResumed tok)).tick).voidBinding g.unit e.1) (read t)
      let t := t.modG fun g =>
        ((g.modPathSlices s.cur.path fun x => { x with pc := nextBundle s.cur.pc }).modPath s.cur.path fun q => { q with buf := none }).retireLanes o.act
      o.release 3 (((t.fileWaiting g.part).settle g.unit o.orig.cyc).reap g.unit)

/-- The entry of HKILL: its operands, marks and conditions. -/
def infoHkill : Info :=
  { opcode := 0x15 }

/-- HKILL (R331): the origin of each active bound lane is retired with a fatal record of reason 3. -/
def execHkill (s : State) : Res :=
  run infoHkill s fun o t =>
    let g := o.orig.g
    let t := (LaneMask.lanes o.act).foldl (fun t l =>
      match t.readBound (t.grp g.unit) l with
      | (t, some r) => ((t.fatalRecord r 3).voidBinding g.unit l).retireThread r
      | (t, none) => t) t
    (t.fileWaiting g.part).done o

/-- Whether a word names a g or s register (R24). -/
def originSpec (v : Word) : Bool := 0x10 ≤ v.toNat && v.toNat ≤ 0xFF

/-- The bound active lanes with the origin group and the record of each. -/
def Ops.origins (o : Ops) : List (Nat × Group × TrapRec) :=
  (LaneMask.lanes o.act).filterMap fun l =>
    match o.orig.recOf? o.orig.g l with
    | some r => if (o.orig.grp r.unit).serial = r.serial then some (l, o.orig.grp r.unit, r) else none
    | none => none

/-- The checks of R330 on the origin specifiers. -/
def Ops.originTrap? (o : Ops) : Option Nat :=
  if o.origins.any fun e => !originSpec (o.a.at e.1) then some 0x09
  else if o.origins.any fun e => badReg e.2.1.alloc (o.a.at e.1).toNat then some 0x15 else none

/-- The wait for the origin's quadrant (R332). -/
def Ops.askOrigin (o : Ops) : State :=
  let tok := o.orig.stamp
  let delay := (o.origins.map fun e => byDistance o.orig.g.core e.2.1.core 30 120 300 + (if e.2.1.drowsy then 24 else 0)).foldl max 30
  ((o.waitAt .answer 1 tok).schedule delay (.originQuadrantAnswer tok)).tick

/-- The entry of XRD: its operands, marks and conditions. -/
def infoXrd (d a b : Opnd) : Info :=
  { opcode := 0x16, a := some { op := a, lit := .ty .u32 }, b := some { op := b, lit := .u32 }, dst := some d
    blocking := true, markB := false, legal := (Instr.xrd d a b).wf }

/-- XRD (R332). -/
def execXrd (d a b : Opnd) (s : State) : Res :=
  run (infoXrd d a b) s fun o t =>
    if (o.b.at 0).toNat > 1 then o.trap 0x09
    else
      match o.originTrap? with
      | some c => o.trap c
      | none =>
        if o.stage = 0 then o.askOrigin
        else
          t.finish o d (Lanes.of fun l =>
            match o.origins.find? fun e => e.1 == l with
            | some (_, og, r) =>
              let reg := (o.a.at l).toNat
              if (o.b.at 0).toNat = 0 then (og.regVal reg).at r.lane
              else word (match og.regState reg with
                | .dead => 0
                | .full => 2
                | _ => 1)
            | none => 0) o.act

/-- The entry of XWR: its operands, marks and conditions. -/
def infoXwr (a b : Opnd) : Info :=
  { opcode := 0x17, a := some { op := a, lit := .ty .u32 }, b := some { op := b, lit := .ty .i64 }, blocking := true
    legal := (Instr.xwr a b).wf }

/-- XWR (R332): a write of an EMPTY and pending register waits until the register is complete. -/
def execXwr (a b : Opnd) (s : State) : Res :=
  run (infoXwr a b) s fun o t =>
    match o.originTrap? with
    | some c => o.trap c
    | none =>
      if o.stage = 0 || o.origins.any (fun e => (e.2.1.regState (o.a.at e.1).toNat).isPending) then o.askOrigin
      else
        (o.origins.foldl (fun t e => t.modGrp e.2.1.unit fun g =>
          g.writeReg (o.a.at e.1).toNat (Lanes.uniform (o.b.at e.1)) (BitVec.ofNat 32 (2 ^ e.2.2.lane))) t).done o

/-- A token's waiting path is answered. -/
def State.answerToken (s : State) (token : Nat) (v : List Word) : State :=
  let waits (q : Path) : Bool := match q.wait with
    | some w => w.stage > 0 && w.arg == token && w.why == .answer
    | none => false
  { s with groups := s.groups.map fun g =>
      { g with paths := g.paths.map fun q => if waits q then { q with answer := some v } else q } }

/-- ORIGIN_QUADRANT_ANSWER (R332). -/
def execOriginQuadrantAnswer (token : Nat) (s : State) : Res := .next (s.answerToken token [])

/-! ### Resumption (R323 to R325) -/

/-- The repair of SKIP written to the lane (R323): to a predicate for FCMP's FPEXC, else to the destination register. -/
def Group.repair (g : Group) (r : TrapRec) : Group :=
  let m : LaneMask := BitVec.ofNat 32 (2 ^ r.lane)
  if r.cause = 0x02 ∧ r.status / 16 % 2 = 1 then g.writePred (r.dest % 8) (if r.repair.getLsbD 0 then ~~~0 else 0) m
  else if r.dest ≥ 0x10 then g.writeReg r.dest (Lanes.uniform r.repair) m
  else if 0x04 ≤ r.dest ∧ r.dest ≤ 0x0B then g.writeCache (r.dest - 4) (Lanes.uniform r.repair) m
  else g

/-- The code address at which SKIP resumes: the next slot, or for a fetch fault the address itself (R31, R323). -/
def TrapRec.skipPc (r : TrapRec) : Word :=
  if (r.cause = 0x04 ∨ r.cause = 0x05) ∧ r.status % 4 = 3 ∧ r.status / 32 % 2 = 0 then r.pc
  else if slotOf r.pc < 5 then r.pc + 1 else nextBundle r.pc

/-- A resumed lane joins its slice's deferred list (R323). -/
def Slice.rejoin (x : Slice) (n : Nat) (pc : Word) (retry : Option Retry) (noArrive : Bool) : Slice :=
  let b : SliceMask := BitVec.ofNat 4 (2 ^ n)
  { x with detached := x.detached &&& ~~~b, carried := modAt x.carried n fun _ => 0
           rcv := x.rcv.map fun e => { e with absent := e.absent &&& ~~~b, rejoined := e.rejoined || e.absent &&& b != 0 }
           deferred := x.deferred ++ [{ pc := pc, mask := b, depth := x.rcvDepth, retry := retry, noArrive := noArrive }] }

/-- The lane's part of the operand cache invalidated (R66). -/
def Group.clearLane (g : Group) (l : Nat) : Group :=
  { g with cacheValid := g.cacheValid.map fun e => (e.1, e.2 &&& ~~~(BitVec.ofNat 32 (2 ^ l))) }

/-- A thread resumed by RETRY or SKIP (R323). One that re-enters a bundle at slot 0 after the fetch fault of that bundle arrives there: R32
names only traps taken at slot 0 (DESIGN CHOICE, log 76). -/
def State.resumeLane (s : State) (x : Resume) : State :=
  let r := x.rec_
  let g := s.grp r.unit
  if g.serial ≠ r.serial then s
  else
    let pc := if x.skip then r.skipPc else r.pc
    let retry := if x.skip || r.fetch then none else some { a := r.a, b := r.b, c := r.c }
    let noArrive := pc = r.pc && slotOf pc == 0 && !r.fetch
    let s := s.modGrp r.unit fun g =>
      let g : Group := { (if x.skip then g.repair r else g) with xfer := s.stamp }
      ((g.modSlices fun y => if y.idx = r.lane / 4 then y.rejoin (r.lane % 4) pc retry noArrive else y).clearLane r.lane).clearAges
    ((s.settle r.unit).unpark r.unit).sweep

/-- Whether a record's repair value goes to a predicate: that of FCMP, whose byte names no register (R153, R323). -/
def TrapRec.toPred (r : TrapRec) : Bool := r.cause == 0x02 && r.status / 16 % 2 == 1

/-- LANE_RESUMED (R323): a repair of an EMPTY and pending register waits until it is complete. -/
def execLaneResumed (token : Nat) (s : State) : Res :=
  match s.resuming.find? fun x => x.token == token with
  | none => .next s
  | some x =>
    let g := s.grp x.rec_.unit
    if g.serial = x.rec_.serial ∧ x.skip ∧ !x.rec_.toPred ∧ x.rec_.dest ≥ 0x10 ∧ (g.regState x.rec_.dest).isPending then
      .next (s.schedule 4 (.laneResumed token))
    else .next ({ s with resuming := s.resuming.filter fun y => y.token != token }.resumeLane x)

/-- REJOIN_LIMIT (R325): every awaited lane still absent is retired with a fatal record of reason 2. -/
def execRejoinLimit (unit : Nat) (s : State) : Res :=
  let g := s.grp unit
  let limit := ((s.kernel? g.kernel).map (·.eff.rejoin)).getD 0
  match g.absentSince with
  | none => .next s
  | some t =>
    if limit = 0 || t + limit > s.cyc || !g.awaitsAbsent then .next s
    else
      let lanes := laneIds.filter fun l => ((g.slice (l / 4)).awaitsAbsent).getLsbD (l % 4)
      let s := lanes.foldl (fun s l =>
        match s.takeRec g.serial l with
        | (s, some r) => (s.fatalRecord r 2).retireThread r
        | (s, none) => s) s
      .next (((s.fileWaiting g.part).settle unit).unpark unit)

end Sys2Proof.Machine
end

