-- ==== Sys2Proof/Machine/Kernel.lean ====
section
/-!
DEFINITION. Kernel.lean: region nodes (R109 to R111), the checks of a launch (R106, R107), placement (R112 to R114), and how a
kernel ends (R105, R108, R121).
-/
namespace Sys2Proof.Machine

/-! ### Region nodes (R109, R110) -/

/-- A region node: its place in the tree, its override mask, and its own fields. -/
structure RegionNode where
  level : Nat
  parent : Nat
  mask : Nat
  ctx : Nat
  own : Effective
  deriving DecidableEq, Repr

/-- A node in use and well formed, from its 128 bytes: a reserved field that is not zero, or a count of bytes or clk out of its range,
makes it malformed (R5, R109). So does a budget or cap of its own that counts more than 60 user slots on a core (R10), a base of its own
that is not aligned as R109 gives it, or an area of its own that is no HBM range (DEDUCED, log 34). -/
def regionNode? (b : List Byte) : Option RegionNode :=
  let f (off n : Nat) : Nat := fieldOf b off n
  let e : Effective :=
    { budget := f 8 2, perCore := f 0x0A 1, priority := f 0x0B 1, fault := f 0x0C 1, cap := f 0x0D 1, rate := f 0x0E 1, rdepth := f 0x28 2
      cores := f 0x10 24, rejoin := f 0x2C 4, window := if f 0x30 4 = 0 then 2048 else f 0x30 4, areaBase := f 0x38 8, areaSize := f 0x40 8
      cbase := word (f 0x48 8), csize := f 0x50 4, handler := word (f 0x58 8), table := word (f 0x60 8) }
  let n : RegionNode := { level := f 1 1, parent := f 2 2, mask := f 4 4, ctx := f 0x34 4, own := e }
  let reserved := f 0x0F 1 == 0 && f 0x2A 2 == 0 && f 0x54 4 == 0 && f 0x68 24 == 0 && n.mask < 4096
  let counts := 32 ≤ e.window && e.window ≤ 1048576 && e.areaSize % 2 ^ 21 == 0 && e.csize % 256 == 0
  let own (field : Nat) : Bool := n.mask.testBit field
  let bases := (!own 8 || (e.areaBase % 2 ^ 21 == 0 && e.areaBase + e.areaSize ≤ hbmEnd)) && (!own 9 || e.cbase.toNat % 4096 == 0)
  let slots := !own 0 || (e.budget ≤ 60 * 192 && e.perCore ≤ 60)
  if f 0 1 = 1 && reserved && counts && bases && slots then some n else none

/-- A root node's bytes noted as read. -/
def State.noteRoot (s : State) (part idx : Nat) (b : List Byte) : State :=
  if idx = 0 then s.modPart part fun p => { p with rootNode := b } else s

/-- A node's bytes: those of the node caches, else those in memory, which the caches of the two dies then keep while they have room (R111;
log 65). -/
def State.nodeBytes (s : State) (part idx : Nat) : State × List Byte :=
  match Store.get? s.nodeCache (4096 * part + idx) with
  | some b => (s.noteRoot part idx b, b)
  | none =>
    let pa := s.canonPa ((s.part part).regionTable + 128 * idx)
    let s := s.touch pa 128
    let b := s.mm.bytes pa 128
    let s := if s.nodeCache.length < 2048 then { s with nodeCache := Store.set s.nodeCache (4096 * part + idx) b } else s
    (s.noteRoot part idx b, b)

/-- The nodes from one to the root, that one first; at most so many (R107 check 3). -/
def State.nodeChain (s : State) (part idx fuel : Nat) : State × Option (List (Nat × RegionNode)) :=
  match fuel with
  | 0 => (s, none)
  | fuel + 1 =>
    if idx ≥ 4096 then (s, none)
    else
      let (s, b) := s.nodeBytes part idx
      match regionNode? b with
      | none => (s, none)
      | some n =>
        if n.parent = 0xFFFF then (s, if idx = 0 ∧ n.level = 0 then some [(idx, n)] else none)
        else
          match s.nodeChain part n.parent fuel with
          | (s, none) => (s, none)
          | (s, some l) => (s, if (l.head?.map fun e => e.2.level + 1) = some n.level then some ((idx, n) :: l) else none)

/-- A node's effective fields under its parent's, if R110 allows them. -/
def RegionNode.under (n : RegionNode) (p : Effective) : Option Effective :=
  let o (k : Nat) : Bool := n.mask.testBit k
  let x := n.own
  let e : Effective :=
    { budget := if o 0 then x.budget else p.budget, perCore := if o 0 then x.perCore else p.perCore, cores := if o 1 then x.cores else p.cores
      rate := if o 2 then x.rate else p.rate, rdepth := if o 2 then x.rdepth else p.rdepth, priority := if o 3 then x.priority else p.priority
      fault := if o 4 then x.fault else p.fault, rejoin := if o 5 then x.rejoin else p.rejoin, window := if o 6 then x.window else p.window
      cap := if o 7 then x.cap else p.cap, areaBase := if o 8 then x.areaBase else p.areaBase, areaSize := if o 8 then x.areaSize else p.areaSize
      cbase := if o 9 then x.cbase else p.cbase, csize := if o 9 then x.csize else p.csize
      handler := if o 10 then x.handler else p.handler, table := if o 11 then x.table else p.table }
  if e.budget ≤ p.budget ∧ e.perCore ≤ p.perCore ∧ e.priority ≤ p.priority ∧ e.rate ≤ p.rate ∧ e.rdepth ≤ p.rdepth ∧ p.cap ≤ e.cap ∧
      e.cores &&& p.cores = e.cores ∧ p.areaBase ≤ e.areaBase ∧ e.areaBase + e.areaSize ≤ p.areaBase + p.areaSize then some e else none

/-- The effective fields along a chain, root last: those of its first node, with index, budget and cap of every node (R110). -/
def effectiveOf (l : List (Nat × RegionNode)) : Option (Effective × List (Nat × Nat × Nat)) :=
  match l with
  | [] => none
  | (idx, n) :: rest =>
    match rest with
    | [] => if n.mask = 4095 then some (n.own, [(idx, n.own.budget, n.own.perCore)]) else none
    | _ :: _ =>
      match effectiveOf rest with
      | none => none
      | some (p, c) => (n.under p).map fun e => (e, (idx, e.budget, e.perCore) :: c)

/-- A region's effective fields, if its chain is usable, with the nodes of the chain (R107 check 3). -/
def State.region? (s : State) (part idx : Nat) : State × Option (Effective × List (Nat × Nat × Nat)) :=
  match s.nodeChain part idx 8 with
  | (s, none) => (s, none)
  | (s, some l) => (s, effectiveOf l)

/-! ### The launch record (R106) -/

/-- A kernel with the fields of a launch record. -/
def Kernel.ofRecord (k : Kernel) (b : List Byte) : Kernel :=
  let f (off n : Nat) : Nat := fieldOf b off n
  { k with
    cls := f 2 1, entry := word (f 8 8), region := f 0x10 2, tag := f 0x14 4, bx := f 0x18 4, by_ := f 0x1C 2, bz := f 0x1E 2
    gpb := f 0x20 1, bpc := f 0x21 1, gregs := f 0x22 1, acc := f 0x23 1, spsteps := f 0x24 1, mode := BitVec.ofNat 32 (f 0x28 4)
    fslots := (List.range 8).map fun i => f (0x30 + i) 1, groupMasks := (List.range 4).map fun i => f (0x38 + i) 1
    gridEnable := f 0x3C 1, params := (List.range 8).map fun i => word (f (0x40 + 8 * i) 8)
    blockMasks := (List.range 16).map fun i => f (0x80 + 4 * i) 4, clusterMasks := (List.range 8).map fun i => f (0xC0 + 2 * i) 2
    completion := word (f 0xD0 8), named := true }

/-- Blocks of a kernel. -/
def Kernel.blocks (k : Kernel) : Nat := k.bx * k.by_ * k.bz

/-- Check 1 of R107 on a record's bytes. -/
def recordOk (k : Kernel) (b : List Byte) : Bool :=
  let f (off n : Nat) : Nat := fieldOf b off n
  f 0 2 == 1 && k.cls < 3 && f 3 1 == 0 && f 4 4 == k.ctx && k.region < 4096 && f 0x12 2 == 0 && k.bx ≥ 1 && k.by_ ≥ 1 && k.bz ≥ 1 &&
  1 ≤ k.gpb && k.gpb ≤ 32 && 1 ≤ k.bpc && k.bpc ≤ 12 && 16 ≤ k.gregs && k.gregs ≤ 208 && k.gregs % 16 == 0 && k.acc ≤ 4 &&
  k.spsteps ≤ 7 && f 0x25 3 == 0 && f 0x2C 4 == 0 && k.gridEnable < 16 && f 0x3D 3 == 0 && k.completion.toNat % 32 == 0 && f 0xD8 40 == 0 &&
  k.blocks % k.bpc == 0 && k.blocks * k.gpb < 2 ^ 32 && k.blockMasks.all (fun m => m / 2 ^ k.gpb == 0) &&
  k.clusterMasks.all (fun m => m / 2 ^ k.bpc == 0) && modeLegal k.mode

/-- Whether R63 accepts a format slot. -/
def formatSlotOk (v : Nat) : Bool :=
  let scl := v / 32 % 4
  v < 128 && scl < 2 && (EType.ofCode (v % 32)).isSome &&
  (scl == 0 || [some EType.bf16, some EType.fp16, some EType.lns8].contains (EType.ofCode (v % 32)))

/-! ### Placement (R112 to R114) -/

/-- The user groups of the kernels in a region's subtree, on one core or on all. -/
def State.regionSlots (s : State) (part idx : Nat) (core : Option Nat) : Nat :=
  (s.groups.filter fun g =>
    g.kind == .user && g.part == part && (core.isNone || core == some g.core) &&
    ((s.kernel? g.kernel).map fun k => k.chain.any fun e => e.1 == idx).getD false).length

/-- Accumulator slots in use on a quadrant. -/
def State.quadAcc (s : State) (quad : Nat) : Nat := (s.quadGroups quad).foldl (fun n g => n + g.acc) 0

/-- The free 64 KiB steps of a core in banks of a partition and world (R84, R113, R114). -/
def State.freeSteps (s : State) (core part wld : Nat) (now : Bool) : List Nat :=
  let used := (s.blocks.filter fun b => b.core == core).flatMap (·.steps)
  ((List.range 8).filter fun st => !used.contains st && (List.range 4).all fun i =>
    let bank := 32 * core + 4 * st + i
    assignOk (Store.getOr s.mm.bankAssign bank 0) part wld && (!now || Store.getOr s.mm.bankBusy bank 0 ≤ s.cyc)).take (7 - used.length)

/-- Whether a core is eligible for a kernel (R113). -/
def State.eligible (s : State) (k : Kernel) (part wld core : Nat) (now : Bool) : Bool :=
  core < 192 && k.eff.cores.testBit core && ((List.range 4).all fun q =>
    assignOk (Store.getOr s.mm.quadAssign (4 * core + q) 0) part wld && (!now || Store.getOr s.mm.quadBusy (4 * core + q) 0 ≤ s.cyc)) &&
  (s.freeSteps core part wld now).length ≥ k.spsteps

/-- The lowest free user slot of a quadrant. -/
def State.freeSlot (s : State) (quad : Nat) : Option Nat :=
  (List.range 15).find? fun n => !s.hasGrp (64 * (quad / 4) + 16 * (quad % 4) + n)

/-- Whether a context's group may join a quadrant: its user groups are all of that context (R229). -/
def State.sharesQuad (s : State) (quad ctx : Nat) : Bool := (s.quadGroups quad).all fun g => g.kind != .user || g.ctx == ctx

/-- A group of a kernel as R113 creates it; it counts as not having issued from that clk on (R115). -/
def newGroup (k : Kernel) (part wld unit serial bid j cyc : Nat) : Group :=
  { unit := unit, serial := serial, ctx := k.ctx, part := part, world := wld, gid := bid * k.gpb + j, bid := bid, cid := bid / k.bpc
    kernel := k.id, alloc := k.gregs, acc := k.acc, cbase := k.eff.cbase, csize := k.eff.csize
    sregs := k.params.zipIdx.map fun e => (e.2, { st := .full, val := e.1 })
    fslots := k.fslots.zipIdx.map fun e => (e.2, e.1)
    slices := sliceIds.map fun n => { idx := n, pc := k.entry, run := 15, gone := 0, mode := k.mode }
    paths := [{ id := 0 }], setSince := cyc, lastIssue := cyc, xfer := serial, readySince := some cyc }

/-- The groups of a block from number j on, placed on a core; none when one finds no room (R113, R114). -/
def State.placeGroups (s : State) (k : Kernel) (part wld bid core j n : Nat) : Option State :=
  match n with
  | 0 => some s
  | n + 1 =>
    let quad := 4 * core + j % 4
    match s.freeSlot quad with
    | none => none
    | some slot =>
      if s.quadRegs quad + k.gregs > 1536 || s.quadAcc quad + k.acc > 32 || !s.sharesQuad quad k.ctx then none
      else
        let g := newGroup k part wld (64 * core + 16 * (j % 4) + slot) s.stamp bid j s.cyc
        (({ s with groups := s.groups ++ [g] }.tick).wantDrowsy g.unit).placeGroups k part wld bid core (j + 1) n

/-- The scratchpad of steps zeroed (R114). -/
def zeroSteps (m : Store Byte) (core : Nat) (steps : List Nat) : Store Byte :=
  m.filter fun e => !(e.1 / 524288 == core && steps.contains (e.1 % 524288 / 65536))

/-- A block placed on a core, if it fits there (R113, R114). -/
def State.placeBlock (s : State) (k : Kernel) (part wld bid core : Nat) (now : Bool) : Option State :=
  if !s.eligible k part wld core now then none
  else if k.chain.any fun e => s.regionSlots part e.1 (some core) + k.gpb > e.2.2 then none
  else
    let steps := (s.freeSteps core part wld now).take k.spsteps
    let b : Block := { kernel := k.id, bid := bid, core := core, steps := steps }
    let s := { s with blocks := s.blocks ++ [b], mm := { s.mm with sram := zeroSteps s.mm.sram core steps } }
    s.placeGroups k part wld bid core 0 k.gpb

/-- The blocks of a cluster placed within one gallery, each on the lowest core that has room. -/
def State.placeIn (s : State) (k : Kernel) (part wld gallery : Nat) (bids : List Nat) (now : Bool) : Option State :=
  match bids with
  | [] => some s
  | bid :: rest =>
    match ((List.range 12).filterMap fun i => s.placeBlock k part wld bid (12 * gallery + i) now).head? with
    | none => none
    | some s => s.placeIn k part wld gallery rest now

/-- The cluster of blocks from one on placed in the first gallery that takes it, within every budget of the chain (R110, R113). -/
def State.placeCluster (s : State) (k : Kernel) (part wld from_ : Nat) (now : Bool) : Option State :=
  if k.chain.any fun e => s.regionSlots part e.1 none + k.gpb * k.bpc > e.2.1 then none
  else ((List.range 16).filterMap fun gal => s.placeIn k part wld gal ((List.range k.bpc).map (from_ + ·)) now).head?

/-- Every cluster of a grid from a block on placed at once (R112). -/
def State.placeGrid (s : State) (k : Kernel) (part wld from_ n : Nat) (now : Bool) : Option State :=
  match n with
  | 0 => some s
  | n + 1 =>
    match s.placeCluster k part wld from_ now with
    | none => none
    | some s => s.placeGrid k part wld (from_ + k.bpc) n now

/-! ### The end of a kernel (R105, R108) -/

/-- The cause of the error record of a device event, 0x80 or above (R372, log 14): 0 a completion record that cannot be written, 1 a
corrected soft error, 2 an uncorrectable one in shared state, 3 a rejected image. -/
def deviceCause (n : Nat) : Nat := 0x80 + Config.deviceCause n % 128

/-- The unit kind that an error record names for a context or the device (R372, log 14). -/
def deviceKind (n : Nat) : Nat := Config.deviceKind n % 256

/-- Where a kernel's completion record goes, if it can be written: the launch record that names it has been read, and its address is
aligned and translates. R108 does not say where one at a misaligned address goes, which check 1 of R107 refuses: it is not written
(DESIGN CHOICE, log 66). -/
def State.completionPa? (s : State) (k : Kernel) : State × Option Nat :=
  if !k.named || k.completion.toNat % 32 != 0 then (s, none)
  else
    match s.translate (s.ctxSpace k.ctx) k.completion .write with
    | (s, .fault _ _) => (s, none)
    | (s, .ok pa _ _ _) => (s, some pa)

/-- The status of a kernel whose completion record cannot be written, in the completion of its launch request, unless the interface has been
revoked or disabled since, after which no write carries its PASID (R108, R252, R255; log 66). -/
def State.requestStatus (s : State) (k : Kernel) (status : Nat) : State :=
  let live : Bool := match k.qi with
    | some n =>
      let q := Store.getOr s.qis n {}
      q.en && q.st != .revoked && q.epoch == k.qiEpoch
    | none => true
  match k.packet with
  | some pa => if live then s.store deviceUnit (pa + 4) (leBytes status 4) else s
  | none => s

/-- The completion record written at its address, the status last; or where it cannot be, the status reported otherwise (R108). -/
def State.writeCompletion (s : State) (k : Kernel) (status : Nat) : State :=
  match s.completionPa? k with
  | (s, none) =>
    let c := s.ctx? k.ctx
    (s.logError { cause := deviceCause 0, kind := deviceKind 0, unit := 0, part := (c.map (·.part)).getD 0, world := (c.map (·.world)).getD 0, cyc := 0
                  seq := 0, ctx := k.ctx, tag := k.tag, addr := k.completion.toNat, data := status }).requestStatus k status
  | (s, some pa) =>
    let s := s.store deviceUnit (pa + 4) (leBytes k.tag 4 ++ leBytes k.firstCyc 8 ++ leBytes s.cyc 8 ++ leBytes k.retired 4 ++ leBytes 0 4)
    s.store deviceUnit pa (leBytes status 4)

/-- Lanes of a group that have neither exited nor been retired. -/
def Group.aliveLanes (g : Group) : Nat := (g.slices.map fun x => (SliceMask.lanes (~~~x.gone)).length).foldl (· + ·) 0

/-- What the units hold for a group that is removed, taken away: records, mailbox entries, operations, accesses, requests. -/
def State.dropGroup (s : State) (serial unit : Nat) : State :=
  let s := ((s.withdraw serial).withdrawMail serial).withdrawGang unit
  let mine := s.ops.filter fun o => o.serial == serial
  let s := { s with groups := s.groups.filter fun g => g.serial != serial, ops := s.ops.filter fun o => o.serial != serial
                    qreqs := s.qreqs.filter fun r => r.serial != serial
                    mm := { s.mm with flights := s.mm.flights.filter fun f => f.serial != serial, stores := s.mm.stores.filter fun x => x.serial != serial } }
  -- What waits behind the operations of its quadrant's sequencer, or for its matrix unit, goes on.
  mine.foldl (fun s o => if o.cls = 2 then (s.startNext o).unitFreed o else if o.onUnit || o.cls = 5 then s.unitFreed o else s) s

/-- The groups of a kernel, on the device and in its context's image. -/
def State.kernelGroups (s : State) (k : Nat) : List Group :=
  (s.groups ++ s.ctxs.flatMap (·.saved)).filter fun g => g.kind == .user && g.kernel == k

/-- A kernel ends: its groups and filed lanes are retired, its operations cancelled, and its completion record written. -/
def State.endKernel (s : State) (id status : Nat) : State :=
  match s.kernel? id with
  | none => s
  | some k =>
    let gs := s.kernelGroups id
    let k := if status = 0x29 then { k with retired := k.retired + (gs.map Group.aliveLanes).foldl (· + ·) 0 } else k
    -- With its threads go the records that are nested on them (R326).
    let s := (gs.foldl (fun s g => s.dropGroup g.serial g.unit) s).dropRecs fun r => r.kernel == id
    let keep (c : Context) : Context :=
      { c with saved := c.saved.filter fun g => g.kernel != id, savedBlocks := c.savedBlocks.filter fun b => b.kernel != id
               savedOps := c.savedOps.filter fun o => o.kernel != id, savedScratch := c.savedScratch.filter fun e => e.1 != id }
    let s := { s with blocks := s.blocks.filter fun b => b.kernel != id, ctxs := s.ctxs.map keep }
    let s := { s.writeCompletion k status with kernels := s.kernels.filter fun x => x.id != id }
    let s := gs.foldl (fun s g => s.schedule 0 (.gangStepAccept g.core)) s.sweep
    s.offerRoom

/-- KERNEL_RETIRE (R105, R121): DONE once every block has been placed and every group has retired. -/
def execKernelRetire (kernel : Nat) (s : State) : Res :=
  match s.kernel? kernel with
  | none => .next s
  | some k =>
    .next (if k.ending ≠ 0 then s.endKernel kernel k.ending
      else if (k.st = .running ∨ k.st = .halted) ∧ k.nextBlock ≥ k.blocks ∧ (s.kernelGroups kernel).isEmpty then s.endKernel kernel 0
      else s)

/-! ### The launch (R105 to R107) -/

/-- The bytes of a launch record, read through its context's translation. -/
def State.launchBytes (s : State) (k : Kernel) : State × Option (List Byte) :=
  if k.recVa.toNat % 256 ≠ 0 then (s, none) else s.loadVa (s.ctxSpace k.ctx) k.recVa 256 .read

/-- Whether the entry bundle passes check 5 of R107. -/
def State.entryOk (s : State) (k : Kernel) : State × Bool :=
  if k.entry.toNat % 32 ≠ 0 then (s, false)
  else
    match s.loadVa (s.ctxSpace k.ctx) k.entry 32 .fetch with
    | (s, none) => (s, false)
    | (s, some b) => (s, (Bundle.ofBytes k.entry b).entry)

/-- Checks 6 and 7 of R107, with every other group absent: 0 where the kernel fits. -/
def State.fitStatus (s : State) (k : Kernel) (part wld : Nat) : Nat :=
  let kernels := s.kernels.map fun x => if x.id = k.id then k else x
  let s := { s with groups := [], blocks := [], kernels := kernels }
  if (s.placeCluster k part wld 0 false).isNone then 0x26
  else if k.cls = 0 ∧ (k.blocks * k.gpb > 11520 || (s.placeGrid k part wld 0 (k.blocks / k.bpc) false).isNone) then 0x27 else 0

/-- The checks of R107 in their order: the kernel with its record's fields and effective values, and the status, 0 where all
pass. -/
def State.launchStatus (s : State) (k : Kernel) (c : Context) : State × Kernel × Nat :=
  match s.launchBytes k with
  | (s, none) => (s, k, 0x21)
  | (s, some b) =>
    let k := k.ofRecord b
    if !recordOk k b then (s, k, 0x21)
    else if !k.fslots.all formatSlotOk then (s, k, 0x23)
    else
      match s.region? c.part k.region with
      | (s, none) => (s, k, 0x24)
      | (s, some (e, chain)) =>
        if !chain.any fun x => x.1 == c.region then (s, k, 0x24)
        else
          let k := { k with eff := e, chain := chain }
          if k.cls < e.cap then (s, k, 0x25)
          else
            match s.entryOk k with
            | (s, false) => (s, k, 0x22)
            | (s, true) => (s, k, s.fitStatus k c.part c.world)

/-- LAUNCH_CHECK (R105, R107). -/
def execLaunchCheck (kernel : Nat) (s : State) : Res :=
  match s.kernel? kernel with
  | none => .next s
  | some k =>
    match s.ctx? k.ctx with
    | none => .next (s.endKernel kernel 0x21)
    | some c =>
      if k.st ≠ .checking then .next s
      else
        let (s, k, st) := s.launchStatus k c
        let s := s.modKernel kernel fun _ => { k with st := .waiting, accepted := s.stamp }
        .next (if st ≠ 0 then s.tick.endKernel kernel st else s.tick.schedule 64 (.blockPlacement kernel))

/-- Whether a context may have blocks placed. -/
def Context.places (c : Context) : Bool := (c.st == .created || c.st == .resident) && !c.saving && !c.busy

/-- A kernel's next placement: the whole grid of a concurrent one, else the next cluster (R112). -/
def State.nextPlacement (s : State) (k : Kernel) (c : Context) : Option State :=
  if k.cls = 0 then s.placeGrid k c.part c.world 0 (k.blocks / k.bpc) true else s.placeCluster k c.part c.world k.nextBlock true

/-- Whether a waiting kernel is held back by another of its partition (R105, R112): one of the same priority accepted earlier, or
one of higher priority whose placement fits. -/
def State.heldBack (s : State) (k : Kernel) (c : Context) : Bool :=
  s.kernels.any fun x =>
    x.id != k.id && x.st == .waiting && (match s.ctx? x.ctx with
      | some d => d.part == c.part && d.places &&
        ((x.eff.priority == k.eff.priority && x.accepted < k.accepted) ||
         (x.eff.priority > k.eff.priority && (s.nextPlacement x d).isSome))
      | none => false)

/-- BLOCK_PLACEMENT (R105, R112, R113). -/
def execBlockPlacement (kernel : Nat) (s : State) : Res :=
  match s.kernel? kernel with
  | none => .next s
  | some k =>
    match s.ctx? k.ctx with
    | none => .next s
    | some c =>
      let due := k.st == .waiting || (k.st == .running && k.nextBlock < k.blocks)
      if !due || !c.places || k.ending != 0 || (k.st == .waiting && s.heldBack k c) then .next s
      else
        match s.nextPlacement k c with
        | none => .next s
        | some t =>
          let next := if k.cls = 0 then k.blocks else k.nextBlock + k.bpc
          let t := (t.modKernel kernel fun k =>
            { k with st := .running, nextBlock := next, placed := true, firstCyc := if k.placed then k.firstCyc else s.cyc }).modCtx c.id
            fun c => { c with st := .resident }
          let t := if next < k.blocks then t.schedule 16 (.blockPlacement kernel) else t
          .next (if k.st = .waiting then t.offerRoom else t)

/-! ### The requests -/

/-- The status with which a packet that names a context is refused before its own conditions (R254). -/
def State.ctxStatus (s : State) (pkt ctx : Nat) : Nat :=
  match s.ctx? ctx with
  | none => 5
  | some c => if c.st = .destroyed ∨ c.st = .migrated then 5 else if c.part ≠ s.packetPart pkt then 7 else 0

/-- A kernel whose launch record is to be checked (R105). -/
def State.addKernel (s : State) (ctx : Nat) (record : Word) : State :=
  let k : Kernel := { id := s.stamp, ctx := ctx, recVa := record }
  ({ s with kernels := s.kernels ++ [k] }.schedule 400 (.launchCheck s.stamp)).tick

/-- Whether a curator runs (R369). -/
def State.curatorRuns (s : State) : Bool := s.mgmt.booted

/-- The packet that a launch completes, noted with its kernel unless the shipped firmware posted it (R108). -/
def State.notePacket (s : State) (pkt kernel : Nat) : State :=
  match s.packets.find? fun p => p.id == pkt with
  | some p => if p.svc.isSome then s else s.modKernel kernel fun k =>
      { k with packet := some p.pa, qi := p.qi, qiEpoch := (Store.getOr s.qis p.qiNum {}).epoch }
  | none => s

/-- LAUNCH (R105, R254). -/
def execLaunch (pkt : Nat) (ctx : BitVec 32) (record : BitVec 64) (s : State) : Res :=
  let st := s.ctxStatus pkt ctx.toNat
  let c := (s.ctx? ctx.toNat).getD { id := 0, part := 0, world := 0 }
  .next (if !s.curatorRuns then s.completePacket pkt 4
    else if st ≠ 0 then s.completePacket pkt st
    else if c.busy then s.completePacket pkt 3
    else if c.st = .sealedImg then s.completePacket pkt 4
    else ((s.addKernel ctx.toNat record).notePacket pkt s.stamp).completePacket pkt 1)

/-- A kernel with the completion record address and the tag that its launch record names; one still in CHECKING is read for them. -/
def State.completionOf (s : State) (k : Kernel) : State × Kernel :=
  if k.st ≠ .checking then (s, k)
  else
    match s.launchBytes k with
    | (s, none) => (s, k)
    | (s, some b) => (s, { k with completion := word (fieldOf b 0xD0 8), tag := fieldOf b 0x14 4, named := true })

/-- A kernel killed, with the completion record that its launch record names (R105, R108). -/
def State.killKernel (s : State) (id : Nat) : State :=
  match s.kernel? id with
  | none => s
  | some k =>
    let (s, k) := s.completionOf k
    (s.modKernel id fun _ => k).endKernel id 0x29

/-- KILL (R105, R254): every kernel of the context whose launch record named the address ends KILLED. -/
def execKillRequest (pkt : Nat) (ctx : BitVec 32) (record : BitVec 64) (s : State) : Res :=
  let st := s.ctxStatus pkt ctx.toNat
  .next (if st ≠ 0 then s.completePacket pkt st
    else if record.toNat % 32 ≠ 0 then s.completePacket pkt 4
    else
      let s := (s.kernels.filter fun k => k.ctx == ctx.toNat).foldl (fun s k =>
        let (s, x) := s.completionOf k
        if x.named && x.completion == record then s.killKernel k.id else s) s
      s.completePacket pkt 1)

/-- REGION_SYNC (R111): the node caches are emptied and the root's L2 rate and depth loaded into every port. -/
def execRegionSync (pkt : Nat) (ctx : BitVec 32) (s : State) : Res :=
  let st := s.ctxStatus pkt ctx.toNat
  .next (if st ≠ 0 then s.completePacket pkt st
    else
      let part := s.packetPart pkt
      let s := { s with nodeCache := [] }
      let s := match s.region? part 0 with
        | (s, some (e, _)) =>
          let old := Store.getOr s.mm.buckets part { rate := e.rate, cap := e.rdepth }
          -- A full port stays as full as it was.
          let tokens := ((List.range 96).map fun i => (i, min (Store.getOr old.tokens i old.cap) e.rdepth)).filter fun (t : Nat × Nat) => t.2 < e.rdepth
          let s := { s with mm := { s.mm with buckets := Store.set s.mm.buckets part { rate := e.rate, cap := e.rdepth, tokens := tokens, owed := old.owed } } }
          if tokens.isEmpty then s else s.wantRefill
        | (s, none) => s
      s.completePacket pkt 1)

/-- A bucket with a token more at every port that is not full, which an access that has met it empty spends at once. -/
def Bucket.gain (b : Bucket) : Bucket :=
  let owes (p : Nat) : Bool := Store.getOr b.owed p 0 != 0
  { b with tokens := (b.tokens.map fun (t : Nat × Nat) => if owes t.1 then t else (t.1, t.2 + 1)).filter fun (t : Nat × Nat) => t.2 < b.cap
           owed := (b.owed.map fun (t : Nat × Nat) => (t.1, t.2 - 1)).filter fun (t : Nat × Nat) => t.2 != 0 }

/-- TOKEN_REFILL (R85): in a clk in which a partition's buckets gain, each that is not full gains a token; the next gain is due while one
is not full. -/
def execTokenRefill (s : State) : Res :=
  let fill (e : Nat × Bucket) : Nat × Bucket := (e.1, if gainsAt e.2.rate s.cyc then e.2.gain else e.2)
  let s := { s with mm := { s.mm with buckets := s.mm.buckets.map fill } }
  .next (if s.mm.buckets.any fun (e : Nat × Bucket) => e.2.rate != 0 && !e.2.tokens.isEmpty then s.wantRefill else s)

end Sys2Proof.Machine
end

