-- ==== Sys2Proof/Machine/Link.lean ====
section
/-!
DEFINITION. Link.lean: peer-link ports (R353 to R355), the tables of the peer window that the management core writes (R356,
R357), lost requests (R358), and the collective engine (R360, R361).
-/
namespace Sys2Proof.Machine

/-! ### Ports (R353) -/

/-- A port. -/
def State.port (s : State) (p : Nat) : Port := Store.getOr s.ports p {}
/-- A port set. -/
def State.setPort (s : State) (p : Nat) (x : Port) : State := { s with ports := Store.set s.ports p x }

/-- A count of R355, which saturates. -/
def satByte (n : Nat) : Nat := min n 255

/-- The completion of an access put on the agenda, if it is not there: it has come while a port that the access needs retrained. -/
def State.wantDone (s : State) (delay : Nat) (ev : Instr) : State :=
  if s.agenda.any fun d => d.ev == ev then s else s.schedule delay ev

/-- Every access that uses a port completes some clk from now if its time has passed. -/
def State.resumePort (s : State) (p delay : Nat) : State :=
  let fs := s.mm.flights.filter fun f => f.links.contains p
  let xs := s.mm.stores.filter fun x => x.ports.contains p
  xs.foldl (fun s x => s.wantDone delay (.accessPerformed x.token)) (fs.foldl (fun s f => s.wantDone delay (.longLatencyComplete f.token)) s)

/-- Whether a COLL with a member list uses a port (R356). -/
def State.collUses (s : State) (p : Nat) (list : List Byte) : Bool :=
  (List.range (list.length / 2)).any fun k => (s.portsTo (fieldOf list (2 * k) 2)).head? == some p

/-- The lanes whose requests go by a port perform at the target or not, by a free choice for each: once lost, none can tell (R358). -/
def State.loseLanes (s : State) (p : Nat) (ls : List FlightLane) : State :=
  (ls.filter fun x => x.ports.contains p && x.act.isSome).foldl (fun s x => (if s.freeBit then s.serveLane x else s).useFree 1) s

/-- A lane whose request by a port is lost. -/
def FlightLane.lose (p : Nat) (x : FlightLane) : FlightLane := if x.ports.contains p then { x with lost := true, act := none } else x

/-- An operation with requests in flight on a port: each may have been answered before, by a free choice, and the units of the others are
lost (R359); a COLL whose members the port reaches loses what it exchanges with them, or has just had it (R361). -/
def State.loseUnits (p : Nat) (s : State) (op : EngineOp) : State :=
  let units := if op.cls = 4 then (if op.desc.any fun b => s.collUses p (b.drop 64) then [op.done] else [])
    else ((op.flying.filter fun e => e.2.1 == p && s.cyc < e.2.2).map (·.1)).eraseDups
  if op.status ≠ 0 then s
  else
    units.foldl (fun s u => (if s.freeBit then s else s.modOp op.token fun x => { x with lost := x.lost ++ [u] }).useFree 1) s

/-- Whether a release reports the loss of an access: a store or a reduction, and no returning atomic (R358). -/
def Unperformed.reported (x : Unperformed) : Bool := x.access == .write || x.instr.toNat / 2 ^ 24 ≥ 0x99

/-- The requests in flight on a port are lost: the lanes of loads and atomics, and stores and reductions, which the group's next release
reports (R358). -/
def State.losePort (s : State) (p : Nat) : State :=
  let s := s.resumePort p 0
  let s := s.mm.flights.foldl (fun s f => s.loseLanes p f.lanes) s
  let s := s.mm.stores.foldl (fun s x => s.loseLanes p x.lanes) s
  let hit (g : Group) : Bool := s.mm.stores.any fun x => x.serial == g.serial && x.ports.contains p && x.reported
  let loseF (f : Flight) : Flight := { f with lanes := f.lanes.map (FlightLane.lose p) }
  let loseS (x : Unperformed) : Unperformed := { x with ports := x.ports.filter (· != p), lanes := x.lanes.map (FlightLane.lose p) }
  let s := s.ops.foldl (State.loseUnits p) s
  { s.mapGroups (fun g => if hit g then { g with linkLost := true } else g) with
    mm := { s.mm with flights := s.mm.flights.map loseF, stores := s.mm.stores.map loseS } }

/-- PORT_ENABLE (R353). -/
def execPortEnable (port : Nat) (s : State) : Res :=
  let s := s.wakePower
  let x := s.port port
  .next (if port < 16 ∧ x.st = .down then
    (s.setPort port { x with st := .training, txSeq := 0, rxSeq := 0, buffer := [], tries := 0, since := s.cyc, nak := false }).schedule
      20000000 (.trainingTimeout port)
  else s)

/-- PORT_DISABLE (R353). -/
def execPortDisable (port : Nat) (s : State) : Res :=
  let s := s.wakePower
  .next (if port < 16 then
    (s.losePort port).setPort port { s.port port with st := .down, lanes := 0, buffer := [], tries := 0, since := s.cyc, nak := false }
  else s)

/-- LANES_TRAINED (R353): from RETRAINING the replay buffer is resent, and its requests are answered after the time of R356. -/
def execLanesTrained (port lanes : Nat) (s : State) : Res :=
  let x := s.port port
  let ok := lanes = 1 ∨ lanes = 2 ∨ lanes = 4
  .next (if (x.st = .training ∨ x.st = .retraining) ∧ ok then
    let y := { x with st := if lanes = 4 then .up else .degraded, lanes := lanes, tries := 0, ackSince := s.cyc, since := s.cyc }
    let s := (s.setPort port (y.send y.sent)).resumePort port (latency 0 peerBase)
    if x.buffer.isEmpty then s else s.schedule 65536 (.ackTimeout port)
  else s)

/-- TRAINING_TIMEOUT (R353). -/
def execTrainingTimeout (port : Nat) (s : State) : Res :=
  let x := s.port port
  .next (if x.st = .training ∧ x.since + 20000000 ≤ s.cyc then s.setPort port { x with st := .failed, since := s.cyc } else s)

/-- A port stops sending and retrains; its replay buffer is kept (R353). -/
def State.retrain (s : State) (port : Nat) : State :=
  let x := s.port port
  (s.setPort port { x with st := .retraining, lanes := 0, retrains := satByte (x.retrains + 1), since := s.cyc }).schedule 2000000
    (.retrainTimeout port)

/-- ACK_TIMEOUT (R353): 65,536 clk with flits sent and none acknowledged. -/
def execAckTimeout (port : Nat) (s : State) : Res :=
  let x := s.port port
  .next (if !x.usable || x.buffer.isEmpty then s
    else if x.ackSince + 65536 ≤ s.cyc then s.retrain port
    else s.schedule (x.ackSince + 65536 - s.cyc) (.ackTimeout port))

/-- REPLAY_LIMIT (R353): eight replays of one flit. -/
def execReplayLimit (port : Nat) (s : State) : Res :=
  .next (if (s.port port).usable ∧ (s.port port).tries ≥ 8 then s.retrain port else s)

/-- RETRAIN_TIMEOUT (R353): the replay buffer is discarded and its requests are lost. -/
def execRetrainTimeout (port : Nat) (s : State) : Res :=
  let x := s.port port
  .next (if x.st = .retraining ∧ x.since + 2000000 ≤ s.cyc then
    (s.losePort port).setPort port { x with st := .failed, buffer := [], tries := 0, since := s.cyc }
  else s)

/-! ### Flits (R354) -/

/-- The flits of a replay buffer that an acknowledged sequence number covers, dropped. -/
def dropAcked (buffer : List Flit) (ack : Nat) : List Flit :=
  if buffer.any fun f => f.seq == ack then (buffer.dropWhile fun f => f.seq != ack).drop 1 else buffer

/-- A replay that the peer has asked for: the replay buffer is sent again from its first flit; the eighth of one flit brings the replay
limit (R353). -/
def State.replay (s : State) (port : Nat) : State :=
  let x := s.port port
  if x.buffer.isEmpty then s
  else
    let s := s.setPort port ({ x with replays := satByte (x.replays + 1), tries := x.tries + 1 }.send x.sent)
    if x.tries ≥ 7 then s.schedule 0 (.replayLimit port) else s

/-- FLIT_RECEIVED (R354): a flit with a wrong CRC or out of sequence is discarded and a replay requested, which counts as one (R355). Any
other acknowledges flits, and one of the type that asks for a replay, to which no rule gives a code, has it sent (log 84). -/
def execFlitReceived (port : Nat) (header crc : BitVec 64) (payload : List (BitVec 8)) (s : State) : Res :=
  let s := s.wakeLink
  let x := s.port port
  .next (if !x.usable then s
    else if crc64 0 (flitBytes header payload) = crc.toNat ∧ header.toNat % 4096 = x.rxSeq then
      let y := { x with rxSeq := (x.rxSeq + 1) % 4096, nak := false }
      let s := s.setPort port (y.acked (dropAcked x.buffer (bitsOf header.toNat 23 12)) s.cyc)
      if Config.asksReplay (bitsOf header.toNat 27 24) then s.replay port else s
    else s.setPort port { x with nak := true, replays := satByte (x.replays + 1) })

/-- The status register of a port (R355), before its counts are cleared. -/
def Port.status (x : Port) : Nat :=
  let width := match x.lanes with
    | 4 => 3
    | n => n
  let st := match x.st with
    | .down => 0
    | .training => 1
    | .up => 2
    | .degraded => 3
    | .retraining => 4
    | .failed => 5
  x.replays * 2 ^ 16 + x.retrains * 2 ^ 8 + width * 8 + st

/-! ### The management core's tables (R356, R357) -/

/-- A measurement register changed by what has been measured into it; the hash is a free value (R369). -/
def State.measure (s : State) (reg : Nat) : State :=
  let w := (List.range 8).map fun i => Config.freeValue (s.free + i)
  { s.useFree 8 with mgmt := { s.mgmt with meas := Store.set s.mgmt.meas reg w } }

/-- DEVICE_NUMBER_WRITE (R357). -/
def execDeviceNumberWrite (value : BitVec 16) (s : State) : Res :=
  let s := s.wakePower
  .next (if !setsReserved value.toNat [(15, 12)] ∧ (List.range 16).all (fun p => (s.port p).st == .down) then { s with devno := value.toNat }.measure 4 else s)

/-- ROUTE_TABLE_WRITE (R356). -/
def execRouteTableWrite (inbound : Bool) (device : Nat) (value : BitVec 64) (s : State) : Res :=
  let s := s.wakePower
  .next (if device ≥ 4096 then s
    else if inbound then
      if setsReserved value.toNat [(61, 46), (39, 0)] then s else { s with inbound := Store.set s.inbound device value }.measure 4
    else { s with routes := Store.set s.routes device (value.toNat % 2 ^ 16) }.measure 4)

/-! ### Collectives (R360, R361) -/

/-- Fields of a COLL descriptor (R360). -/
structure CollDesc where
  ty : EType
  rnd : Nat
  members : Nat
  rank : Nat
  root : Nat
  count : Nat
  list : Word
  src : Word
  dst : Word

/-- A COLL descriptor, if its fields are in range for an operation. -/
def collDesc? (op : Nat) (b : List Byte) : Option CollDesc :=
  let d : CollDesc :=
    { ty := (EType.ofCode (fieldOf b 1 1)).getD .fp64, rnd := fieldOf b 2 1, members := fieldOf b 3 1, rank := fieldOf b 4 1
      root := fieldOf b 5 1, count := fieldOf b 8 4, list := word (fieldOf b 0x10 8), src := word (fieldOf b 0x18 8)
      dst := word (fieldOf b 0x20 8) }
  if fieldOf b 0 1 = 7 ∧ [0, 1, 2, 3, 10, 11, 14, 15].contains (fieldOf b 1 1) ∧ (if op = 1 then d.rnd ≤ 4 else d.rnd = 0) ∧
      2 ≤ d.members ∧ d.members ≤ 64 ∧ d.rank < d.members ∧ d.root < d.members ∧ 1 ≤ d.count ∧ d.count ≤ 16777215 ∧
      fieldOf b 0x0C 4 = 0 ∧ fieldOf b 0x28 24 = 0 then some d else none

/-- One fold of a reduction (R360); the rounded addition of integers, whose result the spec does not state, is a free value. -/
def collFold (op : Nat) (t : EType) (rnd : Nat) (free : Word) (r v : Nat) : Nat :=
  match op with
  | 0 => (r + v) % 2 ^ (8 * t.bytes)
  | 1 => if t.isInt then free.toNat % 2 ^ (8 * t.bytes) else floatAdd t (Rnd.ofCode rnd) false r v
  | 2 => elemMinMax t false r v
  | _ => elemMinMax t true r v

/-- The element that each rank contributes: the device's own, or another device's, which is a free value. -/
def State.contribution (s : State) (d : CollDesc) (own rank : Nat) : Nat :=
  if rank = d.rank then own else (Config.freeValue (s.free + rank)).toNat % 2 ^ (8 * d.ty.bytes)

/-- The result of an element: the root's for bcast, else the fold in ascending rank order (R360). -/
def State.collResult (s : State) (kind op : Nat) (d : CollDesc) (own : Nat) : Nat :=
  if kind = 0 then s.contribution d own d.root
  else
    ((List.range d.members).drop 1).foldl (fun r k =>
      collFold op d.ty d.rnd (Config.freeValue (s.free + 64 + k)) r (s.contribution d own k)) (s.contribution d own 0)

/-- Whether every other member can be reached; the own device number needs no port (R356, R361). -/
def State.membersReached (s : State) (list : List Byte) (d : CollDesc) : Bool :=
  (List.range d.members).all fun k => k == d.rank || fieldOf list (2 * k) 2 == s.devno || !(s.portsTo (fieldOf list (2 * k) 2)).isEmpty

/-- Whether a COLL reads a source: of a bcast only the root does (R360). -/
def CollDesc.reads (d : CollDesc) (kind : Nat) : Bool := kind != 0 || d.rank == d.root

/-- The next element of a COLL: each member reads its whole source before any destination is written (R361); work holds what has been
read. -/
def State.collElement (s : State) (op : EngineOp) (d : CollDesc) (list : List Byte) : State × UnitRes :=
  let kind := (op.args.getD 1 0).toNat % 16
  let fn := (op.args.getD 1 0).toNat / 16
  let j := op.done
  let i := op.work.length
  let n := d.ty.bytes
  if !s.membersReached list d || !op.lost.isEmpty then (s, .fin j 0x08)
  else if d.reads kind && i < d.count then
    match s.engRead op 0 (d.src + word (i * n)) n with
    | (s, .inr st) => (s, .fin 0 st)
    | (s, .inl own) => (s.modOp op.token fun x => { x with work := x.work ++ [leNat own] }, .more 0 8)
  else if j = 0 && !s.freeBit then (s.useFree 1, .more 0 8)
  else
    let s := if j = 0 then s.useFree 1 else s
    let r := s.collResult kind fn d (op.work.getD j 0)
    let s := s.useFree 128
    let next : UnitRes := if j + 1 ≥ d.count then .fin (j + 1) 0x01 else .more (j + 1) 8
    if kind = 1 ∧ d.rank ≠ d.root then (s, next)
    else
      match s.engWrite op 1 (d.dst + word (j * n)) (leBytes r n) with
      | (s, some st) => (s, .fin j st)
      | (s, none) => (s, next)

/-- The next unit of a COLL: its descriptor and member list are read first; whether the other members have issued and read their sources is a
free choice each time (R361). -/
def State.collUnit (s : State) (op : EngineOp) : State × UnitRes :=
  match op.desc with
  | none =>
    match s.readDesc op with
    | (s, .inr st) => (s, .fin 0 st)
    | (s, .inl b) =>
      match collDesc? ((op.args.getD 1 0).toNat / 16) b with
      | none => (s, .fin 0 0x04)
      | some d =>
        match s.engRead op 2 d.list (2 * d.members) with
        | (s, .inr st) => (s, .fin 0 st)
        | (s, .inl l) => (s.modOp op.token fun x => { x with desc := some (b ++ l) }, .more 0 8)
  | some b =>
    match collDesc? ((op.args.getD 1 0).toNat / 16) b with
    | none => (s, .fin 0 0x04)
    | some d => s.collElement op d (b.drop 64)

/-- The entry of COLL: its operands, marks and conditions. -/
def infoColl (d a : Opnd) (o : Fin 16) (k : Fin 16) : Info :=
  { opcode := 0xAA, a := some { op := a, lit := .ty .i64 }, dst := some d, long := true, legal := (Instr.coll d a o k).wf }

/-- COLL (R360). -/
def execColl (d a : Opnd) (o : Fin 16) (k : Fin 16) (s : State) : Res :=
  run (infoColl d a o k) s fun x t =>
    if x.act = 0 then t.done x else x.accept t 4 0xAA d [x.a.at 0, word (16 * o.val + k.val)]

end Sys2Proof.Machine
end

