-- ==== Sys2Proof/Machine/Queue.lean ====
section
/-!
DEFINITION. Queue.lean: device queues and the instructions on them (R257 to R263).
-/
namespace Sys2Proof.Machine

/-- The home gallery of a queue. -/
def queueHome (q : Nat) : Nat := q / 256

/-- A GRANTED queue. -/
def State.queue? (s : State) (q : Nat) : Option DevQueue := Store.get? s.queues q

/-- Whether a kind of request pushes. -/
def QKind.isPush (k : QKind) : Bool :=
  match k with
  | .push | .tryPush => true
  | .pop | .tryPop => false

/-- Whether a kind of request waits for no room and no packet. -/
def QKind.isTry (k : QKind) : Bool :=
  match k with
  | .tryPush | .tryPop => true
  | .push | .pop => false

/-- The status of a request (R260): 1 where the queue is out of range or FREE, or the context has no right. -/
def State.queueStatus (s : State) (ctx q : Nat) (k : QKind) : Nat :=
  match (if q < 4096 then s.queue? q else none) with
  | none => 1
  | some x => if x.grantees.any fun e => e.ctx == ctx && (if k.isPush then e.push else e.pop) then 0 else 1

/-- The row of R263 for the galleries that a request involves. -/
def queueLatency (gs : List Nat) : Nat :=
  match gs with
  | [] => 90
  | g :: _ => if gs.all (· == g) then 90 else if gs.all fun x => x / 8 == g / 8 then 250 else 600

/-- Entries that a queue holds, and whether it is full. -/
def DevQueue.held (x : DevQueue) : Nat := (x.tail + 2 ^ 32 - x.head) % 2 ^ 32
def DevQueue.isFull (x : DevQueue) : Bool := x.held ≥ 2 ^ x.log2

/-- The place of an entry in the ring. -/
def DevQueue.entry (x : DevQueue) (n : Nat) : Nat := n % 2 ^ x.log2

/-- Whether a path of a group waits on an answer with a token. -/
def Path.awaits (q : Path) (token : Nat) : Bool :=
  match q.wait with
  | some w => w.stage > 0 && w.arg == token && w.why == .answer
  | none => false

/-- A path that waits on a request which its home has served: no delivery abandons the wait any more (R260). -/
def Path.served (q : Path) (token : Nat) : Path :=
  if q.awaits token then { q with wait := q.wait.map fun w => { w with firm := true } } else q

/-- An answer sent to the path that waits on a token (R263). -/
def State.answerQueue (s : State) (token status : Nat) (packet : List Word) (delay : Nat) : State :=
  let a : QAnswer := { token := token, status := status, packet := packet }
  let s : State := { s with groups := s.groups.map fun (g : Group) => { g with paths := g.paths.map fun (q : Path) => q.served token } }
  { s with qanswers := s.qanswers ++ [a] }.schedule delay (.queueAnswer token)

/-- Whether the group of a request still waits on its answer, which a delivery or a pre-emption ends (R260). -/
def State.qreqLive (s : State) (r : QReq) : Bool :=
  let g := s.grp r.unit
  g.serial == r.serial && g.paths.any fun q => q.awaits r.token

/-- The requests without one, and those whose path no longer waits. -/
def State.dropReq (s : State) (token : Nat) : State := { s with qreqs := s.qreqs.filter fun r => r.token != token }

/-- A packet stored at the tail (R260). -/
def State.putEntry (s : State) (q : Nat) (x : DevQueue) (r : QReq) : State :=
  let y := { x with tail := (x.tail + 1) % 2 ^ 32, packets := Store.set x.packets (x.entry x.tail) r.packet }
  { s with queues := Store.set s.queues q y }

/-- The packet at the head, taken (R260). -/
def State.takeEntry (s : State) (q : Nat) (x : DevQueue) : State × List Word :=
  let y := { x with head := (x.head + 1) % 2 ^ 32, packets := Store.del x.packets (x.entry x.head) }
  ({ s with queues := Store.set s.queues q y }, Store.getOr x.packets (x.entry x.head) [])

/-- The oldest request of a queue that waits at its home for a packet (pops) or for room (pushes). -/
def State.oldestWaiting (s : State) (q : Nat) (push : Bool) : Option QReq :=
  s.qreqs.find? fun r => r.queue == q && r.waiting && r.kind.isPush == push && s.qreqLive r

/-- The waiting requests that a change of a queue lets the home serve: a pop while a packet is stored, then a push while there
is room (R261). -/
def State.serveWaiting (s : State) (q fuel : Nat) : State :=
  match fuel with
  | 0 => s
  | fuel + 1 =>
    match s.queue? q with
    | none => s
    | some x =>
      match (if x.held > 0 then s.oldestWaiting q false else none) with
      | some r =>
        let (s, pk) := s.takeEntry q x
        ((s.dropReq r.token).answerQueue r.token 0 pk 0).serveWaiting q fuel
      | none =>
        match (if x.isFull then none else s.oldestWaiting q true) with
        | some r => (((s.putEntry q x r).dropReq r.token).answerQueue r.token 0 [] 0).serveWaiting q fuel
        | none => s

/-- The row of R263 for a request, with a further group's gallery for a push that meets that group's pop. -/
def QReq.row (r : QReq) (others : List Nat) : Nat := queueLatency (galleryOf (r.unit / 64) :: queueHome r.queue :: others)

/-- The share of a row's figure after which a request completes: half of it for QPUSH, all of it for the others (R263). -/
def QKind.share (k : QKind) (row : Nat) : Nat :=
  match k with
  | .push => row / 2
  | .pop | .tryPush | .tryPop => row

/-- A push that meets a waiting pop hands it its packet, which is put and taken in one; the pop completes the whole figure of their row
after the push's issue, and the push its own share of it (R260, R261, R263). -/
def State.handOver (s : State) (x : DevQueue) (r p : QReq) : State :=
  let row := r.row [galleryOf (p.unit / 64)]
  let gone := r.kind.share (r.row [])
  let s := { s with queues := Store.set s.queues r.queue { x with head := (x.head + 1) % 2 ^ 32, tail := (x.tail + 1) % 2 ^ 32 } }
  ((s.dropReq p.token).answerQueue r.token 0 [] (r.kind.share row - gone)).answerQueue p.token 0 r.packet (row - gone)

/-- A request served by its home gallery: answered at once, or left waiting there (R260, R261). -/
def State.serveReq (s : State) (r : QReq) : State :=
  let st := s.queueStatus r.ctx r.queue r.kind
  let s := s.dropReq r.token
  match s.queue? r.queue with
  | none => s.answerQueue r.token 1 [] 0
  | some x =>
    if st ≠ 0 then s.answerQueue r.token 1 [] 0
    else if r.kind.isPush then
      if x.isFull || (s.oldestWaiting r.queue true).isSome then
        if r.kind.isTry then s.answerQueue r.token 3 [] 0 else { s with qreqs := s.qreqs ++ [{ r with waiting := true }] }
      else
        match (if x.held = 0 then s.oldestWaiting r.queue false else none) with
        | some p => s.handOver x r p
        | none => ((s.putEntry r.queue x r).answerQueue r.token 0 [] 0).serveWaiting r.queue (s.qreqs.length + 1)
    else if x.held = 0 || (s.oldestWaiting r.queue false).isSome then
      if r.kind.isTry then s.answerQueue r.token 3 [] 0 else { s with qreqs := s.qreqs ++ [{ r with waiting := true }] }
    else
      let (s, pk) := s.takeEntry r.queue x
      (s.answerQueue r.token 0 pk 0).serveWaiting r.queue (s.qreqs.length + 1)

/-- QUEUE_REQUEST_SERVE (R261): of the queue's requests that have come and still stand, the one that came first is served. -/
def execQueueRequestServe (queue : Nat) (s : State) : Res :=
  let s := { s with qreqs := s.qreqs.filter fun r => s.qreqLive r }
  match firstBy (fun a b => a.due < b.due) (s.qreqs.filter fun r => r.queue == queue && !r.waiting && r.due ≤ s.cyc) with
  | none => .next s
  | some r => .next (s.serveReq r)

/-- An answer reaches its path. -/
def State.deliverAnswer (s : State) (a : QAnswer) : State :=
  { s with qanswers := s.qanswers.filter fun x => x.token != a.token }.answerToken a.token (word a.status :: a.packet)

/-- QUEUE_ANSWER (R263). -/
def execQueueAnswer (token : Nat) (s : State) : Res :=
  match s.qanswers.find? fun a => a.token == token with
  | none => .next s
  | some a => .next (s.deliverAnswer a)

/-! ### The instructions -/

/-- A queue request sent, or its refusal on the way back (R260, R263). -/
def Ops.sendQueue (o : Ops) (k : QKind) (q : Nat) (packet : List Word) : State :=
  let g := o.orig.g
  let tok := o.orig.stamp
  let t := (o.waitAt .answer 2 tok).tick
  if o.orig.queueStatus g.ctx q k ≠ 0 then t.answerQueue tok 1 [] (queueLatency [galleryOf g.core, queueHome (q % 4096)])
  else
    let r : QReq := { token := tok, queue := q, unit := g.unit, serial := g.serial, ctx := g.ctx, kind := k, packet := packet }
    let travel := k.share (r.row [])
    { t with qreqs := t.qreqs ++ [{ r with due := t.cyc + travel }] }.schedule travel (.queueRequestServe q)

/-- The course of a queue instruction: a push is a release at device scope (R262), the request goes out, and the answer ends
the wait. The queue instructions report no lost store, since they raise no trap beyond those of R36, R37 and R70 (R263; log 21). -/
def Ops.askQueue (o : Ops) (k : QKind) (packet : List Word) (finish : Nat → List Word → State) : State :=
  let q := (o.a.at 0).toNat
  match (if o.stage = 2 then o.orig.p.answer else none) with
  | some v => finish (v.headD 0).toNat v.tail
  | none =>
    if k.isPush && o.orig.queueStatus o.orig.g.ctx q k == 0 then
      if o.orig.performed o.orig.g o.orig.cur.path then o.sendQueue k q packet else o.waitAt .performed 1 0
    else o.sendQueue k q packet

/-- The packet lanes of a register. -/
def packetOf (v : Lanes) : List Word := [0, 1, 2, 3, 4, 5, 6, 7].map v.at

/-- The lanes 0 to 7 and 0 to 8. -/
def packetLanes : LaneMask := 0xFF
def popLanes : LaneMask := 0x1FF

/-- The destination of a pop: lane 8 takes the status, and lanes 0 to 7 the packet of a served one (R260). -/
def State.writePop (s : State) (r : Opnd) (st : Nat) (packet : List Word) : State :=
  s.modG fun g => g.writeOpnd r (packet ++ List.replicate (8 - packet.length) 0 ++ [word st]) (if st = 0 then popLanes else 0x100)

/-- The entry of QPUSH: its operands, marks and conditions. -/
def infoQpush (d a b : Opnd) : Info :=
  { opcode := 0xB9, a := some { op := a, lit := .u32 }, b := some { op := b }, dst := some d, blocking := true
    legal := (Instr.qpush d a b).wf }

/-- QPUSH (R259, R260). -/
def execQpush (d a b : Opnd) (s : State) : Res :=
  run (infoQpush d a b) s fun o t =>
    o.askQueue .push (packetOf o.b) fun st _ => t.takeAnswer.finish o d (Lanes.uniform (word st)) o.act

/-- The entry of QPOP: its operands, marks and conditions. -/
def infoQpop (d a : Opnd) : Info :=
  { opcode := 0xBA, a := some { op := a, lit := .u32 }, dst := some d, blocking := true, always := true
    legal := (Instr.qpop d a).wf }

/-- QPOP (R259, R260). -/
def execQpop (d a : Opnd) (s : State) : Res :=
  run (infoQpop d a) s fun o t =>
    o.askQueue .pop [] fun st pk =>
      let t := (t.takeAnswer.writePop d st pk).clearIf o
      (t.modG fun g => g.push (g.readOpnd g.modeOf { op := d } 0) popLanes).advance

/-- The entry of QTRY: field B is the packet's block, read by a push and written by a pop. -/
def infoQtry (k : Fin 16) (p : Fin 8) (a b : Opnd) : Info :=
  let push := k.val = 1
  { opcode := 0xBB, a := some { op := a, lit := .u32 }, b := if push then some { op := b } else none
    blockD := if push then [] else b.reg?.toList, markB := push, blocking := true, always := true
    legal := (Instr.qtry k p a b).wf }

/-- QTRY (R259, R260): kind 0 pops and kind 1 pushes. -/
def execQtry (k : Fin 16) (p : Fin 8) (a b : Opnd) (s : State) : Res :=
  let push := k.val = 1
  run (infoQtry k p a b) s fun o t =>
    o.askQueue (if push then .tryPush else .tryPop) (if push then packetOf o.b else []) fun st pk =>
      let t := if st = 0 && !push then t.takeAnswer.writePop b 0 pk else t.takeAnswer
      (t.modG fun g => g.writePred p.val (if st = 0 then ~~~0 else 0) o.act).done o

end Sys2Proof.Machine
end

