-- ==== Sys2Proof/Machine/TableMem.lean ====
section
/-!
DEFINITION. TableMem.lean: retrieval tables in memory: descriptors, buckets and chains, inserts and deletes, the versions that
catalogue units still hold, and projections (R283 to R289, R293, R299).
-/
namespace Sys2Proof.Machine

/-! ### Accesses -/

/-- A fault of an access: cause, status and address (R99). -/
abbrev TabFault := Nat × Nat × Word

/-- Where the n bytes at a VA, which lie in one page, stand for an access kind. -/
def State.tabAt (s : State) (sp : Space) (va : Word) (k : Access) : State × (Nat ⊕ TabFault) :=
  match s.translate sp va k with
  | (s, .fault kind st) => (s, .inr (faultCause kind, faultStatus kind st k, va))
  | (s, .ok pa _ _ _) =>
    match s.windowFault? k pa with
    | (s, some kind) => (s, .inr (faultCause kind, faultStatus kind 0 k, va))
    | (s, none) => (s, .inl pa)

/-- Bytes read in one page. -/
def State.tabRead (s : State) (sp : Space) (va : Word) (n : Nat) (k : Access) : State × (List Byte ⊕ TabFault) :=
  match s.tabAt sp va k with
  | (s, .inr f) => (s, .inr f)
  | (s, .inl pa) => let s := s.touch pa n; (s, .inl (s.mm.bytes pa n))

/-- Bytes read across pages. -/
def State.tabRange (s : State) (sp : Space) (va : Word) (n : Nat) : State × (List Byte ⊕ TabFault) :=
  (chunks va n).foldl (fun (r : State × (List Byte ⊕ TabFault)) c =>
    match r with
    | (s, .inr f) => (s, .inr f)
    | (s, .inl b) =>
      match s.tabRead sp c.1 c.2 .read with
      | (s, .inr f) => (s, .inr f)
      | (s, .inl x) => (s, .inl (b ++ x))) (s, .inl [])

/-! ### Descriptors (R283 to R285) -/

/-- A table's descriptor: its fields, its element type, and its VA and PA. -/
structure TableDesc where
  va : Word := 0
  pa : Nat := 0
  tables : Nat
  bits : Nat
  cap : Nat
  policy : Nat
  rsreq : Bool
  home : Nat
  ty : EType
  dim : Nat
  rows : Nat
  buckets : Word
  proj : Word
  weights : Word
  stride : Word
  pool : Word
  blocks : Nat
  succ : Word
  cursor : Nat
  deriving DecidableEq, Repr

/-- The end of a chain, and an empty free list. -/
def noBlock : Nat := 0xFFFFFFFF

/-- A descriptor that is valid in itself (R285), from its bytes and the format slots of its reader. -/
def tableDesc? (slots : List Nat) (b : List Byte) : Option TableDesc :=
  let f (off n : Nat) : Nat := fieldOf b off n
  let fs := slots.getD (f 7 1 % 8) 0
  let d : TableDesc :=
    { tables := f 1 1, bits := f 2 1, cap := 4 * 2 ^ (f 3 1 % 4), policy := f 4 1, rsreq := f 5 1 % 2 = 1, home := f 6 1, ty := slotType fs
      dim := f 8 2, rows := f 0x0C 4, buckets := word (f 0x10 8), proj := word (f 0x18 8), weights := word (f 0x20 8)
      stride := word (f 0x28 8), pool := word (f 0x30 8), blocks := f 0x38 4, succ := word (f 0x40 8), cursor := f 0x48 4 }
  let ranges := f 0 1 = 5 && 1 ≤ d.tables && d.tables ≤ 16 && 1 ≤ d.bits && d.bits ≤ 16 && f 3 1 ≤ 2 && d.policy ≤ 3 && f 5 1 ≤ 1 &&
    d.home ≤ 15 && f 7 1 ≤ 7 && 16 ≤ d.dim && d.dim ≤ 4096 && d.dim % 16 == 0 && d.rows ≥ 1
  let reserved := f 0x0A 2 == 0 && f 0x4C 4 == 0 && f 0x58 40 == 0
  let aligned := d.buckets.toNat % 128 == 0 && d.proj.toNat % 2 == 0 && d.weights.toNat % 2 == 0 && d.stride.toNat % 2 == 0 &&
    d.pool.toNat % 64 == 0
  let typed := (d.ty == .bf16 || d.ty == .fp16) && fs / 32 % 4 == 0
  let cursor := d.cursor ≤ 2 ^ d.bits && (d.succ != 0 || d.cursor == 0)
  let spill := d.policy != 2 || (d.pool != 0 && d.blocks ≥ 1 && (f 0x3C 4 < d.blocks || f 0x3C 4 == noBlock))
  if ranges && reserved && aligned && typed && cursor && spill then some d else none

/-- Whether a descriptor is valid as another's successor (R285). -/
def TableDesc.succeeds (x d : TableDesc) : Bool :=
  x.succ == 0 && x.cursor == 0 && x.tables == d.tables && x.home == d.home && x.ty == d.ty && x.dim == d.dim && x.rows == d.rows &&
  x.weights == d.weights && x.stride == d.stride

/-- What a read of a descriptor comes to. -/
inductive DescRead where
  | fault (f : TabFault)
  | bad (bytes : List Byte)
  | ok (d : TableDesc) (bytes : List Byte)
  deriving DecidableEq, Repr

/-- A descriptor read at an address; one that is not aligned on 128 bytes is not valid, but may be unreadable (R285, R291). -/
def State.readDescriptor (s : State) (sp : Space) (slots : List Nat) (va : Word) : State × DescRead :=
  if va.toNat % 128 ≠ 0 then
    match s.tabRange sp va 128 with
    | (s, .inr f) => (s, .fault f)
    | (s, .inl _) => (s, .bad [])
  else
    match s.tabAt sp va .read with
    | (s, .inr f) => (s, .fault f)
    | (s, .inl pa) =>
      let s := s.touch pa 128
      let b := s.mm.bytes pa 128
      match tableDesc? slots b with
      | none => (s, .bad b)
      | some d => (s, .ok { d with va := va, pa := pa } b)

/-- A table as an operation finds it: INVALID with the descriptor's bytes where they could be read, or valid with its successor
(R283). -/
inductive TableRead where
  | fault (f : TabFault)
  | invalid (bytes : List Byte)
  | ok (d : TableDesc) (succ : Option TableDesc) (bytes : List Byte)
  deriving DecidableEq, Repr

/-- A table read with its successor (R283, R285). -/
def State.readTable (s : State) (sp : Space) (slots : List Nat) (va : Word) : State × TableRead :=
  match s.readDescriptor sp slots va with
  | (s, .fault f) => (s, .fault f)
  | (s, .bad b) => (s, .invalid b)
  | (s, .ok d b) =>
    if d.succ = 0 then (s, .ok d none b)
    else
      match s.readDescriptor sp slots d.succ with
      | (s, .ok x _) => (s, if x.succeeds d then .ok d (some x) b else .invalid b)
      | (s, _) => (s, .invalid b)

/-- The code of a state (R292): 1 ACTIVE, 2 REHASHING, 3 MIGRATED. -/
def TableDesc.state (d : TableDesc) : Nat := if d.succ = 0 then 1 else if d.cursor < 2 ^ d.bits then 2 else 3

/-! ### Buckets (R286) -/

/-- An overflow block of a chain. -/
structure ChainBlock where
  pa : Nat
  count : Nat
  ids : List Nat
  deriving DecidableEq, Repr

/-- A bucket with its chain, malformed contents read as R286 says. -/
structure TableBucket where
  pa : Nat
  count : Nat
  ring : Nat
  ids : List Nat
  chain : List ChainBlock
  deriving DecidableEq, Repr

/-- Row ids from an offset of bytes on. -/
def idsOf (b : List Byte) (n : Nat) : List Nat := (List.range n).map fun i => fieldOf b (8 + 4 * i) 4

/-- The bucket order (R286). -/
def TableBucket.order (b : TableBucket) : List Nat := b.ids.take b.count ++ b.chain.flatMap fun c => c.ids.take c.count

/-- The lines of a bucket and its chain. -/
def TableBucket.lines (b : TableBucket) : List Nat := (b.pa / 128 :: b.chain.map fun c => c.pa / 128).eraseDups

/-- The VA of bucket b of table t (R284). -/
def TableDesc.bucketVa (d : TableDesc) (t b : Nat) : Word := d.buckets + word (8 * d.cap * (t * 2 ^ d.bits + b))

/-- The VA of an overflow block (R286). -/
def TableDesc.blockVa (d : TableDesc) (i : Nat) : Word := d.pool + word (64 * i)

/-- A chain from a block index on; at most as many blocks as the pool holds (R286). A block's reserved field is ignored: R286 names no
status for one that is not zero (DESIGN CHOICE, log 30). -/
def State.readChain (s : State) (sp : Space) (d : TableDesc) (k : Access) (i fuel : Nat) : State × (List ChainBlock ⊕ TabFault) :=
  match fuel with
  | 0 => (s, .inl [])
  | fuel + 1 =>
    if i ≥ d.blocks then (s, .inl [])
    else
      match s.tabAt sp (d.blockVa i) k with
      | (s, .inr f) => (s, .inr f)
      | (s, .inl pa) =>
        let s := s.touch pa 64
        let b := s.mm.bytes pa 64
        match s.readChain sp d k (fieldOf b 0 4) fuel with
        | (s, .inr f) => (s, .inr f)
        | (s, .inl r) => (s, .inl ({ pa := pa, count := min (fieldOf b 4 1) 14, ids := idsOf b 14 } :: r))

/-- Bucket b of table t. A bucket's reserved field is ignored: R286 names no status for one that is not zero (DESIGN CHOICE, log 30). -/
def State.readBucket (s : State) (sp : Space) (d : TableDesc) (t b : Nat) (k : Access) : State × (TableBucket ⊕ TabFault) :=
  match s.tabAt sp (d.bucketVa t b) k with
  | (s, .inr f) => (s, .inr f)
  | (s, .inl pa) =>
    let s := s.touch pa (8 * d.cap)
    let x := s.mm.bytes pa (8 + 4 * d.cap)
    match s.readChain sp d k (fieldOf x 4 4) d.blocks with
    | (s, .inr f) => (s, .inr f)
    | (s, .inl c) =>
      (s, .inl { pa := pa, count := min (fieldOf x 0 1) d.cap, ring := if fieldOf x 1 1 ≥ d.cap then 0 else fieldOf x 1 1
                 ids := idsOf x d.cap, chain := c })

/-! ### Inserts and deletes (R287) -/

/-- A bucket as a step has found it: its table's PA, its own, its lines and its ids. -/
structure Former where
  table : Nat
  pa : Nat
  lines : List Nat
  ids : List Nat

/-- A step's progress: the state, the buckets as they stood before it, and whether an insert met a full bucket under TRAP. -/
structure TableStep where
  s : State
  unit : Nat
  old : List Former := []
  full : Bool := false

/-- A bucket about to change is remembered, once. -/
def TableStep.note (a : TableStep) (d : TableDesc) (b : TableBucket) : TableStep :=
  if a.old.any fun e => e.pa == b.pa then a else { a with old := a.old ++ [{ table := d.pa, pa := b.pa, lines := b.lines, ids := b.order }] }

/-- Bytes that a step writes. -/
def TableStep.put (a : TableStep) (pa : Nat) (bs : List Byte) : TableStep := { a with s := a.s.storeRaw a.unit pa bs }

/-- A table's descriptor about to be changed: its page must let it (R96). -/
def TableStep.openDesc (a : TableStep) (sp : Space) (d : TableDesc) : TableStep × Option TabFault :=
  match a.s.tabAt sp d.va .write with
  | (s, .inr f) => ({ a with s := s }, some f)
  | (s, .inl _) => ({ a with s := s }, none)

/-- A 32-bit field of a descriptor changed by the home unit. -/
def TableStep.bump (a : TableStep) (d : TableDesc) (off : Nat) (delta : Int) : TableStep :=
  let a := { a with s := a.s.touch (d.pa + off) 4 }
  a.put (d.pa + off) (leBytes (((a.s.mm.num (d.pa + off) 4 : Int) + delta) % 2 ^ 32).toNat 4)

/-- Ids held and overflow events (R284). -/
def TableStep.held (a : TableStep) (d : TableDesc) (delta : Int) : TableStep := a.bump d 0x50 delta
def TableStep.overflow (a : TableStep) (d : TableDesc) : TableStep := a.bump d 0x54 1

/-- A block taken from the free list and linked at the end of a bucket's chain with one row (R286, R287). -/
def TableStep.takeBlock (a : TableStep) (sp : Space) (d : TableDesc) (b : TableBucket) (h r : Nat) : TableStep × (Nat ⊕ TabFault) :=
  match a.s.tabAt sp (d.blockVa h) .write with
  | (s, .inr f) => ({ a with s := s }, .inr f)
  | (s, .inl pa) =>
    let s := s.touch pa 4
    let next := s.mm.num pa 4
    let next := if next < d.blocks then next else noBlock
    let a := ({ a with s := s }).put (d.pa + 0x3C) (leBytes next 4)
    let a := (a.put pa (leBytes noBlock 4 ++ leBytes 1 1)).put (pa + 8) (leBytes r 4)
    let a := match b.chain.getLast? with
      | some c => a.put c.pa (leBytes h 4)
      | none => a.put (b.pa + 4) (leBytes h 4)
    (a.held d 1, .inl 0)

/-- An insert of a row into a bucket (R287); outcomes as R295 numbers them, 6 for a full bucket under TRAP; in a rehash TRAP acts
as REJECT (R296). -/
def TableStep.insert (a : TableStep) (sp : Space) (d : TableDesc) (t code r : Nat) (rehash : Bool) : TableStep × (Nat ⊕ TabFault) :=
  match a.s.readBucket sp d t (code % 2 ^ d.bits) .write with
  | (s, .inr f) => ({ a with s := s }, .inr f)
  | (s, .inl b) =>
    let a := { a with s := s }
    if b.order.contains r then (a, .inl 1)
    else if d.policy = 3 ∧ b.count ≥ d.cap ∧ !rehash then ({ a with full := true }, .inl 6)
    else
    match a.openDesc sp d with
    | (a, some f) => (a, .inr f)
    | (a, none) =>
    if b.count < d.cap then
      ((((a.note d b).put (b.pa + 8 + 4 * b.count) (leBytes r 4)).put b.pa (leBytes (b.count + 1) 1)).held d 1, .inl 0)
    else if d.policy = 1 then
      ((((a.note d b).put (b.pa + 8 + 4 * b.ring) (leBytes r 4)).put (b.pa + 1) (leBytes ((b.ring + 1) % d.cap) 1)).overflow d, .inl 2)
    else if d.policy = 2 then
      match b.chain.find? fun c => c.count < 14 with
      | some c =>
        ((((a.note d b).put (c.pa + 8 + 4 * c.count) (leBytes r 4)).put (c.pa + 4) (leBytes (c.count + 1) 1)).held d 1, .inl 0)
      | none =>
        let a := { a with s := a.s.touch (d.pa + 0x3C) 4 }
        let h := a.s.mm.num (d.pa + 0x3C) 4
        if h ≥ d.blocks then (a.overflow d, .inl 4) else (a.note d b).takeBlock sp d b h r
    else (a.overflow d, .inl 3)

/-- Row ids written to slots from slot 0 on. -/
def TableStep.putIds (a : TableStep) (pa : Nat) (ids : List Nat) : TableStep := a.put (pa + 8) (ids.flatMap fun r => leBytes r 4)

/-- A row id removed from slots in use, later ones moved down. -/
def dropSlot (ids : List Nat) (count r : Nat) : List Nat := (ids.take count).erase r

/-- A delete of a row from a bucket (R287): the outcome, and whether the bucket changed. -/
def TableStep.delete (a : TableStep) (sp : Space) (d : TableDesc) (t code r : Nat) : TableStep × ((Nat × Bool) ⊕ TabFault) :=
  match a.s.readBucket sp d t (code % 2 ^ d.bits) .write with
  | (s, .inr f) => ({ a with s := s }, .inr f)
  | (s, .inl b) =>
    let a := { a with s := s }
    let turn := d.policy = 1 && b.count == d.cap && a.s.mm.num (b.pa + 1) 1 != 0
    let ids := if turn then b.ids.drop b.ring ++ b.ids.take b.ring else b.ids
    let turned (a : TableStep) : TableStep := if turn then ((a.note d b).putIds b.pa ids).put (b.pa + 1) (leBytes 0 1) else a
    if !b.order.contains r then (turned a, .inl (1, turn))
    else
      match a.openDesc sp d with
      | (a, some f) => (a, .inr f)
      | (a, none) =>
        let a := (turned a).note d b
        if (ids.take b.count).contains r then
          (((a.putIds b.pa (dropSlot ids b.count r)).put b.pa (leBytes (b.count - 1) 1)).held d (-1), .inl (0, true))
        else
          match b.chain.find? fun c => (c.ids.take c.count).contains r with
          | some c => (((a.putIds c.pa (dropSlot c.ids c.count r)).put (c.pa + 4) (leBytes (c.count - 1) 1)).held d (-1), .inl (0, true))
          | none => (a, .inl (1, turn))

/-! ### Versions (R288, R299) -/

/-- Superseded versions of the buckets that a step changed: the home unit and the issuing gallery's unit drop them at once, the
others within 2,000 clk; a rehash drops them everywhere (R288, R296). -/
def TableStep.supersede (a : TableStep) (desc : Word) (units : List Nat) (r : TReq) : State :=
  let s := a.s
  let changed (v : OldVersion) : Bool := a.old.any fun e => e.pa == v.pa
  let keep := (s.oldBuckets.map fun v => if changed v then { v with units := v.units.filter units.contains } else v).filter
    fun v => !v.units.isEmpty
  let fresh : List OldVersion := if units.isEmpty then [] else a.old.map fun e =>
    { desc := desc, table := e.table, pa := e.pa, lines := e.lines, ids := e.ids, units := units, serial := r.serial, by_ := r.by_
      scope := r.scope, until_ := s.cyc + 2000, stamp := s.stamp }
  { s with oldBuckets := keep ++ fresh }

/-- A REHASH step sets its table's cursor to c + 1: earlier versions of the successor's buckets are left to probes that use a lower one (R299
rule 4), and a probe that the step is not ordered before may find the cursor as it stood (R310; log 8). -/
def State.setCursor (s : State) (r : TReq) (d sd : TableDesc) : State :=
  let c := d.cursor
  let bound (v : OldVersion) : OldVersion := if v.table = sd.pa && v.below.all (c + 1 < ·) then { v with below := some (c + 1) } else v
  let old : OldVersion := { desc := d.va, table := d.pa, pa := d.pa, lines := [d.pa / 128], ids := [c], units := List.range 16, serial := r.serial
                            by_ := r.by_, scope := r.scope, until_ := s.cyc + 2000, stamp := s.stamp }
  let s := s.storeRaw r.unit (d.pa + 0x48) (leBytes (c + 1) 4)
  { s with oldBuckets := s.oldBuckets.map bound ++ [old] }.schedule 2000 (.bucketCacheDrop d.va.toNat)

/-- BUCKET_CACHE_DROP (R288): versions superseded for 2,000 clk, or awaited by a TFENCE, are dropped. -/
def execBucketCacheDrop (desc : Nat) (s : State) : Res :=
  .next { s with oldBuckets := dropThrough (fun v => v.desc.toNat == desc && v.until_ ≤ s.cyc) s.oldBuckets }

/-- Whether no probe of an operation's path with a cursor reads a version, nor an older one: the path's own step has superseded it, or the
path has read a later one, or a REHASH step that the cursor tells of came after it (R299). -/
def OldVersion.barred (v : OldVersion) (op : EngineOp) (cursor : Nat) : Bool :=
  (v.serial == op.serial && v.by_ &&& op.by_ != 0) || v.below.any (· ≤ cursor) ||
  v.seenBy.any fun e => e.1 == op.serial && e.2 &&& op.by_ != 0

/-- What a probe reads of a line, as its gallery's unit holds it: the newest version or, by a free choice, one that the unit may still hold;
its path then reads no older one (R299). -/
def State.cachedVersion (s : State) (op : EngineOp) (cursor pa : Nat) (newest : List Nat) : State × List Nat :=
  let olds := (((s.oldBuckets.filter fun v => v.pa == pa).reverse.takeWhile fun v => !v.barred op cursor).reverse).filter
    fun v => v.units.contains (galleryOf op.core)
  let r := olds.foldl (fun (r : State × Option OldVersion) v =>
    match r.2 with
    | some x => (r.1, some x)
    | none => (r.1.useFree 1, if r.1.freeBit then some v else none)) (s, none)
  let older := match r.2 with
    | some v => olds.takeWhile (· != v)
    | none => olds
  let mark (v : OldVersion) : OldVersion := if older.contains v then { v with seenBy := (op.serial, op.by_) :: v.seenBy } else v
  ({ r.1 with oldBuckets := r.1.oldBuckets.map mark }, match r.2 with
    | some v => v.ids
    | none => newest)

/-! ### Projections (R293) -/

/-- Two-byte elements. -/
def elems2 (t : EType) (ftz : Bool) (b : List Byte) : List Elem :=
  (List.range (b.length / 2)).map fun i => elemOf t ftz (fieldOf b (2 * i) 2)

/-- Fraction bits of an element type. -/
def fracBits (t : EType) : Nat :=
  match t.kind with
  | .flt f => f.fbits
  | _ => 0

/-- The sum of products of two vectors, rounded into FP32 after every 16 of them (R293, R297). -/
def dotSteps (t : EType) (ftz : Bool) (rm : Rnd) (acc : FRes) (q p : List Elem) (n : Nat) : FRes :=
  match n with
  | 0 => acc
  | n + 1 =>
    let ts := (List.zip (q.take 16) (p.take 16)).map fun e => termOf e.1 e.2 (fracBits t) [scaleOne, scaleOne, scaleOne, scaleOne]
    let r := accumulate false ftz rm acc.bits ts
    dotSteps t ftz rm { bits := r.bits, flags := acc.flags.join r.flags } (q.drop 16) (p.drop 16) n

/-- The dot product of two vectors of D elements. -/
def TableDesc.dot (d : TableDesc) (ftz : Bool) (rm : Rnd) (q p : List Elem) : FRes := dotSteps d.ty ftz rm { bits := 0 } q p (d.dim / 16)

/-- Whether a projection gives a 1 bit: greater than 0 and no NaN. -/
def positive32 (bits : Nat) : Bool := 0 < bits && bits ≤ 0x7F800000

/-- A projection column as elements. -/
def State.projColumn (s : State) (sp : Space) (d : TableDesc) (j : Nat) : State × (List Elem ⊕ TabFault) :=
  match s.tabRange sp (d.proj + word (2 * (j * d.dim))) (2 * d.dim) with
  | (s, .inr f) => (s, .inr f)
  | (s, .inl b) => (s, .inl (elems2 d.ty false b))

/-- The codes of one table for a list of vectors. -/
def State.tableCodes (s : State) (sp : Space) (d : TableDesc) (t : Nat) (qs : List (List Elem)) : State × (List Nat ⊕ TabFault) :=
  (List.range d.bits).foldl (fun (r : State × (List Nat ⊕ TabFault)) k =>
    match r with
    | (s, .inr f) => (s, .inr f)
    | (s, .inl cs) =>
      match s.projColumn sp d (t * d.bits + k) with
      | (s, .inr f) => (s, .inr f)
      | (s, .inl p) =>
        (s, .inl ((List.zip cs qs).map fun e => if positive32 (d.dot false .rne e.2 p).bits then e.1 + 2 ^ k else e.1)))
    (s, .inl (qs.map fun _ => 0))

/-- The codes of every table of a family for a list of vectors, by table. -/
def State.familyCodes (s : State) (sp : Space) (d : TableDesc) (qs : List (List Elem)) : State × (List (List Nat) ⊕ TabFault) :=
  (List.range d.tables).foldl (fun (r : State × (List (List Nat) ⊕ TabFault)) t =>
    match r with
    | (s, .inr f) => (s, .inr f)
    | (s, .inl l) =>
      match s.tableCodes sp d t qs with
      | (s, .inr f) => (s, .inr f)
      | (s, .inl c) => (s, .inl (l ++ [c]))) (s, .inl [])

end Sys2Proof.Machine
end

