-- ==== Sys2Proof/Machine/Table.lean ====
section
/-!
DEFINITION. Table.lean: the instructions on retrieval tables, their home units, and the retrieval class (R288 to R301).
-/
namespace Sys2Proof.Machine

/-! ### Operands (R289, R290) -/

/-- A hash-family register; one that does not exist or is unbound reads as an empty binding (R290). -/
def Group.hfReg (g : Group) (n : Nat) : Binding :=
  let b := Store.getOr g.hf n {}
  if b.valid then b else {}

/-- The word of a binding (R289). -/
def Binding.word (b : Binding) : Word := if b.valid then (b.desc / 128) * 128 + b.lm1 * 8 + 1 else 0

/-- Half the registers of a code block (R289). -/
def Binding.half (b : Binding) : Nat := (b.lm1.toNat + 4) / 4

/-- A code block from a g register on (R289). -/
def codeBlock (a : Opnd) (half : Nat) : List RegCode :=
  match a with
  | .greg n => (List.range (2 * half)).map fun i => 0x30 + n.val + i
  | _ => []

/-- The value that field B of the issuing instruction has in a lane, if it can be read now. -/
def State.peekB (s : State) (b : Opnd) (l : Nat) : Option Word :=
  match s.p.retry, (s.p.wait.bind fun w => if w.stage > 0 then w.b else none), b with
  | some r, _, _ => some r.b
  | none, some v, _ => some (v.at l)
  | none, none, .lit => some (s.cur.litB.setWidth 64)
  | none, none, .zero => some 0
  | none, none, b =>
    match b.reg? with
    | some r => if s.g.regState r = .full then some ((s.g.regVal r).at l) else none
    | none => none

/-- The code of a table in a block's values, from a half on (R289). -/
def codeOf (block : List Lanes) (from_ l t : Nat) : Nat := ((block.getD (from_ + t / 4) []).at l).toNat / 2 ^ (16 * (t % 4)) % 2 ^ 16

/-- The round trip to a unit of a gallery (R300). -/
def tableTrip (from_ to_ : Nat) : Nat := if from_ = to_ then 100 else if from_ / 8 = to_ / 8 then 260 else 620

/-! ### Requests and answers (R288, R295) -/

/-- The path waits for the answer of a token, and no delivery abandons the wait; a pre-emption halts the group past the instruction, which
HFAM names its register and descriptor to (R295). -/
def Ops.awaitTable (o : Ops) (tok : Nat) (hf : Option (Nat × Word)) : State :=
  let s := o.orig
  let next := match s.p.buf with
    | some b => b.after (slotOf s.cur.pc)
    | none => nextBundle s.cur.pc
  let x : Passed :=
    { token := tok, pc := s.cur.pc, instr := s.cur.instr, next := next, dest := (o.info.dst.map Opnd.code).getD 0x0C, act := o.act, by_ := o.live
      a := o.a, b := o.b, dead := s.deadMarks o.info, hf := hf, half := (o.info.blockA.length + 1) / 2
      depths := s.g.slices.map fun x => (x.idx, x.depth) }
  (o.waitAt .answer 1 tok).tick.modP fun q => { q with wait := q.wait.map fun w => { w with firm := true, past := some x } }

/-- A request sent towards its unit, which it reaches some clk later; the path waits for the answer. -/
def Ops.askTable (o : Ops) (r : TReq) (delay : Nat) (hf : Option (Nat × Word) := none) : State :=
  let tok := o.orig.stamp
  let t := o.awaitTable tok hf
  { t with treqs := t.treqs ++ [{ r with token := tok, due := t.cyc + delay }] }.schedule delay (.tableUpdateStep tok)

/-- A request of the issuing instruction. -/
def Ops.tableReq (o : Ops) (kind : TKind) (desc : Word) (lm1 sel : Nat) (lanes : List TLane) : TReq :=
  let g := o.orig.g
  { token := 0, unit := g.unit, serial := g.serial, kind := kind, desc := desc, space := o.orig.wideSpace g o.act, part := g.part
    world := g.world, gallery := galleryOf g.core, lm1 := lm1, sel := sel, lanes := lanes, slots := o.orig.wideSlots g o.act
    scope := modeScope o.um, by_ := o.live }

/-- An answer that needs no descriptor, from the unit of the issuing gallery (R288). -/
def Ops.answerHere (o : Ops) (vals : List Word) : State :=
  let tok := o.orig.stamp
  let t := o.awaitTable tok none
  let a : TAnswer := { token := tok, vals := vals }
  { t with tanswers := t.tanswers ++ [a] }.schedule 100 (.homeUnitAnswer tok)

/-- An answer taken from those that have come. -/
def State.takeTable (s : State) (token : Nat) : State := { s with tanswers := s.tanswers.filter fun a => a.token != token }.takeAnswer

/-- The answer that has come for the issuing instruction, taken from the states before it and in which it runs. -/
def Ops.tableAnswer (o : Ops) (t : State) : Option (TAnswer × Ops × State) :=
  if o.stage = 1 ∧ o.orig.p.answer.isSome then
    (o.orig.tanswers.find? fun a => a.token == o.arg).map fun a => (a, { o with orig := o.orig.takeTable o.arg }, t.takeTable o.arg)
  else none

/-- A request answered after some clk. -/
def State.answerTable (s : State) (r : TReq) (a : TAnswer) (delay : Nat) : State :=
  { s with treqs := s.treqs.filter (fun (x : TReq) => x.token != r.token), tanswers := s.tanswers ++ [{ a with token := r.token }] }.schedule delay
    (.homeUnitAnswer r.token)

/-- A request that goes on or does its next step after some clk. -/
def State.laterTable (s : State) (r : TReq) (delay : Nat) : State :=
  { s with treqs := s.treqs.map fun (x : TReq) => if x.token = r.token then r else x }.schedule delay (.tableUpdateStep r.token)

/-- Whether a group has a token's answer still to come, with its path waiting or past the instruction. -/
def Group.expects (g : Group) (token : Nat) : Bool := g.paths.any (fun q => q.awaits token) || g.passed.any fun x => x.token == token

/-- Whether the group of an answer is saved, or about to be (R295). -/
def State.awaitedSaved (s : State) (token : Nat) : Bool :=
  s.ctxs.any (fun c => c.saved.any fun g => g.expects token) || s.groups.any fun g => g.passed.any fun x => x.token == token && x.held

/-- The destination of a passed instruction filled in the lanes without a fault, and HFAM's register bound (R291, R295). With no such lane
the register is as the instruction found it. -/
def Group.fill (g : Group) (x : Passed) (a : TAnswer) : Group :=
  let ok := x.act &&& ~~~maskOf fun l => a.faults.any fun f => f.1 == l
  let v : Lanes := if a.vals.length = 32 then a.vals else Lanes.uniform (a.vals.headD 0)
  let g := { g with passed := g.passed.filter fun y => y.token != x.token }
  let g := if x.dest < 0x10 || g.regState x.dest != .pending x.token then g
    else if a.trap.isSome || ok = 0 then g.setRegState x.dest x.was else g.writeReg x.dest v ok
  match x.hf with
  | some (n, desc) =>
    if a.vals.headD 3 = 0 then { g with hf := Store.set g.hf n { desc := desc, lm1 := a.vals.getD 1 0, valid := true } } else g
  | none => g

/-- The answer to an instruction that a pre-emption has halted its group past: the outcome fills the destination and is not pushed (R64,
R295). A lane that faulted detaches with its record. A full bucket raises TABLEFULL on a path that still holds a lane of the instruction's,
with %tpc naming the instruction (DESIGN CHOICE, log 38). -/
def State.fillPassed (s : State) (g : Group) (x : Passed) (a : TAnswer) : State :=
  let s := { s with tanswers := s.tanswers.filter fun y => y.token != x.token }.modGrp g.unit fun g => g.fill x a
  let s := match a.trap, g.paths.find? fun q => g.live q.id &&& x.by_ != 0 with
    | some c, some q => s.trapGroupAt g.unit q.id c x.pc
    | _, _ => s
  let fault (s : State) (f : Nat × Nat × Nat × Word) : State :=
    let h := s.grp g.unit
    let sl := h.slice (f.1 / 4)
    if x.act.getLsbD f.1 && !sl.gone.getLsbD (f.1 % 4) && !sl.detached.getLsbD (f.1 % 4) then
      let r := { h.threadRec f.1 f.2.1 x.pc with
        dest := x.dest, status := f.2.2.1, instr := x.instr, fault := f.2.2.2, a := x.a.at f.1, b := x.b.at f.1
        depth := Store.getOr x.depths (f.1 / 4) 0 }
      s.detachLanes g.unit sl.path [s.nested h r]
    else s
  (a.faults.foldl fault s).reap g.unit

/-- HOME_UNIT_ANSWER (R288, R295): the path goes on, or the destination is filled; of a saved group, the answer is kept until it is
resumed, and that of a group that is gone is dropped. -/
def execHomeUnitAnswer (token : Nat) (s : State) : Res :=
  if s.groups.any fun g => g.paths.any fun q => q.awaits token then .next (s.answerToken token [])
  else if let some g := s.groups.find? fun g => g.passed.any fun x => x.token == token && !x.held then
    match g.passed.find? (fun x => x.token == token), s.tanswers.find? fun a => a.token == token with
    | some x, some a => .next (s.fillPassed g x a)
    | _, _ => .next s
  else if s.awaitedSaved token then .next s
  else .next { s with tanswers := s.tanswers.filter fun a => a.token != token }

/-! ### HFAM and TSTAT at their units (R291, R292) -/

/-- The values that HFAM and TSTAT get from a descriptor read; those that an unreadable one does not give are free. -/
def State.statAnswer (s : State) (r : TReq) : State × List Word :=
  match r.kind with
  | .hfam =>
    match s.readDescriptor r.space r.slots r.desc with
    | (s, .fault _) => (s, [3])
    | (s, .bad _) => (s, [2])
    | (s, .ok d _) => (s, [0, word (d.tables - 1)])
  | _ =>
    let field (b : List Byte) (state : Nat) : Word := match r.sel with
      | 0 => word (state * 2 ^ 32 + fieldOf b 0x48 4)
      | 1 => word (fieldOf b 0x50 4)
      | 2 => word (fieldOf b 0x54 4)
      | _ => word (fieldOf b 0x3C 4)
    match s.readTable r.space r.slots r.desc with
    | (s, .ok d _ b) => (s, [field b d.state])
    | (s, .invalid b) => (s, [field b 4])
    | (s, .fault _) => (s.useFree 1, [(if r.sel = 0 then 0x400000000 else 0) + (s.freeWord &&& 0xFFFFFFFF)])

/-- The two legs of HFAM and TSTAT (R288). -/
def State.statStep (s : State) (r : TReq) : State :=
  if r.started then
    let (s, v) := (s.dropOrdered r.serial r.by_ r.token).statAnswer r
    s.answerTable r { token := 0, vals := v } r.steps
  else
    match s.readDescriptor r.space r.slots r.desc with
    | (s, .ok d _) =>
      let half := tableTrip r.gallery d.home / 2
      s.laterTable { r with started := true, steps := half } (half - 50)
    | (s, _) =>
      let (s, v) := s.statAnswer r
      s.answerTable r { token := 0, vals := v } 50

/-! ### Updates (R295, R296) -/

/-- The BADARG status of a lane (R295). -/
def laneBad : Word := 0x500000000

/-- One table of one lane's update; the highest outcome, OTHER and CHG so far. -/
def TableStep.updateOne (a : TableStep) (r : TReq) (d : TableDesc) (succ : Option TableDesc) (x : TLane) (t : Nat) :
    TableStep × ((Nat × Bool) ⊕ TabFault) :=
  let cur := x.cur.getD t 0 % 2 ^ d.bits
  let (tbl, code) := match succ with
    | some sd => if cur < d.cursor then (sd, x.succ.getD t 0) else (d, cur)
    | none => (d, cur)
  match r.kind with
  | .tdel => a.delete r.space tbl t code x.row
  | _ =>
    match a.insert r.space tbl t code x.row false with
    | (a, .inl c) => (a, .inl (c, c == 0 || c == 2))
    | (a, .inr f) => (a, .inr f)

/-- One lane's update of every table: its status word, or the fault that undoes the lane's part (R295). -/
def TableStep.updateLane (a : TableStep) (r : TReq) (d : TableDesc) (succ : Option TableDesc) (x : TLane) : TableStep × (Word ⊕ TabFault) :=
  let step (p : TableStep × ((Nat × Nat × Nat) ⊕ TabFault)) (t : Nat) : TableStep × ((Nat × Nat × Nat) ⊕ TabFault) :=
    match p with
    | (a, .inr f) => (a, .inr f)
    | (a, .inl (code, other, chg)) =>
      match a.updateOne r d succ x t with
      | (a, .inr f) => (a, .inr f)
      | (a, .inl (c, ch)) => (a, .inl (max code c, if c = 0 then other else other + 2 ^ t, if ch then chg + 2 ^ t else chg))
  match (List.range d.tables).foldl step (a, .inl (0, 0, 0)) with
  | (b, .inr f) => ({ a with s := { a.s with free := b.s.free, mm := { a.s.mm with seen := b.s.mm.seen } }, full := b.full }, .inr f)
  | (b, .inl (code, other, chg)) => (b, .inl (word (code * 2 ^ 32 + other * 2 ^ 16 + chg)))

/-- The step of a TINS or TDEL (R295): status words by lane and faults by lane, or TABLEFULL with nothing changed. -/
def State.updateStep (s : State) (r : TReq) : State :=
  let back := tableTrip r.gallery r.sel / 2
  let bad (s : State) : State := s.answerTable r { token := 0, vals := List.replicate 32 laneBad } back
  match s.readTable r.space r.slots r.desc with
  | (s, .ok d succ _) =>
    if d.tables ≠ r.lm1 + 1 then bad s
    else
      let step (p : TableStep × List (Nat × Word) × List (Nat × TabFault)) (x : TLane) : TableStep × List (Nat × Word) × List (Nat × TabFault) :=
        if x.row ≥ d.rows then p
        else
          match p.1.updateLane r d succ x with
          | (a, .inl w) => (a, p.2.1 ++ [(x.lane, w)], p.2.2)
          | (a, .inr f) => (a, p.2.1, p.2.2 ++ [(x.lane, f)])
      let res := r.lanes.foldl step ({ s := s, unit := r.unit }, [], [])
      if res.1.full then
        { s with free := res.1.s.free, mm := { s.mm with seen := res.1.s.mm.seen } }.answerTable r { token := 0, trap := some 0x14 } back
      else
        let units := (List.range 16).filter fun u => u != d.home && u != r.gallery
        let t := res.1.supersede d.va units r
        let t := if res.1.old.isEmpty then t else t.schedule 2000 (.bucketCacheDrop d.va.toNat)
        let vals := (List.range 32).map fun l => ((res.2.1.find? fun e => e.1 == l).map (·.2)).getD laneBad
        t.answerTable r { token := 0, vals := vals, faults := res.2.2.map fun e => (e.1, e.2.1, e.2.2.1, e.2.2.2) } back
  | (s, _) => bad s

/-- A row migrated into table t of the successor (R296); dropped rows are counted. -/
def TableStep.migrateRow (a : TableStep) (r : TReq) (d sd : TableDesc) (t row : Nat) : TableStep × (Nat ⊕ TabFault) :=
  match a.s.tabRange r.space (d.weights + word row * d.stride) (2 * d.dim) with
  | (s, .inr f) => ({ a with s := s }, .inr f)
  | (s, .inl b) =>
    match s.tableCodes r.space sd t [elems2 d.ty false b] with
    | (s, .inr f) => ({ a with s := s }, .inr f)
    | (s, .inl cs) =>
      match ({ a with s := s }).insert r.space sd t (cs.headD 0) row true with
      | (a, .inr f) => (a, .inr f)
      | (a, .inl c) => (a, .inl (if c = 3 ∨ c = 4 then 1 else 0))

/-- The bucket step of a REHASH at its cursor: the rows not inserted and the rows migrated (R296). -/
def State.migrate (s : State) (r : TReq) (d sd : TableDesc) : State × ((Nat × Nat) ⊕ TabFault) :=
  let row (p : TableStep × ((Nat × Nat) ⊕ TabFault)) (e : Nat × Nat) : TableStep × ((Nat × Nat) ⊕ TabFault) :=
    match p with
    | (a, .inr f) => (a, .inr f)
    | (a, .inl (n, m)) =>
      match a.migrateRow r d sd e.1 e.2 with
      | (a, .inr f) => (a, .inr f)
      | (a, .inl k) => (a, .inl (n + k, m + 1))
  let table (p : TableStep × ((Nat × Nat) ⊕ TabFault)) (t : Nat) : TableStep × ((Nat × Nat) ⊕ TabFault) :=
    match p with
    | (a, .inr f) => (a, .inr f)
    | (a, .inl n) =>
      match a.s.readBucket r.space d t d.cursor .read with
      | (s, .inr f) => ({ a with s := s }, .inr f)
      | (s, .inl b) => (b.order.map fun x => (t, x)).foldl row ({ a with s := s }, .inl n)
  match (List.range d.tables).foldl table ({ s := s, unit := r.unit }, .inl (0, 0)) with
  | (a, .inr f) => ({ s with free := a.s.free, mm := { s.mm with seen := a.s.mm.seen } }, .inr f)
  | (a, .inl n) =>
    match a.openDesc r.space d with
    | (a, some f) => ({ s with free := a.s.free, mm := { s.mm with seen := a.s.mm.seen } }, .inr f)
    | (a, none) => ((a.supersede sd.va [] r).setCursor r d sd, .inl n)

/-- REHASH's result word (R296). -/
def rehashWord (st cursor dropped : Nat) : Word := word (st * 2 ^ 32) ||| word cursor ||| word (min dropped 0xFFFF * 2 ^ 40)

/-- A bucket step of a REHASH, for which its unit is busy from its beginning on (R296, R300); with nothing to migrate it takes no time. -/
def State.rehashStep (s : State) (r : TReq) : State :=
  match s.readTable r.space r.slots r.desc with
  | (s, .ok d (some sd) _) =>
    if r.steps = 0 ∨ d.cursor ≥ 2 ^ d.bits then s.laterTable { r with started := true, steps := 0 } 0
    else
      match s.migrate r d sd with
      | (s, .inr f) => s.answerTable r { token := 0, faults := laneIds.map fun l => (l, f.1, f.2.1, f.2.2) } (tableTrip r.gallery r.sel / 2)
      | (s, .inl (n, m)) =>
        let cost := 8 * d.tables + m * (440 + (d.tables * sd.bits + 31) / 32 * (d.dim / 16) * 8)
        s.laterTable { r with started := true, steps := r.steps - 1, dropped := r.dropped + n } cost
  | (s, _) => s.laterTable { r with started := true, steps := 0 } 0

/-- The end of a bucket step: the answer, or the request takes its turn again for its next step (R288, R296). -/
def State.rehashNext (s : State) (r : TReq) : State :=
  let put (s : State) (v : Word) : State := s.answerTable r { token := 0, vals := [v] } (tableTrip r.gallery r.sel / 2)
  match s.readTable r.space r.slots r.desc with
  | (s, .ok d (some _) _) =>
    if d.cursor ≥ 2 ^ d.bits then put s (rehashWord 1 d.cursor r.dropped)
    else if r.steps = 0 then put s (rehashWord 0 d.cursor r.dropped)
    else { s with treqs := s.treqs.map fun (x : TReq) => if x.token = r.token then { r with started := false, due := s.cyc } else x }
  | (s, .ok _ none _) => put s (rehashWord 2 0 r.dropped)
  | (s, _) => put s (rehashWord 5 0 r.dropped)

/-! ### The order of a home unit (R288) -/

/-- Whether a request is performed in steps at a home unit. -/
def TKind.isUpdate (k : TKind) : Bool :=
  match k with
  | .tins | .tdel | .rehash => true
  | .hfam | .tstat => false

/-- The request whose step a home unit takes up next: while none is under way, the first to have reached it. -/
def State.nextUpdate (s : State) (home : Nat) : Option TReq :=
  let here := s.treqs.filter fun r => r.kind.isUpdate && r.sel == home
  if here.any (·.started) then none else firstBy (fun a b => a.due < b.due) (here.filter fun r => r.due ≤ s.cyc)

/-- A home unit that is free takes up its next step (R300). -/
def State.takeUpdate (s : State) (home : Nat) : State :=
  match s.nextUpdate home with
  | none => s
  | some r => if r.kind = .rehash then s.rehashStep r else s.laterTable { r with started := true } (2 * r.lanes.length * (r.lm1 + 1))

/-- A home unit that has ended a step looks for the next. -/
def State.freeUnit (s : State) (home : Nat) : State :=
  match s.nextUpdate home with
  | none => s
  | some r => s.schedule 0 (.tableUpdateStep r.token)

/-- TABLE_UPDATE_STEP (R288): a request reaches its unit, or its step there ends. -/
def execTableUpdateStep (token : Nat) (s : State) : Res :=
  match s.treqs.find? fun r => r.token == token with
  | none => .next s
  | some r =>
    .next (match r.kind with
      | .hfam | .tstat => s.statStep r
      | .tins | .tdel => (if r.started then s.updateStep r else s.takeUpdate r.sel).freeUnit r.sel
      | .rehash => (if r.started then s.rehashNext r else s.takeUpdate r.sel).freeUnit r.sel)

/-! ### HFAM, TSTAT, TINS, TDEL, REHASH and TFENCE -/

/-- The entry of HFAM: its operands, marks and conditions. -/
def infoHfam (d a : Opnd) (n : Fin 4) : Info :=
  { opcode := 0xD0, a := some { op := a, lit := .ty .i64 }, dst := some d, blocking := true, legal := (Instr.hfam d a n).wf }

/-- HFAM (R291). -/
def execHfam (d a : Opnd) (n : Fin 4) (s : State) : Res :=
  run (infoHfam d a n) s fun o t =>
    let put (t : State) (st : Word) : State := t.finish o d (Lanes.uniform st) o.act
    if a = .zero then put (t.modG fun g => { g with hf := Store.set g.hf n.val {} }) 1
    else
      match o.tableAnswer t with
      | none => o.askTable (o.tableReq .hfam (o.a.at 0) 0 0 []) 50 (some (n.val, o.a.at 0 / 128 * 128))
      | some (r, _, t) =>
        let st := r.vals.headD 3
        let b : Binding := { desc := o.a.at 0 / 128 * 128, lm1 := r.vals.getD 1 0, valid := true }
        put (if st = 0 then t.modG fun g => { g with hf := Store.set g.hf n.val b } else t) st

/-- The entry of TSTAT: its operands, marks and conditions. -/
def infoTstat (d : Opnd) (sel : Fin 16) (n : Fin 4) : Info :=
  { opcode := 0xD7, dst := some d, blocking := true, legal := (Instr.tstat d sel n).wf }

/-- TSTAT (R292). -/
def execTstat (d : Opnd) (sel : Fin 16) (n : Fin 4) (s : State) : Res :=
  run (infoTstat d sel n) s fun o t =>
    let b := o.orig.g.hfReg n.val
    let put (t : State) (v : Word) : State := t.finish o d (Lanes.uniform v) o.act
    if sel.val = 4 then put t b.word
    else
      match o.tableAnswer t with
      | some (r, _, t) => put t (r.vals.headD 0)
      | none => if b.valid then o.askTable (o.tableReq .tstat b.desc 0 sel.val []) 50 else o.answerHere [0]

/-- Fields of the row word (R295). -/
def rowHf (w : Word) : Nat := bitsOf w.toNat 33 32
def rowId (w : Word) : Nat := w.toNat % 2 ^ 32

/-- The home of a table as the issuing gallery finds it, for the round trip; its own gallery's where the descriptor is not valid
in itself. -/
def Ops.homeOf (o : Ops) (desc : Word) : Nat :=
  match o.orig.readDescriptor (o.orig.wideSpace o.orig.g o.act) (o.orig.wideSlots o.orig.g o.act) desc with
  | (_, .ok d _) => d.home
  | (_, _) => galleryOf o.orig.g.core

/-- The values of a code block whose first register is field A (R290, R323). -/
def Ops.block (o : Ops) (a : Opnd) (half : Nat) : List Lanes := o.a :: ((codeBlock a half).drop 1).map o.orig.g.regVal

/-- Whether the issuing instruction has read its operands and waits for a unit. -/
def State.asked (s : State) : Bool := ((s.p.wait).map (·.stage)).getD 0 > 0

/-- Half the registers of the code block of TINS and TDEL (R290); once the request is sent, those that it has read. -/
def State.updateHalf (s : State) (b : Opnd) : Nat :=
  if s.asked then ((s.p.wait.bind (·.past)).map (·.half)).getD 1 else ((((s.peekB b (LaneMask.lowest (s.g.active s.cur.path))).map rowHf).map s.g.hfReg).map Binding.half).getD 1

/-- The entry of TINS and TDEL. -/
def updateInfo (i : Instr) (opcode : Nat) (d a b : Opnd) (s : State) : Info :=
  { opcode := opcode, a := some { op := a }, b := some { op := b }, dst := some d, blockA := (codeBlock a (s.updateHalf b)).drop 1
    blocking := true, legal := i.wf }

/-- TINS and TDEL. -/
def updateOp (i : Instr) (kind : TKind) (opcode : Nat) (d a b : Opnd) (s : State) : Res :=
  run (updateInfo i opcode d a b s) s fun o t =>
    if o.act = 0 then t.finish o d [] o.act
    else
      match o.tableAnswer t with
      | some (r, o, t) =>
        match r.trap with
        | some c => o.trap c
        | none =>
          t.finishLanes o d fun l =>
            match r.faults.find? fun f => f.1 == l with
            | some (_, cause, status, fault) => .trap cause status 0 fault
            | none => .val (r.vals.getD l laneBad)
      | none =>
        let g := o.orig.g
        let n := rowHf (o.b.at (LaneMask.lowest o.act))
        let bd := g.hfReg n
        let block := o.block a bd.half
        let ok (l : Nat) : Bool := (o.b.at l).toNat < 2 ^ 34 && rowHf (o.b.at l) == n
        let lanes : List TLane := ((LaneMask.lanes o.act).filter ok).map fun l =>
          { lane := l, row := rowId (o.b.at l), cur := (List.range 16).map (codeOf block 0 l), succ := (List.range 16).map (codeOf block bd.half l) }
        if !bd.valid then o.answerHere (List.replicate 32 laneBad)
        else
          let home := o.homeOf bd.desc
          o.askTable (o.tableReq kind bd.desc bd.lm1.toNat home lanes) (tableTrip (galleryOf g.core) home / 2)

/-- TINS (R295). -/
def execTins (d a b : Opnd) (s : State) : Res := updateOp (.tins d a b) .tins 0xD3 d a b s
/-- TDEL (R295). -/
def execTdel (d a b : Opnd) (s : State) : Res := updateOp (.tdel d a b) .tdel 0xD4 d a b s

/-- The binding that an hf index names; above 3 none (R290). -/
def Group.hfIndex (g : Group) (n : Nat) : Binding := if n ≤ 3 then g.hfReg n else {}

/-- The entry of REHASH: its operands, marks and conditions. -/
def infoRehash (d a b : Opnd) : Info :=
  { opcode := 0xD5, a := some { op := a, lit := .u32 }, b := some { op := b, lit := .u32 }, dst := some d, blocking := true
    legal := (Instr.rehash d a b).wf }

/-- REHASH (R296): the bucket steps begin with the request; a faulting one detaches every active lane. -/
def execRehash (d a b : Opnd) (s : State) : Res :=
  run (infoRehash d a b) s fun o t =>
    match o.tableAnswer t with
    | some (r, o, t) =>
      match r.faults with
      | (_, cause, status, fault) :: _ => t.finishLanes o d fun _ => .trap cause status 0 fault
      | [] => t.finish o d (Lanes.uniform (r.vals.headD 0)) o.act
    | none =>
      let bd := o.orig.g.hfIndex (o.b.at 0).toNat
      if !bd.valid then o.answerHere [rehashWord 5 0 0]
      else
        let home := o.homeOf bd.desc
        o.askTable { o.tableReq .rehash bd.desc bd.lm1.toNat home [] with steps := (o.a.at 0).toNat }
          (tableTrip (galleryOf o.orig.g.core) home / 2)

/-- The entry of TFENCE: its operands, marks and conditions. -/
def infoTfence : Info :=
  { opcode := 0xD8, blocking := true }

/-- TFENCE: a FENCE that also waits for the units that R298 names to drop what the path's updates have superseded. -/
def execTfence (s : State) : Res :=
  run infoTfence s fun o t =>
    let g := o.orig.g
    let scope := g.widestScope s.cur.path
    if !o.orig.performed g s.cur.path then o.report (o.waitAt .performed 1 0)
    else if o.orig.dropped g s.cur.path scope then o.report (t.done o)
    else
      let due := o.orig.cyc + (if scope ≤ 2 then 8 else 300)
      let w := o.waitAt .tables 2 0
      let mine := w.oldBuckets.filter fun v => v.of g s.cur.path
      let w := { w with oldBuckets := w.oldBuckets.map fun v => if v.of g s.cur.path then { v with until_ := min v.until_ due } else v }
      o.report (((mine.map fun v => v.desc.toNat).eraseDups).foldl (fun w v => w.schedule (due - w.cyc) (.bucketCacheDrop v)) w)

/-! ### HASH (R293) -/

/-- Bytes at an engine address read for a lane: 2-byte elements, aligned; or the lane's trap (R185, R293). -/
def State.laneEngine (s : State) (g : Group) (l : Nat) (x : Word) (n : Nat) : State × (List Byte ⊕ TabFault) :=
  if x.toNat % 2 ≠ 0 then (s, .inr (0x03, 0, x))
  else if x.toNat / 2 ^ 48 = 0xFFFE then
    let o := x.toNat % 2 ^ 48
    if s.scratchOk g o n then (s, .inl (s.readScratch g o n)) else (s, .inr (0x05, 0x20, x))
  else s.tabRange (s.laneSpace g l) x n

/-- The queries of the lanes of a mask, in their order: elements, or the trap of the lane. -/
def State.queries (s : State) (g : Group) (d : TableDesc) (xs : List (Nat × Word)) : State × List (Nat × (List Elem ⊕ TabFault)) :=
  xs.foldl (fun (r : State × List (Nat × (List Elem ⊕ TabFault))) x =>
    match r.1.laneEngine g x.1 x.2 (2 * d.dim) with
    | (s, .inl b) => (s, r.2 ++ [(x.1, .inl (elems2 d.ty false b))])
    | (s, .inr f) => (s, r.2 ++ [(x.1, .inr f)])) (s, [])

/-- Sixteen-bit codes of consecutive tables packed into registers, four to each (R289). -/
def packCodes (half : Nat) (codes : List Nat) : List Word :=
  (List.range half).map fun i => word ((List.range 4).foldl (fun w k => w + codes.getD (4 * i + k) 0 * 2 ^ (16 * k)) 0)

/-- The codes of both families for the queries that could be read: one code block for each, or a fault of the projection. -/
def State.bothCodes (s : State) (sp : Space) (d : TableDesc) (succ : Option TableDesc) (half : Nat) (qs : List (List Elem)) :
    State × (List (List Word) ⊕ TabFault) :=
  let byQuery (l : List (List Nat)) (n : Nat) : List Nat := l.map fun cs => cs.getD n 0
  match s.familyCodes sp d qs with
  | (s, .inr f) => (s, .inr f)
  | (s, .inl c1) =>
    match (match succ with
      | some sd => s.familyCodes sp sd qs
      | none => (s, .inl [])) with
    | (s, .inr f) => (s, .inr f)
    | (s, .inl c2) =>
      (s, .inl ((List.range qs.length).map fun n => packCodes half (byQuery c1 n) ++ packCodes half (byQuery c2 n)))

/-- The answer to a HASH: the registers of the code blocks, lane by lane within each register, and the lanes' traps. -/
def State.hashAnswer (s : State) (op : EngineOp) : State × TAnswer :=
  let g := s.opGroup op
  let lm1 := (op.args.getD 1 0).toNat
  let half := (lm1 + 4) / 4
  let act : LaneMask := BitVec.ofNat 32 (op.work.getD 0 0)
  if op.args.getD 2 0 = 0 then (s, { token := op.token, trap := some 0x0C })
  else
    match s.readTable op.space op.fslots (op.args.getD 0 0) with
    | (s, .ok d succ _) =>
      if d.tables ≠ lm1 + 1 then (s, { token := op.token, trap := some 0x0C })
      else
        let (s, qs) := s.queries g d ((LaneMask.lanes act).map fun l => (l, op.args.getD (3 + l) 0))
        let good := qs.filterMap fun e => match e.2 with
          | .inl q => some (e.1, q)
          | .inr _ => none
        let bad := qs.filterMap fun e => match e.2 with
          | .inl _ => none
          | .inr f => some (e.1, f.1, f.2.1, f.2.2)
        match (if good.isEmpty then (s, .inl []) else s.bothCodes op.space d succ half (good.map (·.2))) with
        | (s, .inr f) => (s, { token := op.token, faults := (LaneMask.lanes act).map fun l => (l, f.1, f.2.1, f.2.2) })
        | (s, .inl blocks) =>
          let at_ (i l : Nat) : Word := (((good.zip blocks).find? fun e => e.1.1 == l).map fun e => e.2.getD i 0).getD 0
          (s, { token := op.token, vals := (List.range (2 * half)).flatMap fun i => laneIds.map (at_ i), faults := bad })
    | (s, _) => (s, { token := op.token, trap := some 0x0C })

/-- Whether the path that issued a HASH still waits for it. -/
def State.hashLive (s : State) (op : EngineOp) : Bool :=
  let g := s.opGroup op
  g.serial == op.serial && g.paths.any fun q => q.awaits op.token

/-- Steps of 8 clk that the projection of one family takes (R300). -/
def TableDesc.hashSteps (d : TableDesc) : Nat := (d.tables * d.bits + 31) / 32 * (d.dim / 16)

/-- The steps of a HASH's projections, of the bound table's family and its successor's (R293, R300). -/
def State.hashSteps (s : State) (op : EngineOp) : State × Nat :=
  match s.readTable op.space op.fslots (op.args.getD 0 0) with
  | (s, .ok d succ _) => (s, d.hashSteps + (succ.map TableDesc.hashSteps).getD 0)
  | (s, _) => (s, 0)

/-- A HASH is answered, and leaves the sequencer. -/
def State.answerHash (s : State) (op : EngineOp) (a : TAnswer) : State :=
  let s := { s with ops := s.ops.filter fun x => x.token != op.token, tanswers := s.tanswers ++ [a] }
  (s.answerToken op.token []).unitFreed op

/-- The projection of a HASH on its quadrant's unit (R245, R293, R300): its queries are read first, and one refused or without a query
takes no step; then step by step, and at the last the codes are answered. One that was abandoned is dropped. -/
def State.hashStep (s : State) (op : EngineOp) : State :=
  let quad := quadOf op.unit
  if !s.hashLive op then ({ s with ops := s.ops.filter fun x => x.token != op.token }.unitFreed op).reap op.unit
  else
    match op.work[1]? with
    | none =>
      if (laneIds.any fun l => (BitVec.ofNat 32 (op.work.getD 0 0) : LaneMask).getLsbD l && (op.args.getD (3 + l) 0).toNat / 2 ^ 48 == 0xFFFE) &&
          s.cyc < s.blockBusy (s.opGroup op) then s.wantMacro 8 op.token
      else
      let (t, a) := s.hashAnswer op
      let (t, n) := t.hashSteps op
      if a.vals.isEmpty || n = 0 then t.answerHash op a
      else (t.modOp op.token fun x => { x with work := op.work.take 1 ++ [n] }).schedule 0 (.macroStep op.token)
    | some n =>
      if (s.mxUnit quad).seq.any (fun e => e.1 == op.token && s.cyc < e.2) then s
      else
        match s.seqTurn op 8 with
        | (s, .wait) => s.wantMacro 8 op.token
        | (s, .begun k) => s.schedule k (.macroStep op.token)
        | (s, .over) =>
          if n ≤ 1 then let (t, a) := s.hashAnswer op; t.answerHash op a
          else (s.modOp op.token fun x => { x with work := op.work.take 1 ++ [n - 1] }).schedule 0 (.macroStep op.token)

/-- The registers of a code block written in some lanes, from values in the order of `State.hashAnswer`. -/
def Group.writeCodes (g : Group) (rs : List RegCode) (vals : List Word) (m : LaneMask) : Group :=
  match rs with
  | [] => g
  | r :: rest => (g.writeReg r (vals.take 32) m).writeCodes rest (vals.drop 32) m

/-- The binding that HASH names by its field B. -/
def State.hashBinding (s : State) (b : Opnd) : Binding := ((s.peekB b 0).map fun w => s.g.hfIndex (w.toNat % 2 ^ 32)).getD {}

/-- Half the registers of the code block of the issuing HASH: by the binding, or once it waits by that which it has latched. -/
def State.hashHalf (s : State) (b : Opnd) : Nat :=
  let tok := ((s.p.wait).map (·.arg)).getD 0
  if !s.asked then (s.hashBinding b).half
  else
    match s.ops.find? fun x => x.token == tok, s.tanswers.find? fun a => a.token == tok with
    | some op, _ => ((op.args.getD 1 0).toNat + 4) / 4
    | none, some a => max 1 (a.vals.length / 64)
    | none, none => 1

/-- The entry of HASH. -/
def infoHash (d a b : Opnd) (s : State) : Info :=
  { opcode := 0xD1, a := some { op := a }, b := some { op := b, lit := .u32 }, dst := some d
    blockD := (codeBlock d (s.hashHalf b)).drop 1, blocking := true, legal := (Instr.hash d a b).wf }

/-- HASH (R293). -/
def execHash (d a b : Opnd) (s : State) : Res :=
  let bd := s.hashBinding b
  run (infoHash d a b s) s fun o t =>
    match o.tableAnswer t with
    | some (r, o, t) =>
      match r.trap with
      | some c => o.trap c
      | none =>
        let f (l : Nat) : LaneRes := match r.faults.find? fun x => x.1 == l with
          | some (_, cause, status, fault) => .trap cause status 0 fault
          | none => .val (r.vals.getD l 0)
        let m := okLanes o f
        let t := (t.modG fun g => g.writeCodes (codeBlock d (s.hashHalf b)) r.vals m).clearIf o
        ((t.modG fun g => g.push (resLanes f) m).advance).detach o (trapRecs t o d.code f)
    | none =>
      let g := o.orig.g
      let tok := o.orig.stamp
      let op : EngineOp :=
        { token := tok, unit := g.unit, serial := g.serial, core := g.core, gid := g.gid, cls := 5, seq := 0, opcode := 0xD1
          space := o.orig.wideSpace g o.act, kernel := g.kernel, part := g.part, world := g.world
          args := [bd.desc, bd.lm1, if bd.valid then 1 else 0] ++ laneIds.map o.a.at
          fslots := o.orig.wideSlots g o.act, work := [o.act.toNat] }
      let t := (o.waitAt .answer 1 tok).tick
      { t with ops := t.ops ++ [op] }.scheduleAt (o.orig.cyc + 8) (.macroStep tok)

/-! ### PROBE and RMUL (R294, R297) -/

/-- Fields of the probe word (R294). -/
def probeHf (w : Word) : Nat := bitsOf w.toNat 49 48
def probeLim (w : Word) : Nat := bitsOf w.toNat 43 32
def probeOff (w : Word) : Nat := w.toNat % 2 ^ 32
def probeOk (w : Word) : Bool := bitsOf w.toNat 63 50 == 0 && bitsOf w.toNat 47 44 == 0 && probeLim w ≥ 1 && probeOff w % 4 == 0

/-- The binding that PROBE names by its field B. -/
def State.probeBinding (s : State) (b : Opnd) : Binding := ((s.peekB b 0).map fun w => s.g.hfReg (probeHf w)).getD {}

/-- The entry of PROBE. -/
def infoProbe (d a b : Opnd) (s : State) : Info :=
  { opcode := 0xD2, a := some { op := a }, b := some { op := b }, dst := some d
    blockA := (codeBlock a (s.probeBinding b).half).drop 1, long := true, legal := (Instr.probe d a b).wf }

/-- PROBE (R294): Active(), the code block and b are latched at acceptance, with whether every slice stands in a section. -/
def execProbe (d a b : Opnd) (s : State) : Res :=
  let bd := s.probeBinding b
  run (infoProbe d a b s) s fun o t =>
    if o.act = 0 then t.done o
    else
      let g := o.orig.g
      let inside := ((g.pathSlices s.cur.path).filter fun x => x.run != 0).all fun x => x.depth != 0
      o.accept t 3 0xD2 d ([o.b.at 0, bd.desc, bd.lm1, if bd.valid then 1 else 0, word o.act.toNat, if inside then 1 else 0] ++
        (o.block a bd.half).flatMap fun v => laneIds.map v.at)

/-- The entry of RMUL: its operands, marks and conditions. -/
def infoRmul (d a b : Opnd) : Info :=
  { opcode := 0xD6, a := some { op := a, lit := .ty .i64 }, b := some { op := b, lit := .ty .i64 }, dst := some d, long := true
    legal := (Instr.rmul d a b).wf }

/-- RMUL (R297): the lanes and the hash-family registers are latched at acceptance. -/
def execRmul (d a b : Opnd) (s : State) : Res :=
  run (infoRmul d a b) s fun o t =>
    if o.act = 0 then t.done o
    else
      let g := o.orig.g
      o.accept t 3 0xD6 d ([o.a.at 0 + o.b.at 0, word o.act.toNat] ++ [0, 1, 2, 3].map fun n => (g.hfReg n).word)

/-- An engine's status for a fault of a table access on a side: BANK clear (R187). -/
def sideStatus (side : Nat) (f : TabFault) : Nat := faultWord side (f.2.1 / 8 % 4 + 4 * (f.2.1 / 4 % 2))

/-- The descriptor and successor that a PROBE uses: those that it read first. -/
def EngineOp.table? (op : EngineOp) : Option (TableDesc × Option TableDesc) :=
  match op.desc with
  | none => none
  | some b =>
    match tableDesc? op.fslots (b.take 128) with
    | none => none
    | some d => some (d, if b.length > 128 then tableDesc? op.fslots (b.drop 128) else none)

/-- The ids of the target bucket of a table for a lane, as the gallery's unit reads them (R289, R299). -/
def State.probeTable (s : State) (op : EngineOp) (d : TableDesc) (succ : Option TableDesc) (l t : Nat) : State × (List Nat ⊕ TabFault) :=
  let half := ((op.args.getD 2 0).toNat + 4) / 4
  let code (from_ : Nat) : Nat := (op.args.getD (6 + 32 * (from_ + t / 4) + l) 0).toNat / 2 ^ (16 * (t % 4)) % 2 ^ 16
  let cur := code 0 % 2 ^ d.bits
  let (tbl, b) := match succ with
    | some sd => if cur < d.cursor then (sd, code half % 2 ^ sd.bits) else (d, cur)
    | none => (d, cur)
  match s.readBucket op.space tbl t b .read with
  | (s, .inr f) => (s, .inr f)
  | (s, .inl x) => let (s, ids) := s.cachedVersion op d.cursor x.pa x.order; (s, .inl ids)

/-- The candidates of a lane, each once, in the order of R294. -/
def State.candidates (s : State) (op : EngineOp) (d : TableDesc) (succ : Option TableDesc) (l : Nat) : State × (List Nat ⊕ TabFault) :=
  (List.range d.tables).foldl (fun (r : State × (List Nat ⊕ TabFault)) t =>
    match r with
    | (s, .inr f) => (s, .inr f)
    | (s, .inl ids) =>
      match s.probeTable op d succ l t with
      | (s, .inr f) => (s, .inr f)
      | (s, .inl more) => (s, .inl (more.foldl (fun ids x => if ids.contains x then ids else ids ++ [x]) ids))) (s, .inl [])

/-- The record of the next lane of a PROBE (R294); work holds the next lane. -/
def State.probeRecord (s : State) (op : EngineOp) (d : TableDesc) (succ : Option TableDesc) : State × UnitRes :=
  let w := op.args.getD 0 0
  let lanes := (LaneMask.lanes (BitVec.ofNat 32 (op.args.getD 4 0).toNat)).filter (op.work.getD 0 0 ≤ ·)
  match lanes with
  | [] => (s, .fin op.done 0x01)
  | l :: rest =>
    match s.candidates op d succ l with
    | (s, .inr f) => (s, .fin op.done (sideStatus 0 f))
    | (s, .inl ids) =>
      let n := min ids.length (probeLim w)
      let rec_ := probeOff w + l * 4 * (probeLim w + 1)
      let g := s.opGroup op
      if !s.scratchOk g rec_ (4 + 4 * n) then (s, .fin op.done (faultWord 1 8))
      else
        let s := s.writeScratch g rec_ (leBytes (n + (if ids.length > probeLim w then 2 ^ 31 else 0)) 4 ++
          (ids.take n).flatMap fun x => leBytes x 4)
        let s := s.modOp op.token fun x => { x with work := [l + 1] }
        (s, if rest.isEmpty then .fin (op.done + n) 0x01 else .more (op.done + n) 8)

/-- The next unit of a PROBE: the checks with the descriptor's read, whose cursor may be an earlier one (R310), then one record. -/
def State.probeUnit (s : State) (op : EngineOp) : State × UnitRes :=
  match op.table? with
  | some (d, succ) => s.probeRecord op d succ
  | none =>
    if !probeOk (op.args.getD 0 0) || op.args.getD 3 0 = 0 then (s, .fin 0 0x04)
    else
      match s.readTable op.space op.fslots (op.args.getD 1 0) with
      | (s, .fault f) => (s, .fin 0 (sideStatus 3 f))
      | (s, .invalid _) => (s, .fin 0 0x04)
      | (s, .ok d succ b) =>
        if d.tables ≠ (op.args.getD 2 0).toNat + 1 ∨ (d.rsreq ∧ op.args.getD 5 0 = 0) then (s, .fin 0 0x04)
        else
          let (s, sb) := match succ with
            | some x => let s := s.touch x.pa 128; (s, s.mm.bytes x.pa 128)
            | none => (s, [])
          let (s, c) := s.cachedVersion op 0 d.pa [d.cursor]
          let seen := b.take 0x48 ++ leBytes (c.headD 0) 4 ++ b.drop 0x4C
          (s.modOp op.token fun x => { x with desc := some (seen ++ sb) }, .more 0 8)

/-- Fields of an RMUL descriptor (R297). -/
structure RmulDesc where
  hf : Nat
  lim : Nat
  off : Nat
  query : Word
  qstride : Word
  out : Word
  ostride : Word

/-- An RMUL descriptor, if its fields are in range. -/
def rmulDesc? (b : List Byte) : Option RmulDesc :=
  let d : RmulDesc :=
    { hf := fieldOf b 1 1, lim := fieldOf b 2 2, off := fieldOf b 4 4, query := word (fieldOf b 8 8), qstride := word (fieldOf b 0x10 8)
      out := word (fieldOf b 0x18 8), ostride := word (fieldOf b 0x20 8) }
  if fieldOf b 0 1 = 6 ∧ d.hf < 4 ∧ 1 ≤ d.lim ∧ d.lim ≤ 4095 ∧ d.off % 4 = 0 ∧ d.out.toNat % 4 = 0 ∧ fieldOf b 0x28 24 = 0 then some d else none

/-- The query of a lane of an RMUL, or a status (R297). -/
def State.rmulQuery (s : State) (op : EngineOp) (td : TableDesc) (d : RmulDesc) (l : Nat) : State × (List Byte ⊕ Nat) :=
  s.engRead op 0 (d.query + word l * d.qstride) (2 * td.dim)

/-- One output of an RMUL: its FP32 bits and flags, or a status (R297). -/
def State.rmulOutput (s : State) (op : EngineOp) (td : TableDesc) (d : RmulDesc) (l m : Nat) : State × (FRes ⊕ Nat) :=
  let rec_ := d.off + l * 4 * (d.lim + 1)
  let g := s.opGroup op
  if !s.scratchOk g (rec_ + 4 + 4 * m) 4 then (s, .inr (faultWord 2 8))
  else
    let r := leNat (s.readScratch g (rec_ + 4 + 4 * m) 4)
    if r ≥ td.rows then (s, .inl (Fmt.fp32.nanRes true))
    else
      match s.rmulQuery op td d l with
      | (s, .inr st) => (s, .inr st)
      | (s, .inl q) =>
        match s.tabRange op.space (td.weights + word r * td.stride) (2 * td.dim) with
        | (s, .inr f) => (s, .inr (sideStatus 0 f))
        | (s, .inl w) =>
          let ftz := modeFtz op.mode
          (s, .inl (td.dot ftz (modeRnd op.mode) (elems2 td.ty ftz q) (elems2 td.ty ftz w)))

/-- What an RMUL carries from one step to the next: the matrix flags, the lane, the number within its record, the record's count, and the
steps that the output still takes. -/
def rmulWork (fl l m n k : Nat) (x : EngineOp) : EngineOp := { x with work := [fl, l, m, n, k] }

/-- An RMUL goes on to the first of some lanes that has outputs; the count and the query of each are read on the way (R297). It is done
where none has. -/
def State.rmulLanes (s : State) (op : EngineOp) (td : TableDesc) (d : RmulDesc) (fl : Nat) (lanes : List Nat) : State × UnitRes :=
  match lanes with
  | [] => (s.modOp op.token (rmulWork fl 32 0 0 0), .fin op.done 0x01)
  | l :: rest =>
    let g := s.opGroup op
    let rec_ := d.off + l * 4 * (d.lim + 1)
    if !s.scratchOk g rec_ 4 then (s.modOp op.token (rmulWork fl l 0 0 0), .fin op.done (faultWord 2 8))
    else
      let n := min (leNat (s.readScratch g rec_ 4) % 2 ^ 12) d.lim
      match s.rmulQuery op td d l with
      | (s, .inr st) => (s.modOp op.token (rmulWork fl l 0 0 0), .fin op.done st)
      | (s, .inl _) =>
        if n = 0 then s.rmulLanes op td d fl rest
        else (s.modOp op.token (rmulWork fl l 0 n (td.dim / 16)), .more op.done 0)

/-- The lanes latched by an RMUL. -/
def EngineOp.rmulActive (op : EngineOp) : List Nat := LaneMask.lanes (BitVec.ofNat 32 (op.args.getD 1 0).toNat)

/-- A step of an RMUL's output is over: with the last the output is written, and the next output or lane follows (R297, R300). -/
def State.rmulNext (s : State) (op : EngineOp) (td : TableDesc) (d : RmulDesc) : State × UnitRes :=
  let fl := op.work.getD 0 0
  let l := op.work.getD 1 0
  let m := op.work.getD 2 0
  let n := op.work.getD 3 0
  let k := op.work.getD 4 0
  if 1 < k then (s.modOp op.token (rmulWork fl l m n (k - 1)), .more op.done 0)
  else
    match s.rmulOutput op td d l m with
    | (s, .inr st) => (s, .fin op.done st)
    | (s, .inl y) =>
      match s.engWrite op 1 (d.out + word l * d.ostride + word (4 * m)) (leBytes y.bits 4) with
      | (s, some st) => (s, .fin op.done st)
      | (s, none) =>
        let op := { op with done := op.done + 1 }
        let fl := fl ||| mxFlagsOf y.flags
        if m + 1 < n then (s.modOp op.token (rmulWork fl l (m + 1) n (td.dim / 16)), .more op.done 0)
        else s.rmulLanes op td d fl (op.rmulActive.filter (l < ·))

/-- The next unit of an RMUL: its descriptor and table checked first, then the first lane's query, then the steps of each output on the
quadrant's unit. -/
def State.rmulUnit (s : State) (op : EngineOp) : State × UnitRes :=
  match op.desc with
  | none =>
    match s.readDesc op with
    | (s, .inr st) => (s, .fin 0 st)
    | (s, .inl b) =>
      match rmulDesc? b with
      | none => (s, .fin 0 0x04)
      | some d =>
        let hf := op.args.getD (2 + d.hf) 0
        if hf = 0 then (s, .fin 0 0x04)
        else
          match s.readTable op.space op.fslots (hf / 128 * 128) with
          | (s, .ok _ _ tb) => (s.modOp op.token fun x => { x with desc := some (b ++ tb) }, .more 0 8)
          | (s, .fault f) => (s, .fin 0 (sideStatus 3 f))
          | (s, .invalid _) => (s, .fin 0 0x04)
  | some b =>
    match rmulDesc? b, tableDesc? op.fslots (b.drop 64) with
    | some d, some td =>
      if op.work.length < 4 then s.rmulLanes op td d 0 op.rmulActive
      else s.onTurn op 8 fun s => s.rmulNext op td d
    | _, _ => (s, .fin 0 0x04)

/-- The next unit of an operation of the retrieval class. -/
def State.retrUnit (s : State) (op : EngineOp) : State × UnitRes := if op.opcode = 0xD2 then s.probeUnit op else s.rmulUnit op

end Sys2Proof.Machine
end

