-- ==== Sys2Proof/Machine/Macro.lean ====
section
/-!
DEFINITION. Macro.lean: the step that an engine or a quadrant's sequencer performs of an operation (R184, R193, R245).
-/
namespace Sys2Proof.Machine

/-- The next unit of an operation by its class (R184). -/
def State.opUnit (s : State) (op : EngineOp) : State × UnitRes :=
  match op.cls with
  | 0 | 1 => s.moveUnit op
  | 2 => s.matrixUnit op
  | 3 => s.retrUnit op
  | _ => s.collUnit op

/-- An operation's work ends, and its matrix unit goes on to what follows (R193, R240). -/
def State.endWork (s : State) (op : EngineOp) (done status : Nat) : State :=
  let s := (s.modOp op.token fun x => { x with done := done }).endOp op.token status
  if op.onUnit then s.unitFreed op else s

/-- The first step not done of an operation that is cancelled: of an MXGEMM whose descriptor has not been read, its start step (R193). -/
def State.stoppedAt (s : State) (op : EngineOp) : State × Nat :=
  if op.opcode = 0xC9 ∧ op.desc = none then
    match s.readDesc op with
    | (s, .inl b) => (s, ((gemmDesc? op.fslots (s.opTiles op) b).map (·.start)).getD 0)
    | (s, .inr _) => (s, 0)
  else s.countOf op

/-- Whether an operation's step runs on the unit: it is not stopped within it (R244, R245). -/
def State.midStep (s : State) (op : EngineOp) : Bool := (s.mxUnit (quadOf op.unit)).seq.any fun e => e.1 == op.token && s.cyc < e.2

/-- One unit more of an operation; one that needs a scratchpad bank that is being zeroed waits (R84). -/
def State.nextUnit (s : State) (op : EngineOp) : State :=
  match (s.modOp op.token fun x => { x with held := [] }).opUnit op with
  | (s, .fin done status) =>
    if status = bankWait then (s.modOp op.token fun x => { x with done := done }).wantMacro 8 op.token else s.endWork op done status
  | (s, .wait) => s.wantMacro 8 op.token
  | (s, .more done after) => (s.modOp op.token fun x => { x with done := done }).schedule after (.macroStep op.token)

/-- An operation that is stopped while its step runs on the unit: the step is carried to its end (R244, R245). -/
def State.finishStep (s : State) (op : EngineOp) : State :=
  let quad := quadOf op.unit
  let u := s.mxUnit quad
  if s.midStep op then (s.setMx quad { u with seq := some (op.token, s.cyc) }).nextUnit op else s

/-- MACRO_STEP (R193, R196, R245): an operation goes on by one unit; one that is cancelled stops at its interruption point, between its
steps on the unit. -/
def execMacroStep (token : Nat) (s : State) : Res :=
  match s.ops.find? fun x => x.token == token with
  | none => .next s
  | some op =>
    if op.cls = 5 then .next (s.hashStep op)
    else if op.status ≠ 0 || ((s.headOp op).map (·.token)) != some token || s.midStep op then .next s
    else if op.cancel && !(s.mxUnit (quadOf op.unit)).runs op then
      let (s, done) := s.stoppedAt op
      .next (s.endWork op done 0x02)
    else .next (s.nextUnit op)

end Sys2Proof.Machine
end

