-- ==== Sys2Proof/Machine/Inval.lean ====
section
/-!
DEFINITION. Inval.lean: invalidations (R102) from TLBI (R103, R104) and from the host (R254), and the abortion of accesses
(R102, R118).
-/
namespace Sys2Proof.Machine

/-! ### Aborted lanes -/

/-- An access that is aborted: the group and path code address of its instruction, the word, the record's destination byte and the kind of
access. -/
structure Aborted where
  unit : Nat
  serial : Nat
  pc : Word
  instr : Word32
  dest : Nat
  access : Access
  deriving DecidableEq, Repr

/-- A flight as an access to be aborted, and a store or reduction, whose record names no destination (R315). -/
def Flight.aborted (f : Flight) : Aborted :=
  { unit := f.unit, serial := f.serial, pc := f.pc, instr := f.instr, dest := f.dest, access := if f.atomic then .atomic else .read }
def Unperformed.aborted (x : Unperformed) : Aborted :=
  { unit := x.unit, serial := x.serial, pc := x.pc, instr := x.instr, dest := 0x0C, access := x.access }

/-- The trap record of a lane whose access is aborted: PAGEFAULT of kind 3, as the access would have trapped, with the address of the
first byte in the page concerned (R99, R102). R99 gives the STAGE bit of such a record no value: it is 0 (DESIGN CHOICE, log 61). -/
def State.abortRec (s : State) (g : Group) (f : Aborted) (x : FlightLane) (fault : Word) : TrapRec :=
  s.nested g { g.threadRec x.lane 0x04 f.pc with
    dest := f.dest, status := faultStatus 3 0 f.access, instr := f.instr, fault := fault, a := x.a, b := x.b, c := x.c
    depth := x.depth }

/-- Whether a lane is there to be detached. -/
def Group.laneHere (g : Group) (l : Nat) : Bool :=
  g.slices.any fun x => x.idx == l / 4 && !x.gone.getLsbD (l % 4) && !x.detached.getLsbD (l % 4)

/-- A lane of an aborted access's group detached with a record (R314). -/
def State.abortLane (s : State) (f : Aborted) (x : FlightLane) (fault : Word) : State :=
  let g := s.grp f.unit
  if g.serial = f.serial && g.laneHere x.lane then s.detachLanes f.unit (g.slice (x.lane / 4)).path [s.abortRec g f x fault] else s

/-- The lanes of an access for which a fault address is given aborted. -/
def State.abortLanes (s : State) (f : Aborted) (lanes : List FlightLane) (hit : FlightLane → Option Word) : State :=
  lanes.foldl (fun s x => match hit x with
    | some fault => s.abortLane f x fault
    | none => s) s

/-- The lanes of a flight for which a fault address is given aborted; the others are left to arrive. -/
def State.abortFlight (s : State) (f : Flight) (hit : FlightLane → Option Word) (keep : Held → Bool) : State :=
  let cut (y : Flight) : Flight :=
    if y.token = f.token then { y with lanes := y.lanes.filter fun x => (hit x).isNone, held := y.held.filter keep } else y
  { s with mm := { s.mm with flights := s.mm.flights.map cut } }.abortLanes f.aborted f.lanes hit

/-- The lanes of a store or reduction for which a fault address is given aborted; with none left it is settled. -/
def State.abortStore (s : State) (x : Unperformed) (hit : FlightLane → Option Word) (keep : Held → Bool) : State :=
  let cut (y : Unperformed) : Option Unperformed :=
    if y.token = x.token then
      let left := y.lanes.filter fun l => (hit l).isNone
      if left.isEmpty then none else some { y with lanes := left, held := y.held.filter keep }
    else some y
  { s with mm := { s.mm with stores := s.mm.stores.filterMap cut } }.abortLanes x.aborted x.lanes hit

/-! ### What an invalidation removes and awaits (R102, R103) -/

/-- Whether a page holds a byte address. -/
def pageHas (at_ size addr : Nat) : Bool := size != 0 && at_ / size == addr / size

/-- Whether an unsettled access's translation matches an invalidation, before whose acceptance it was made (R93, R102). -/
def Inval.matchesHeld (i : Inval) (h : Held) : Bool :=
  h.stamp ≤ i.token && h.part == i.part &&
  match i.kind with
  | 0 => true
  | 1 => h.ctx == i.id
  | 2 => h.ctx == i.id && pageHas (h.va % 2 ^ 48) h.size (i.addr.toNat % 2 ^ 48)
  | 3 => h.dom == i.id
  | _ => h.dom == i.id && pageHas h.ipa h.size i.addr.toNat

/-- The input ranges of the pages that hold an address, by the leaves that walks have seen: the page of a stage-1 leaf is no larger
than that of the stage-2 leaf of its output (R95). -/
def State.pagesAround (s : State) (i : Inval) : List (Nat × Nat) :=
  let a := i.addr.toNat % 2 ^ 48
  let leaves (st2 : Bool) (addr : Nat) : List SeenEntry := s.mm.seen.filter fun e =>
    e.stage2 == st2 && e.part == i.part && (if st2 then true else e.ctx == i.id) && entryLeaf e.value.toNat && e.base ≤ addr && addr < e.base + e.size
  let small (e : SeenEntry) : Nat :=
    let ipa := entryOa e.value.toNat + a % e.size
    ((leaves true ipa).filter fun f => f.dom == e.dom).foldl (fun n f => min n f.size) e.size
  if i.kind = 2 then (a / 4096 * 4096, 4096) :: (leaves false a).map fun e => (a / small e * small e, small e)
  else
    let b := i.addr.toNat
    (b / 4096 * 4096, 4096) :: ((leaves true b).filter fun e => e.dom == i.id).map fun e => (b / e.size * e.size, e.size)

/-- An entry without some input ranges; none when nothing of it is left. -/
def SeenEntry.without (e : SeenEntry) (rs : List (Nat × Nat)) : Option SeenEntry :=
  if rs.any fun r => r.1 ≤ e.base && e.base + e.size ≤ r.1 + r.2 then none
  else some { e with cleared := e.cleared ++ rs.filter fun r => r.1 < e.base + e.size && e.base < r.1 + r.2 && !e.cleared.contains r }

/-- The input ranges of stage-1 leaves whose output reaches an IPA range of a domain: the combined entries that they serve go with it
(R97, R103). -/
def SeenEntry.inputsOf (e : SeenEntry) (rs : List (Nat × Nat)) : List (Nat × Nat) :=
  if e.stage2 || !entryLeaf e.value.toNat then []
  else
    let out := entryOa e.value.toNat / e.size * e.size
    rs.filterMap fun r =>
      let lo := max r.1 out
      let hi := min (r.1 + r.2) (out + e.size)
      if lo < hi then some (e.base + (lo - out), hi - lo) else none

/-- Step 1 of R102: the matching entries leave every translation cache. -/
def State.dropSeen (s : State) (i : Inval) : State :=
  let rs := s.pagesAround i
  let cut (e : SeenEntry) : Option SeenEntry :=
    if e.part ≠ i.part then some e
    else
      match i.kind with
      | 0 => none
      | 1 => if !e.stage2 && e.ctx == i.id then none else some e
      | 2 => if !e.stage2 && e.ctx == i.id then e.without rs else some e
      | 3 => if e.dom = i.id then none else some e
      | _ => if e.dom ≠ i.id then some e else if e.stage2 then e.without rs else
          let ins := e.inputsOf rs
          if ins.isEmpty then some e else e.without ins
  { s with mm := { s.mm with seen := s.mm.seen.filterMap cut } }

/-- Whether an access that holds a matching translation is unsettled. -/
def State.unsettled (s : State) (i : Inval) : Bool :=
  (s.mm.flights.any fun f => f.held.any i.matchesHeld) || (s.mm.stores.any fun x => x.held.any i.matchesHeld) ||
  s.ops.any fun o => o.held.any fun h => i.matchesHeld h.2

/-- An invalidation accepted. -/
def State.acceptInval (s : State) (i : Inval) : State :=
  let s := s.dropSeen i
  ({ s with invals := s.invals ++ [{ i with since := s.cyc }] }.schedule 600 (.invalidationAck i.token)).schedule 65536
    (.invalidationTimeout i.token)

/-- INVALIDATION_ACK (R102 step 4): once nothing unsettled holds a match, the packet completes, or the waiting TLBI is answered. -/
def execInvalidationAck (token : Nat) (s : State) : Res :=
  match s.invals.find? fun i => i.token == token with
  | none => .next s
  | some i =>
    if s.unsettled i then .next (s.schedule 64 (.invalidationAck token))
    else
      let s := { s with invals := s.invals.filter fun x => x.token != token }
      .next (match i.packet with
        | some p => s.completePacket p 1
        | none => s.answerToken token [if i.aborted then 2 else 0])

/-- The first byte that a lane's access touches in a page that matches, if it holds one: its own first byte, or that of the line after
(R99). -/
def Inval.faultAt? (i : Inval) (held : List Held) (x : FlightLane) : Option Word :=
  let hit (va : Word) : Bool := held.any fun h => i.matchesHeld h && h.va == va.toNat
  let next := word ((x.va.toNat / 128 + 1) * 128)
  if hit x.va then some x.va else if x.va.toNat % 128 + x.size > 128 && hit next then some next else none

/-- An engine operation that holds a match ends FAULT of kind 3 on the side that does (R102, R187). -/
def State.abortOp (s : State) (i : Inval) (op : EngineOp) : State :=
  match op.held.find? fun h => i.matchesHeld h.2 with
  | some (side, _) => if op.status = 0 then s.endWork op op.done (faultWord side 3) else s
  | none => s

/-- Whether an access of a lane can still be aborted: of a store, reduction or atomic only one that has not been performed, which is then
settled (R171, R172; log 37). -/
def FlightLane.abortable (x : FlightLane) (write : Bool) : Bool := !write || x.act.isSome

/-- INVALIDATION_TIMEOUT (R102 step 3): the unsettled accesses that hold a match are aborted. -/
def execInvalidationTimeout (token : Nat) (s : State) : Res :=
  match s.invals.find? fun i => i.token == token with
  | none => .next s
  | some i =>
    if i.since + 65536 > s.cyc || !s.unsettled i then .next s
    else
      let keep (h : Held) : Bool := !i.matchesHeld h
      let at_ (write : Bool) (held : List Held) (x : FlightLane) : Option Word := if x.abortable write then i.faultAt? held x else none
      let flights := s.mm.flights.filter fun f => f.held.any i.matchesHeld
      let stores := s.mm.stores.filter fun x => x.held.any i.matchesHeld
      let ops := s.ops
      let some_ := (flights.any fun f => f.lanes.any fun x => (at_ f.atomic f.held x).isSome) ||
        (stores.any fun y => y.lanes.any fun x => (at_ true y.held x).isSome) || ops.any fun o => o.status == 0 && o.held.any fun h => i.matchesHeld h.2
      let s := { s with invals := s.invals.map fun (x : Inval) => if x.token = token then { x with aborted := x.aborted || some_ } else x }
      let s := flights.foldl (fun s f => s.abortFlight f (at_ f.atomic f.held) keep) s
      let s := stores.foldl (fun s x => s.abortStore x (at_ true x.held) keep) s
      .next (ops.foldl (fun s o => s.abortOp i o) s)

/-! ### Who may invalidate what -/

/-- Whether a context lives and belongs to a partition. -/
def State.ctxIn (s : State) (part id : Nat) : Bool :=
  s.ctxs.any fun c => c.id == id && c.part == part && c.st != .destroyed && c.st != .migrated

/-- Whether a stage-2 domain is one of a partition: that of one of its contexts, or of its supervisors. -/
def State.domIn (s : State) (part dom : Nat) : Bool :=
  (s.part part).space.dom == dom ||
  s.ctxs.any fun c => c.part == part && c.space.dom == dom && c.st != .destroyed && c.st != .migrated

/-- Whether the target of an invalidation lies in its partition. -/
def State.invalAllowed (s : State) (i : Inval) : Bool :=
  match i.kind with
  | 0 => true
  | 1 | 2 => s.ctxIn i.part i.id
  | _ => s.domIn i.part i.id

/-- INVAL (R102, R254). -/
def execInval (pkt : Nat) (ctx : BitVec 32) (kind : BitVec 8) (addr : BitVec 64) (id : BitVec 32) (s : State) : Res :=
  let st := s.ctxStatus pkt ctx.toNat
  let i : Inval := { token := s.stamp, kind := kind.toNat, addr := addr, id := id.toNat, part := s.packetPart pkt, since := 0, packet := some pkt }
  .next (if st ≠ 0 then s.completePacket pkt st
    else if kind.toNat ≤ 2 ∧ !(s.ctxs.any fun c => c.id == id.toNat && c.st != .destroyed && c.st != .migrated) then s.completePacket pkt 5
    else if !s.invalAllowed i then s.completePacket pkt 7
    else s.tick.acceptInval i)

/-- The entry of TLBI: its operands, marks and conditions. -/
def infoTlbi (d a : Opnd) (k : Fin 8) : Info :=
  { opcode := 0xE2, a := some { op := a, lit := .ty .i64 }, markA := false, dst := some d, blocking := true
    blockA := match a with
    | .sreg n => [0x10 + n.val + 1]
    | _ => []
    legal := (Instr.tlbi d a k).wf }

/-- TLBI (R103, R104): the pair of A is the address and the id. -/
def execTlbi (d a : Opnd) (k : Fin 8) (s : State) : Res :=
  run (infoTlbi d a k) s fun o t =>
    let g := o.orig.g
    let id := match a with
      | .sreg n => (g.sval (n.val + 1)).toNat
      | _ => 0
    let i : Inval := { token := o.orig.stamp, kind := k.val, addr := o.a.at 0, id := if k.val ≤ 2 then id % 2 ^ 32 else id % 2 ^ 16
                       part := g.part, since := 0 }
    if o.stage = 2 then
      match o.orig.p.answer with
      | some v => t.takeAnswer.finish o d (Lanes.uniform (v.headD 0)) o.act
      | none => o.waitAt .answer 2 o.arg
    else if !o.orig.invalAllowed i then t.finish o d (Lanes.uniform 1) o.act
    else if !o.orig.allPerformed g then o.release 4 (o.waitAt .allPerformed 1 0)
    else o.release 4 ((o.waitAt .answer 2 i.token).tick.acceptInval i)

end Sys2Proof.Machine
end

