-- ==== Sys2Proof/Machine/Context.lean ====
section
/-!
DEFINITION. Context.lean: the life of a context: CREATE and DESTROY (R80, R254), pre-emption and its image (R81, R118, R328), and
resumption (R119); and the grants of device queues (R257, R258).
-/
namespace Sys2Proof.Machine

/-! ### The halt (R118 steps 1 to 3) -/

/-- Whether a group halts and is saved with a context: a user group of it, or a handler group all of whose bound records are the
context's (R328). -/
def State.ownGroup (s : State) (ctx : Nat) (g : Group) : Bool :=
  match g.kind with
  | .user => g.ctx == ctx
  | .handler => !g.bound.isEmpty && g.bound.all fun b => ((s.recOf? g b.1).map (·.ctx)) == some ctx
  | .curator => false

/-- The groups that are a context's own. -/
def State.ownGroups (s : State) (ctx : Nat) : List Group := s.groups.filter fun g => s.ownGroup ctx g

/-- Whether a wait outlives a pre-emption: a barrier's and SLEEP's (R140, R210). -/
def Wait.kept (w : Wait) : Bool :=
  match w.why with
  | .phase _ _ _ | .clock _ => true
  | _ => false

/-- A path with the waits that a pre-emption abandons ended; an instruction that a unit has answered completes on resumption. -/
def Path.calm (q : Path) : Path :=
  if q.answer.isSome then q else { q with wait := q.wait.bind fun w => if w.kept then some w else none }

/-- A path halted past a table instruction (R295): its dead marks are applied, its destination is EMPTY and pending, and it is at the next
slot. -/
def Group.pass (g : Group) (p : Nat) (x : Passed) : Group :=
  let g := { g with passed := g.passed ++ [{ x with was := g.regState x.dest, held := true }] }
  let g := x.dead.foldl (fun g r => g.setRegState r .dead) g
  let g := if x.dest < 0x10 || x.act = 0 then g else g.setRegState x.dest (.pending x.token)
  (g.modPathSlices p fun y => { y with pc := x.next }).modPath p fun q =>
    { q with wait := none, answer := none, retry := none, noArrive := false, buf := none }

/-- A group halted, whatever it was at (R123), past the table instructions whose requests its units have (R295). -/
def Group.halted (g : Group) : Group :=
  let pass (g : Group) (q : Path) : Group :=
    match q.wait.bind (·.past) with
    | some x => g.pass q.id x
    | none => g
  let g := g.paths.foldl pass g
  { g with st := .halted, paths := g.paths.map Path.calm }

/-- An operation taken away from its engine, which goes on to the next (R118 step 3). -/
def State.takeOp (s : State) (op : EngineOp) : State :=
  let s := { s with ops := s.ops.filter fun x => x.token != op.token }.startNext op
  if op.onUnit || op.cls = 5 then s.unitFreed op else s

/-- The operations of a context's groups: copies and gathers complete PREEMPTED, or CANCELLED where HCANC has said so (R196); those of
the sequencers and of class retr stop with their progress, a step that runs on the unit being carried to its end, and are saved; a COLL
runs on (R81, R245, R361). -/
def State.haltOp (s : State) (ctx : Nat) (op : EngineOp) : State :=
  if op.status ≠ 0 || op.cls = 4 then s
  else if op.cls < 2 then
    let (s, done) := s.countOf op
    s.endWork op done (if op.cancel then 0x02 else 0x03)
  else if op.cls = 5 then s.takeOp op
  else
    let s := s.finishStep op
    match s.ops.find? fun x => x.token == op.token with
    | some x => if x.status ≠ 0 then s else (s.takeOp x).modCtx ctx fun c => { c with savedOps := c.savedOps ++ [x] }
    | none => s

/-- Whether a record is bound to a lane of one of some groups. -/
def State.boundIn (s : State) (units : List Nat) (r : TrapRec) : Bool :=
  (s.groups.filter fun g => units.contains g.unit).any fun g => g.bound.any fun b =>
    (s.recOf? g b.1).any fun q => q.serial == r.serial && q.lane == r.lane

/-- The records of a context that no handler group of its own holds, taken back from the registrar, each as it then stands; the handler
lanes that they were bound to are voided (R328). -/
def State.takeRecords (s : State) (ctx : Nat) (own : List Nat) : State :=
  let mine (r : TrapRec) : Bool := r.ctx == ctx && !s.boundIn own r
  let lanes := (s.groups.filter fun g => g.kind == .handler && !own.contains g.unit).flatMap fun g =>
    (g.bound.filter fun b => (s.recOf? g b.1).any mine).map fun b => (g, b.1)
  let bound := lanes.foldl (fun (t : State × List TrapRec) (e : Group × Nat) =>
    let (s, r) := t.1.readBound e.1 e.2
    (s, t.2 ++ r.toList)) (s, [])
  let loose := (s.filing.map (·.2)).filter mine ++ s.parts.flatMap fun p =>
    (p.2.unfiled.map (·.2)).filter mine ++ (p.2.folios.filter (·.st != 3)).flatMap fun f => (f.recs.filterMap id).filter mine
  let held := (((s.ctx? ctx).map (·.savedRecs)).getD []) ++ loose ++ bound.2
  ((bound.1.unfile mine).modCtx ctx fun c => { c with savedRecs := held }).fileWaiting ((s.ctx? ctx).elim 0 (·.part))

/-- Steps 1 to 3 of R118. -/
def State.haltCtx (s : State) (ctx pkt : Nat) : State :=
  let own := s.ownGroups ctx
  let serials := own.map (·.serial)
  let s := (s.qanswers.filter fun a => own.any fun g => g.paths.any fun q => q.awaits a.token).foldl State.deliverAnswer s
  let s := own.foldl (fun s g => (s.withdrawGang g.unit).schedule 0 (.gangStepAccept g.core)) s
  let s := { s with qreqs := s.qreqs.filter fun r => !serials.contains r.serial }
  let s := own.foldl (fun s g => s.modGrp g.unit Group.halted) s
  let halt (k : Kernel) : Kernel := if k.ctx = ctx ∧ k.st = .running then { k with st := .halted } else k
  let s := { s with kernels := s.kernels.map halt }
  let s := (s.ops.filter fun o => serials.contains o.serial).foldl (fun s op => s.haltOp ctx op) s
  let s := s.takeRecords ctx (own.map (·.unit))
  s.modCtx ctx fun c => { c with saving := true, packet := some pkt }

/-- PREEMPT (R80, R118, R254). -/
def execPreempt (pkt : Nat) (ctx : BitVec 32) (s : State) : Res :=
  let st := s.ctxStatus pkt ctx.toNat
  let c := (s.ctx? ctx.toNat).getD { id := 0, part := 0, world := 0 }
  .next (if st ≠ 0 then s.completePacket pkt st
    else if c.busy then s.completePacket pkt 3
    else if c.st ≠ .resident || c.saving then s.completePacket pkt 4
    else (s.haltCtx c.id pkt).schedule 896 (.contextSaveComplete c.id))

/-! ### Settling and saving (R118 steps 4 and 5, R81) -/

/-- Whether a store or reduction goes to the host or peer window. -/
def Unperformed.toWindow (x : Unperformed) : Bool := x.lanes.any (·.window)

/-- Step 4 of R118: loads to a window are aborted, other accesses have arrived, and resumed threads have rejoined; then every group is
halted and the request completes. -/
def State.settleHalt (s : State) (c : Context) : State :=
  let serials := (s.ownGroups c.id).map (·.serial)
  let mine (f : Flight) : Bool := serials.contains f.serial
  let s := (s.mm.flights.filter mine).foldl (fun s f => if f.atomic then s else
    s.abortFlight f (fun x => if x.window then some x.va else none) fun _ => true) s
  let s := ((s.mm.flights.filter mine).filter fun f => !f.lanes.any (·.window)).foldl State.arrive s
  let back := s.resuming.filter fun r => serials.contains r.rec_.serial
  let s := back.foldl State.resumeLane { s with resuming := s.resuming.filter fun r => !serials.contains r.rec_.serial }
  -- Stores and reductions served by HBM or the L2 are performed; those to a window stay on their way.
  let s := { s with mm := { s.mm with stores := s.mm.stores.filter fun x => !serials.contains x.serial || x.toWindow } }
  let s := s.modCtx c.id fun c => { c with st := .preempted, packet := none }
  match c.packet with
  | some p => s.completePacket p 1
  | none => s

/-- Whether the image still waits: an atomic or reduction to a window or an operation of the context is outstanding (R81, R361). -/
def State.imageWaits (s : State) (ctx : Nat) : Bool :=
  let serials := (s.ownGroups ctx).map (·.serial)
  s.mm.flights.any (fun f => serials.contains f.serial) || s.mm.stores.any (fun x => serials.contains x.serial && x.access == .atomic) ||
  s.ops.any fun o => serials.contains o.serial

/-- A slice's return stack with the spilled blocks, newest block first, read into it; a block that cannot be read ends it (R132). -/
def State.gatherReturns (s : State) (g : Group) (x : Slice) (fuel : Nat) : State × Slice :=
  match fuel with
  | 0 => (s, x)
  | fuel + 1 =>
    if x.retSpilled = 0 then (s, x)
    else
      match s.loadVa (s.groupSpace g) (g.area x.idx + word (8 * x.retBlock)) 64 .read with
      | (s, none) => (s, x)
      | (s, some b) => s.gatherReturns g { x with ret := x.ret ++ blockRets x.retInBlock b, retSpilled := x.retBlock } fuel

/-- The same for the reconvergence stack. -/
def State.gatherRcv (s : State) (g : Group) (x : Slice) (fuel : Nat) : State × Slice :=
  match fuel with
  | 0 => (s, x)
  | fuel + 1 =>
    if x.rcvSpilled < 8 then (s, x)
    else
      match s.loadVa (s.groupSpace g) (g.area x.idx + word g.csize - word (32 * x.rcvSpilled)) 256 .read with
      | (s, none) => (s, x)
      | (s, some b) =>
        s.gatherRcv g { x with rcv := x.rcv ++ x.blockRcv b, rcvSpilled := x.rcvSpilled - 8, rcvNotes := x.rcvNotes.drop 8 } fuel

/-- A group as its image holds it: whole stacks, no DEAD register, no upper level (R69, R81, R132). -/
def State.imageOf (s : State) (g : Group) : State × Group :=
  let r := g.slices.foldl (fun (r : State × List Slice) x =>
    let (s, x) := r.1.gatherReturns g x (x.retSpilled / 8 + 1)
    let (s, x) := s.gatherRcv g x (x.rcvSpilled / 8)
    (s, r.2 ++ [x])) (s, [])
  let g := g.clearUpper
  (r.1, { g with slices := r.2, gregs := g.gregs.filter fun (e : Nat × GReg) => e.2.st != .dead
                 sregs := g.sregs.filter fun (e : Nat × SReg) => e.2.st != .dead })

/-- The scratchpad bytes of a block, by offset in its own steps. -/
def State.blockBytes (s : State) (b : Block) : Store Byte :=
  b.steps.zipIdx.flatMap fun (st, i) =>
    (s.mm.sram.filter fun e => e.1 / 65536 == 8 * b.core + st).map fun (e : Nat × Byte) => (65536 * i + e.1 % 65536, e.2)

/-- The image complete: the context's groups, blocks and column stores leave the device (R81). -/
def State.saveImage (s : State) (ctx : Nat) : State :=
  let own := s.ownGroups ctx
  let units := own.map (·.unit)
  let s := s.takeRecords ctx units
  let r := own.foldl (fun (r : State × List Group) g =>
    let (s, g) := r.1.imageOf g
    (s, r.2 ++ [g])) (s, [])
  let s := r.1
  let ks := (s.kernels.filter fun k => k.ctx == ctx).map (·.id)
  let bs := s.blocks.filter fun b => ks.contains b.kernel
  let quads := ((own.filter fun g => g.kind == .user).map (·.quadrant)).eraseDups
  let scratch := bs.map fun b => (b.kernel, b.bid, s.blockBytes b)
  let columns := quads.map fun q => (q, Store.getOr s.mm.column q [])
  let s := s.modCtx ctx fun c =>
    { c with saving := false, saved := r.2, savedBlocks := bs, savedScratch := scratch, savedColumns := columns }
  { s with groups := s.groups.filter fun g => !units.contains g.unit, blocks := s.blocks.filter fun b => !ks.contains b.kernel }.offerRoom

/-- CONTEXT_SAVE_COMPLETE (R81, R118). -/
def execContextSaveComplete (ctx : Nat) (s : State) : Res :=
  match s.ctx? ctx with
  | none => .next s
  | some c =>
    if !c.saving then .next s
    else
      let s := if c.st = .resident then s.settleHalt c else s
      .next (if s.imageWaits ctx then s.schedule 64 (.contextSaveComplete ctx) else s.saveImage ctx)

/-! ### Resumption (R119) -/

/-- A slice's stacks written back into the area of its group's slot, a block at a time, until 16 are left on chip (R132). -/
def State.spread (s : State) (g : Group) (x : Slice) (fuel : Nat) : State × Slice :=
  match fuel with
  | 0 => (s, x)
  | fuel + 1 =>
    if x.ret.length > 16 then
      let k := 8 - x.retSpilled % 8
      let n := x.ret.length - k
      let block := ((x.ret.drop n).reverse).flatMap fun w => leBytes w.toNat 8
      match s.storeVa g (g.area x.idx + word (8 * x.retSpilled)) block with
      | (s, true) => s.spread g { x with ret := x.ret.take n, retSpilled := x.retSpilled + k } fuel
      | (s, false) => (s, x)
    else if x.rcv.length > 16 then
      let n := x.rcv.length - 8
      let block := ((x.rcv.drop n).reverse).flatMap RcvEntry.toBytes
      match s.storeVa g (g.area x.idx + word g.csize - word (32 * (x.rcvSpilled + 8))) block with
      | (s, true) =>
        let notes := (x.rcv.drop n).map RcvEntry.note
        s.spread g { x with rcv := x.rcv.take n, rcvSpilled := x.rcvSpilled + 8, rcvNotes := notes ++ x.rcvNotes } fuel
      | (s, false) => (s, x)
    else (s, x)

/-- A record that names its thread's new place. -/
def TrapRec.moved (r : TrapRec) (serial unit : Nat) : TrapRec :=
  if r.serial = serial then { r with unit := unit, core := unit / 64, slot := unit % 64 } else r

/-- What refers to a group by its slot follows it (R119). -/
def State.follow (s : State) (ctx serial unit : Nat) : State :=
  let folio (f : Folio) : Folio := { f with recs := f.recs.map fun r => r.map fun r => r.moved serial unit }
  let mail (m : Mail) : Mail := if m.serial = serial then { m with unit := unit } else m
  let treq (r : TReq) : TReq := if r.serial = serial then { r with unit := unit } else r
  let op (o : EngineOp) : EngineOp := if o.serial = serial then { o with unit := unit, core := unit / 64 } else o
  let s := { s with parts := s.parts.map fun (e : Nat × Part) => (e.1, { e.2 with folios := e.2.folios.map folio })
                    mail := s.mail.map fun (e : Nat × List Mail) => (e.1, e.2.map mail)
                    treqs := s.treqs.map treq }
  s.modCtx ctx fun c =>
    { c with savedOps := c.savedOps.map op, savedRecs := c.savedRecs.map fun r => r.moved serial unit
             savedFolios := c.savedFolios.map folio }

/-- A group of an image put into a slot: it enters the pending set with its upper levels invalid, and its column store moves with it
(R119). -/
def State.reseat (s : State) (c : Context) (g : Group) (unit : Nat) : State :=
  let st : GState := if g.soft = .raised then .halted else .pending
  let h : Group := { g.clearUpper with unit := unit, st := st, setSince := s.cyc, issueFrom := s.cyc, absentSince := none, xfer := s.stamp
                                       passed := g.passed.map fun x => { x with held := false }
                                       paths := g.paths.map fun q => { q.calm with buf := none } }
  let r := g.slices.foldl (fun (r : State × List Slice) x =>
    let (s, x) := r.1.spread h x (x.ret.length + x.rcv.length)
    (s, r.2 ++ [x])) (s, [])
  let s := { r.1 with groups := r.1.groups ++ [{ h with slices := r.2 }] }
  let s := match Store.get? c.savedColumns g.quadrant with
    | some col => if g.kind == GKind.user then { s with mm := { s.mm with column := Store.set s.mm.column h.quadrant col } } else s
    | none => s
  (s.follow c.id g.serial unit).wantDrowsy unit

/-- Whether a saved group may join a quadrant: the groups there come from the quadrant that it left, since the column store moves with
its groups (R119, R229). -/
def State.sameColumn (s : State) (c : Context) (g : Group) (quad : Nat) : Bool :=
  (s.quadGroups quad).all fun m => m.kind != .user || c.saved.any fun x => x.serial == m.serial && x.quadrant == g.quadrant

/-- A group of a saved block placed on a core (R113, R119). -/
def State.seatUser (s : State) (k : Kernel) (c : Context) (g : Group) (core : Nat) : Option State :=
  let quad := 4 * core + (g.gid - g.bid * k.gpb) % 4
  match s.freeSlot quad with
  | none => none
  | some n =>
    if s.quadRegs quad + g.alloc > 1536 || s.quadAcc quad + g.acc > 32 || !s.sharesQuad quad c.id || !s.sameColumn c g quad then none
    else some (s.reseat c g (64 * core + 16 * (quad % 4) + n))

/-- A saved block placed on a core, with its scratchpad in the steps that it gets there. -/
def State.seatBlock (s : State) (k : Kernel) (c : Context) (b : Block) (core : Nat) : Option State :=
  let gs := c.saved.filter fun g => g.kind == .user && g.kernel == b.kernel && g.bid == b.bid
  let free := s.freeSteps core c.part c.world true
  if !s.eligible k c.part c.world core true || free.length < b.steps.length ||
      k.chain.any fun e => s.regionSlots c.part e.1 (some core) + gs.length > e.2.2 then none
  else
    let steps := free.take b.steps.length
    let bytes := ((c.savedScratch.find? fun e => e.1 == b.kernel && e.2.1 == b.bid).map (·.2.2)).getD []
    let sram := bytes.foldl (fun m (e : Nat × Byte) => Store.set m (524288 * core + 65536 * steps.getD (e.1 / 65536) 0 + e.1 % 65536) e.2)
      (zeroSteps s.mm.sram core steps)
    let s := { s with blocks := s.blocks ++ [{ b with core := core, steps := steps }], mm := { s.mm with sram := sram } }
    gs.foldl (fun (r : Option State) g => r.bind fun s => s.seatUser k c g core) (some s)

/-- The blocks of a saved cluster, each on the lowest core of a gallery that takes it. -/
def State.seatIn (s : State) (k : Kernel) (c : Context) (gallery : Nat) (bs : List Block) : Option State :=
  match bs with
  | [] => some s
  | b :: rest =>
    match ((List.range 12).filterMap fun i => s.seatBlock k c b (12 * gallery + i)).head? with
    | none => none
    | some s => s.seatIn k c gallery rest

/-- The blocks of a saved cluster on the cores that they left. -/
def State.seatBack (s : State) (k : Kernel) (c : Context) (bs : List Block) : Option State :=
  bs.foldl (fun (r : Option State) b => r.bind fun s => s.seatBlock k c b b.core) (some s)

/-- A saved cluster placed: where it was, else in the first gallery that takes it, within the chain's budgets. -/
def State.seatCluster (s : State) (k : Kernel) (c : Context) (bs : List Block) : Option State :=
  let n := (c.saved.filter fun g => g.kind == .user && bs.any fun b => b.kernel == g.kernel && b.bid == g.bid).length
  if k.chain.any fun e => s.regionSlots c.part e.1 none + n > e.2.1 then none
  else
    match s.seatBack k c bs with
    | some s => some s
    | none => ((List.range 16).filterMap fun gal => s.seatIn k c gal bs).head?

/-- The saved clusters of a kernel placed. -/
def State.seatKernel (s : State) (c : Context) (k : Kernel) : Option State :=
  let bs := c.savedBlocks.filter fun b => b.kernel == k.id
  let cids := (bs.map fun b => b.bid / k.bpc).eraseDups
  cids.foldl (fun (r : Option State) cid => r.bind fun s => s.seatCluster k c (bs.filter fun b => b.bid / k.bpc == cid)) (some s)

/-- The folios of an image that a device reset has taken from the registrar put back, under the lowest free numbers, with their records'
bytes; none where too few are free (R317, R328). The second result renames a folio. -/
def State.seatFolios (s : State) (part unit : Nat) (fs : List Folio) : Option (State × (Nat → Nat)) :=
  let used := (s.part part).folios.map (·.num)
  let free := (List.range folioCount).filter fun n => !used.contains n
  if free.length < fs.length then none
  else
    let name (n : Nat) : Nat := match fs.zipIdx.find? fun e => e.1.num == n with
      | some e => free.getD e.2 0
      | none => n
    let put (s : State) (f : Folio) : State :=
      let n := name f.num
      let s := s.modPart part fun p => { p with folios := p.folios ++ [{ f with num := n, handler := some unit }] }
      f.recs.zipIdx.foldl (fun s e => match e.1 with
        | some r => s.writeRecord part n e.2 r
        | none => s) s
    some (fs.foldl put s, name)

/-- A saved handler group in the first free handler slot in the order of R320, with the folios that its records stand in. -/
def State.seatHandler (s : State) (c : Context) (g : Group) : Option State :=
  let slots := (coresFrom g.core).flatMap fun k => [0, 1, 2].map fun q => (k, q)
  match slots.find? fun e => s.handlerFits g.part g.world e.1 e.2 with
  | none => none
  | some (k, q) =>
    let unit := 64 * k + 16 * q + 15
    let nums := (g.bound.map (·.2.folio)).eraseDups
    let lost := ((s.ctx? c.id).getD c).savedFolios.filter fun f => nums.contains f.num
    (s.seatFolios g.part unit lost).map fun e =>
      let g := { g with bound := g.bound.map fun (b : Nat × Bound) => (b.1, { b.2 with folio := e.2 b.2.folio }) }
      let nums := (g.bound.map (·.2.folio)).eraseDups
      (e.1.reseat c g unit).modPart g.part fun p =>
        { p with folios := p.folios.map fun f => if nums.contains f.num then { f with handler := some unit } else f }

/-- Every group of an image placed, or none (R119). -/
def State.seatAll (s : State) (c : Context) : Option State :=
  let r := (s.kernels.filter fun k => k.ctx == c.id).foldl (fun (r : Option State) k => r.bind fun s => s.seatKernel c k) (some s)
  (c.saved.filter fun g => g.kind == .handler).foldl (fun (r : Option State) g => r.bind fun s => s.seatHandler c g) r

/-- What the groups of an image take up again: operations, records filed afresh, answers that have come, waits on absent lanes; and the
kernels run on (R81, R105, R328). -/
def State.takeUp (s : State) (ctx : Nat) : State :=
  match s.ctx? ctx with
  | none => s
  | some c =>
    let units := (s.ownGroups ctx).map (·.unit)
    let s := s.modCtx ctx fun c =>
      { c with st := .resident, saved := [], savedBlocks := [], savedOps := [], savedScratch := [], savedColumns := [], savedRecs := [], savedFolios := [] }
    let s := c.savedOps.foldl (fun s op =>
      let first := (s.headOp op).isNone
      let s := { s with ops := s.ops ++ [op] }
      if first then s.schedule 8 (.macroStep op.token) else s) s
    let go (k : Kernel) : Kernel := if k.ctx = ctx ∧ k.st = .halted then { k with st := .running } else k
    let s : State := { s with kernels := s.kernels.map go }
    let s : State := (byThread c.savedRecs).foldl (fun s r => s.fileRecord r) s
    let s : State := units.foldl State.goOn s
    -- A group that a soft error retires, and those that have exited with nothing outstanding any more (R121, R371).
    let refused := (s.groups.filter fun g => units.contains g.unit && g.soft == .refused).map fun g => (g.unit, g.firstPc)
    let s : State := refused.foldl (fun s e => s.failGroup e.1 0x18 4 e.2) s
    let s : State := units.foldl State.reap s
    -- A group restored ready counts as ready from now on (R119).
    let rise (g : Group) : Group := if units.contains g.unit && s.ready g then { g with readySince := some s.cyc } else g
    let s : State := { s with groups := s.groups.map rise }
    let s := (s.tanswers.filter fun a => s.groups.any fun g => units.contains g.unit && g.expects a.token).foldl
      (fun s a => s.schedule 0 (.homeUnitAnswer a.token)) s
    ((s.kernels.filter fun k => k.ctx == ctx).foldl (fun s k => s.schedule 0 (.kernelRetire k.id)) s).offerRoom

/-- RESUME (R80, R119, R254): while the image is not complete, or there is no room, the request waits. -/
def execResume (pkt : Nat) (ctx : BitVec 32) (s : State) : Res :=
  let st := s.ctxStatus pkt ctx.toNat
  let c := (s.ctx? ctx.toNat).getD { id := 0, part := 0, world := 0 }
  .next (if st ≠ 0 then s.completePacket pkt st
    else if c.busy then s.completePacket pkt 3
    else if c.st ≠ .preempted && c.st ≠ .checkpointed then s.completePacket pkt 4
    else if c.saving then s.schedule 64 (.resume pkt ctx)
    else
      match s.seatAll c with
      | none => s.schedule 64 (.resume pkt ctx)
      | some s => (s.takeUp c.id).completePacket pkt 1)

/-! ### CREATE and DESTROY (R80, R84, R254) -/

/-- CREATE (R254, R369): the context's tables and domain are free values (log 7). -/
def execCreate (pkt : Nat) (ctx : BitVec 32) (region : BitVec 16) (wld : BitVec 8) (s : State) : Res :=
  let id := ctx.toNat
  let part := s.packetPart pkt
  let pasid := ((s.packets.find? fun p => p.id == pkt).bind (·.qi)).map fun q => (Store.getOr s.qis q {}).pasid
  .next (if !s.curatorRuns then s.completePacket pkt 4
    else if s.ctxs.any fun c => c.id == id && c.st != .destroyed && c.st != .migrated then s.completePacket pkt 5
    else
      let table (n : Nat) : Nat := bitsOf (Config.freeValue (s.free + n)).toNat 51 12 * 4096
      let sp : Space := { ctx := id, world := wld.toNat, part := part, dom := (Config.freeValue s.free).toNat % 2 ^ 16, root1 := table 1, root2 := table 2 }
      let c : Context := { id := id, part := part, world := wld.toNat, region := region.toNat, pasid := pasid.getD 0, space := sp }
      let s := { s.useFree 3 with ctxs := s.ctxs.filter (fun (x : Context) => x.id != id) ++ [c] }
      s.completePacket pkt 1)

/-- A grantee's rights on a queue taken away: its waiting requests complete CLOSED, and with the last grantee the queue is FREE and
its packets are discarded (R257, R260). -/
def State.revokeGrant (s : State) (q ctx : Nat) : State :=
  match s.queue? q with
  | none => s
  | some x =>
    if !x.grantees.any fun e => e.ctx == ctx then s
    else
      let gone := s.qreqs.filter fun r => r.queue == q && r.waiting && r.ctx == ctx
      let s := gone.foldl (fun s r => (s.dropReq r.token).answerQueue r.token 2 [] (queueLatency [galleryOf (r.unit / 64), queueHome q] / 2)) s
      let rest := x.grantees.filter fun e => e.ctx != ctx
      { s with queues := if rest.isEmpty then Store.del s.queues q else Store.set s.queues q { x with grantees := rest } }

/-- The HBM pages, by PA and size, that leaves which walks have seen map writably for a context's stage-2 domain (R94, R97). -/
def State.ctxPages (s : State) (c : Context) : List (Nat × Nat) :=
  let leaf (e : SeenEntry) : Bool :=
    e.stage2 && e.dom == c.space.dom && e.part == c.part && entryLeaf e.value.toNat && entryPerm e.value.toNat / 2 % 2 == 1
  ((s.mm.seen.filter leaf).map fun e => (s.canonPa (entryOa e.value.toNat / e.size * e.size), e.size)).eraseDups.filter fun p => p.1 < hbmEnd

/-- An HBM page zeroed (R84). -/
def MemSys.zeroPage (mm : MemSys) (pa size : Nat) : MemSys :=
  let out (a : Nat) : Bool := a < pa || pa + size ≤ a
  { mm with cells := mm.cells.filter fun e => out e.1, partials := mm.partials.filter fun p => out (128 * p.line) }

/-- The pages of a context zeroed. Which of the pages that it has reached are its own, no rule says: each is by a free choice (log 46). -/
def State.scrubPages (s : State) (c : Context) : State :=
  (s.ctxPages c).foldl (fun s p => if s.freeBit then { s.useFree 1 with mm := s.mm.zeroPage p.1 p.2 } else s.useFree 1) s

/-- The quadrants of a context's groups and the scratchpad banks of its blocks, those that it left when it was pre-empted among them,
zeroed where no other context has work, and its pages (R80, R84). Its save area leaves the device with the context (log 46). -/
def State.scrub (s : State) (ctx : Nat) : State :=
  let c := (s.ctx? ctx).getD { id := ctx, part := 0, world := 0 }
  let own := (s.groups ++ c.saved).filter fun g => g.kind == .user && g.ctx == ctx
  let quads := ((own.map (·.quadrant)).eraseDups).filter fun q => s.groups.all fun g => g.quadrant != q || g.kind != .user || g.ctx == ctx
  let ks := (s.kernels.filter fun k => k.ctx == ctx).map (·.id)
  let others := s.blocks.filter fun b => !ks.contains b.kernel
  let mine := (s.blocks.filter fun b => ks.contains b.kernel) ++ c.savedBlocks
  let steps := (mine.flatMap fun b => b.steps.map fun st => (b.core, st)).eraseDups.filter fun e =>
    !others.any fun x => x.core == e.1 && x.steps.contains e.2
  let banks := steps.flatMap fun e => [0, 1, 2, 3].map fun i => 32 * e.1 + 4 * e.2 + i
  let s := s.scrubPages c
  let s := { s with mm := { s.mm with
    column := quads.foldl Store.del s.mm.column, sram := steps.foldl (fun m e => zeroSteps m e.1 [e.2]) s.mm.sram
    quadBusy := quads.foldl (fun m q => Store.set m q (s.cyc + 4096)) s.mm.quadBusy
    bankBusy := banks.foldl (fun m b => Store.set m b (s.cyc + 256)) s.mm.bankBusy } }
  let s := quads.foldl (fun s q => s.schedule 4096 (.zeroingComplete false q)) s
  banks.foldl (fun s b => s.schedule 256 (.zeroingComplete true b)) s

/-- Whether an agenda entry belongs to a context's pre-emption. -/
def Due.saves (d : Due) (ctx : Nat) : Bool :=
  match d.ev with
  | .contextSaveComplete c => c == ctx
  | _ => false

/-- Everything of a context that the device holds removed, its kernels ending KILLED where they are to be ended (R80, R105). -/
def State.clearCtx (s : State) (ctx : Nat) (kill : Bool) : State :=
  let handlers := (s.groups ++ s.ctxs.flatMap (·.saved)).filter fun g => g.kind == .handler && (g.ctx == ctx || s.ownGroup ctx g)
  let s := s.scrub ctx
  let s := (s.kernels.filter fun k => k.ctx == ctx).foldl (fun s k =>
    if kill then s.killKernel k.id
    else
      let s := (s.kernelGroups k.id).foldl (fun s g => s.dropGroup g.serial g.unit) s
      { s with kernels := s.kernels.filter fun x => x.id != k.id, blocks := s.blocks.filter fun b => b.kernel != k.id }) s
  let s := handlers.foldl (fun s g => s.dropGroup g.serial g.unit) s
  let s := { s with agenda := s.agenda.filter fun d => !d.saves ctx }
  State.sweep <| s.modCtx ctx fun c =>
    { c with
      saving := false, saved := [], savedBlocks := [], savedOps := [], savedScratch := [], savedColumns := []
      savedRecs := [], savedFolios := [], packet := none }

/-- DESTROY (R80, R254): also of a busy context, whose operation ends ABORTED. -/
def execDestroy (pkt : Nat) (ctx : BitVec 32) (s : State) : Res :=
  let st := s.ctxStatus pkt ctx.toNat
  let id := ctx.toNat
  .next (if st ≠ 0 then s.completePacket pkt st
    else
      let halting := (s.ctx? id).bind (·.packet)
      let s := s.clearCtx id true
      let s := (s.queues.map (·.1)).foldl (fun s q => s.revokeGrant q id) s
      -- An IMPORT that has made the context is among the operations that end ABORTED.
      let abort (o : CtxOp) : CtxOp := if o.ctx = id && o.accepted && (o.op != 5 || o.status == 0x10) then { o with status := 0x15 } else o
      let s := { s with ctxOps := s.ctxOps.map abort, mgmt := { s.mgmt with versions := Store.del s.mgmt.versions id } }
      let s := s.modCtx id fun c => { c with st := .destroyed }
      let s := match halting with
        | some p => s.completePacket p 1
        | none => s
      s.offerRoom.completePacket pkt 1)

/-! ### Queue grants (R257, R258) -/

/-- Whether save areas may have been carved in some HBM bytes: they lie in the effective device area of a context that has run and is
not sealed (R80, R109). -/
def State.mayBeCarved (s : State) (part base size : Nat) : Bool :=
  s.ctxs.any fun x => x.part == part && (x.st == .resident || x.st == .preempted || x.st == .checkpointed) &&
    match s.region? part x.region with
    | (_, some (e, _)) => base < e.areaBase + e.areaSize && e.areaBase < base + size
    | (_, none) => false

/-- Whether a first grant's ring is accepted: it is aligned, lies wholly in the region's effective device area, and overlaps neither
the first 2 MiB of the root's area nor a save area. Where save areas may have been carved is a free choice (log 40). -/
def State.ringOk (s : State) (c : Context) (ring size : Nat) : State × Bool :=
  match s.region? c.part c.region with
  | (s, none) => (s, false)
  | (s, some (e, _)) =>
    let inside := ring % size == 0 && e.areaBase ≤ ring && ring + size ≤ e.areaBase + e.areaSize
    match s.region? c.part 0 with
    | (s, none) => (s, false)
    | (s, some (root, _)) =>
      if !inside || (ring < root.areaBase + 2 ^ 21 && root.areaBase < ring + size) then (s, false)
      else if s.mayBeCarved c.part ring size then (s.useFree 1, s.freeBit)
      else (s, true)

/-- QGRANT (R254, R257, R258). -/
def execQgrant (pkt : Nat) (ctx : BitVec 32) (queue : BitVec 16) (rights log2 : BitVec 8) (ring : BitVec 64) (s : State) : Res :=
  let st := s.ctxStatus pkt ctx.toNat
  let q := queue.toNat
  let n := log2.toNat
  let e : Grantee := { ctx := ctx.toNat, push := rights.getLsbD 0, pop := rights.getLsbD 1 }
  .next (if st ≠ 0 then s.completePacket pkt st
    else
      match s.queue? q with
      | some x =>
        let others := x.grantees.filter fun g => g.ctx != e.ctx
        if others.length ≥ 2 || ring.toNat ≠ x.ring || n ≠ x.log2 then s.completePacket pkt 8
        else { s with queues := Store.set s.queues q { x with grantees := others ++ [e] } }.completePacket pkt 1
      | none =>
        let c := (s.ctx? ctx.toNat).getD { id := 0, part := 0, world := 0 }
        if n < 1 || n > 16 then s.completePacket pkt 8
        else
          match s.ringOk c ring.toNat (64 * 2 ^ n) with
          | (s, false) => s.completePacket pkt 8
          | (s, true) =>
            let x : DevQueue := { ring := ring.toNat, log2 := n, grantees := [e] }
            { s with queues := Store.set s.queues q x }.completePacket pkt 1)

/-- QREVOKE (R254, R257, R258). -/
def execQrevoke (pkt : Nat) (ctx : BitVec 32) (queue : BitVec 16) (s : State) : Res :=
  let st := s.ctxStatus pkt ctx.toNat
  .next (if st ≠ 0 then s.completePacket pkt st else (s.revokeGrant queue.toNat ctx.toNat).completePacket pkt 1)

end Sys2Proof.Machine
end

