-- ==== Sys2Proof/Machine/Control.lean ====
section
/-!
DEFINITION. Control.lean: control instructions (R18, R135 to R144).
-/
namespace Sys2Proof.Machine

/-- The entry of NOP: it has no operands, so no mark may be set (R23). -/
def infoNop : Info :=
  { opcode := 0x00 }

/-- NOP: one clk (R18). -/
def execNop (s : State) : Res := run infoNop s fun o t => t.done o

/-- The word of a reserved opcode (R36). -/
def execReservedOpcode (_w : BitVec 32) (s : State) : Res := .next (s.trapGroup 0x09)

/-- The target of a displacement (R30). -/
def dispTarget (pc : Word) (d : Word) : Word := nextBundle pc + d * 32

/-- A transfer of the issuing path (R126); its parts issue again gap clk after it (R145). -/
def State.transfer (s : State) (gap : Nat) (taken : LaneMask) (target : Nat → Word) : State :=
  (s.modG fun g => g.transfer s.cur.path taken target (nextBundle s.cur.pc) s.stamp gap).tick

/-- The entry of BRA: its operands, marks and conditions. -/
def infoBra (_d : BitVec 24) : Info :=
  { opcode := 0x01 }

/-- BRA (R135). -/
def execBra (d : BitVec 24) (s : State) : Res :=
  run (infoBra d) s fun o t => (t.clearIf o).transfer 3 o.act fun _ => dispTarget s.cur.pc (d.signExtend 64)

/-- The entry of BR: its operands, marks and conditions. -/
def infoBr (_n : Bool) (_p : Fin 8) (_d : BitVec 20) : Info :=
  { opcode := 0x02 }

/-- BR: the lanes whose predicate, inverted by n, is 1 (R135). -/
def execBr (n : Bool) (p : Fin 8) (d : BitVec 20) (s : State) : Res :=
  run (infoBr n p d) s fun o t =>
    (t.clearIf o).transfer 3 (o.act &&& (if n then ~~~(o.orig.g.pred p) else o.orig.g.pred p)) fun _ => dispTarget s.cur.pc (d.signExtend 64)

/-- A branch whose register-held targets have passed their checks: the state, with the lanes detached whose target bundle
fails translation, and the lanes that remain; or the end of the instruction (R31). -/
def Ops.checkTargets (o : Ops) (t : State) (dest : Nat) : (State × LaneMask) ⊕ State :=
  let lanes := LaneMask.lanes o.act
  if lanes.any fun l => (o.a.at l).toNat % 32 != 0 then .inr (o.trap 0x0B)
  else
    let r := ((lanes.map fun l => o.a.at l).eraseDups).foldl (fun (r : State × List (Word × (Bundle ⊕ (Nat × Nat)))) a =>
      let (s, f) := r.1.fetchAt r.1.g a
      (s, r.2 ++ [(a, f)])) (t, [])
    let t := r.1
    let fetched (l : Nat) : Option (Bundle ⊕ (Nat × Nat)) := (r.2.find? fun e => e.1 == o.a.at l).map (·.2)
    let recs := lanes.filterMap fun l =>
      match fetched l with
      | some (.inr (k, st)) =>
        some (t.laneRec l (faultCause k) dest (faultStatus k st .fetch) (o.a.at l) (o.a.at l) 0 0 0)
      | _ => none
    let good (l : Nat) : Bool := match fetched l with
      | some (.inl _) => true
      | _ => false
    let entryless := lanes.any fun l => match fetched l with
      | some (.inl b) => !b.entry
      | _ => false
    if t.g.kind = .curator ∧ recs ≠ [] then .inr (o.trapFrom t ((recs.head?.map (·.cause)).getD 0))
    else if entryless then
      .inr (((o.undo t).detachLanes s.unit s.path recs).trapGroupAt s.unit s.path 0x0B s.pc)
    else .inl (t.detachLanes s.unit s.path recs o.orig.cyc, o.act &&& maskOf good)
where
  /-- The issuing slot. -/
  s : Cur := o.orig.cur

/-- The entry of BRX: its operands, marks and conditions. -/
def infoBrx (a : Opnd) : Info :=
  { opcode := 0x03, a := some { op := a, lit := .ty .i64 }, legal := (Instr.brx a).wf }

/-- BRX (R31, R135). -/
def execBrx (a : Opnd) (s : State) : Res :=
  run (infoBrx a) s fun o t =>
    match o.checkTargets t 0x0C with
    | .inr e => e
    | .inl (t, act) => (t.clearIf o).transfer 6 act fun l => o.a.at l

/-- The return address pushed on every slice of the path with a calling lane; false when a push raises SPILL (R133, R136). -/
def State.pushReturns (s : State) (act : LaneMask) (xs : List Nat) : State × Bool :=
  match xs with
  | [] => (s, true)
  | x :: r =>
    let sl := s.g.slice x
    if sl.inPath s.cur.path && sl.part act != 0 then
      match s.pushReturn s.cur.unit x (nextBundle s.cur.pc) with
      | (s, true) => s.pushReturns act r
      | (s, false) => (s, false)
    else s.pushReturns act r

/-- The entry of CALL: its operands, marks and conditions. -/
def infoCall (_d : BitVec 24) : Info :=
  { opcode := 0x04 }

/-- CALL (R136). -/
def execCall (d : BitVec 24) (s : State) : Res :=
  run (infoCall d) s fun o t =>
    match t.pushReturns o.act sliceIds with
    | (t, false) => o.trapFrom t 0x13
    | (t, true) => (t.clearIf o).transfer 3 o.act fun _ => dispTarget s.cur.pc (d.signExtend 64)

/-- The entry of CALLX: its operands, marks and conditions. -/
def infoCallx (d a : Opnd) : Info :=
  { opcode := 0x05, a := some { op := a, lit := .ty .i64 }, dst := some d, legal := (Instr.callx d a).wf }

/-- CALLX: the link is written, cleared where it stands in the cache and the instruction clears that, and pushed after the transfer (R31,
R66, R136). Where a push raises SPILL after step 2 of R31 has detached lanes, the spec does not say whether the detachments stand: they
are undone with the instruction (DESIGN CHOICE, log 60). -/
def execCallx (d a : Opnd) (s : State) : Res :=
  run (infoCallx d a) s fun o t =>
    match o.checkTargets t d.code with
    | .inr e => e
    | .inl (t, act) =>
      match t.pushReturns act sliceIds with
      | (t, false) => o.trapFrom t 0x13
      | (t, true) =>
        let link := Lanes.uniform (nextBundle s.cur.pc)
        let t := ((t.modG fun g => g.writeOpnd d link act).clearIf o).transfer 6 act fun l => o.a.at l
        t.modG fun g => g.push link act

/-- Whether a slice of the path would return with only some of its live lanes (R137). -/
def Group.diverges (g : Group) (p : Nat) (act : LaneMask) : Bool :=
  (g.pathSlices p).any fun x => x.part act != 0 && x.part act &&& x.run != x.run

/-- The slices of the path with a lane in Active() return to the code address that a function gives, their return stacks
popped where not empty; the others fall through (R137). The path issues again gap clk later (R145). -/
def State.returnSlices (s : State) (gap : Nat) (act : LaneMask) (pc : Slice → Word) : State :=
  let p := s.cur.path
  let moved := s.g.lastIssue
  let s := (s.modG fun g =>
    let g := g.modPathSlices p fun x =>
      if x.part act = 0 then { x with pc := nextBundle s.cur.pc } else { x with pc := pc x, ret := x.ret.drop 1, fillFault := false }
    let g := (g.modPath p fun q => q.sent (if act = 0 then q.issueFrom else g.lastIssue + gap)).regroup p
    if act = 0 then g
    else
      let g := { g with cur := (g.slice (LaneMask.lowest act / 4)).path, xfer := s.stamp }
      { g.clearAges with lastPath := g.cur }).tick
  s.settle s.cur.unit moved

/-- The entry of RET: its operands, marks and conditions. -/
def infoRet : Info :=
  { opcode := 0x06 }

/-- RET (R137). -/
def execRet (s : State) : Res :=
  run infoRet s fun o t =>
    let g := o.orig.g
    if g.diverges s.cur.path o.act then o.trap 0x12
    else if (g.pathSlices s.cur.path).any (fun x => x.part o.act != 0 && x.retDepth == 0) then o.trap 0x11
    else if (g.pathSlices s.cur.path).any (fun x => x.part o.act != 0 && !codeOk ((x.ret.head?).getD 0)) then o.trap 0x0B
    else (t.clearIf o).returnSlices 3 o.act fun x => (x.ret.head?).getD 0

/-- The entry of RETX: its operands, marks and conditions. -/
def infoRetx (a : Opnd) : Info :=
  { opcode := 0x07, a := some { op := a, lit := .ty .i64 }, legal := (Instr.retx a).wf }

/-- RETX (R137). -/
def execRetx (a : Opnd) (s : State) : Res :=
  run (infoRetx a) s fun o t =>
    let target := o.a.at (LaneMask.lowest o.act)
    if o.orig.g.diverges s.cur.path o.act then o.trap 0x12
    else if (LaneMask.lanes o.act).any fun l => o.a.at l != target then o.trap 0x12
    else if o.act ≠ 0 ∧ target.toNat % 32 ≠ 0 then o.trap 0x0B
    else (t.clearIf o).returnSlices 6 o.act fun _ => target

/-- A reconvergence entry pushed on every slice of the path with a run lane; false when a push raises SPILL (R128, R133). -/
def State.pushRcvs (s : State) (rpc tag : Word) (xs : List Nat) : State × Bool :=
  match xs with
  | [] => (s, true)
  | x :: r =>
    let sl := s.g.slice x
    if sl.inPath s.cur.path && sl.run != 0 then
      match s.pushRcv s.cur.unit x { rpc := rpc, tag := tag, member := sl.run, mode := sl.mode, retDepth := sl.retDepth } with
      | (s, true) => s.pushRcvs rpc tag r
      | (s, false) => (s, false)
    else s.pushRcvs rpc tag r

/-- The entry of RCVP: its operands, marks and conditions. -/
def infoRcvp (_d : BitVec 24) : Info :=
  { opcode := 0x08 }

/-- RCVP (R128, R138). -/
def execRcvp (d : BitVec 24) (s : State) : Res :=
  run (infoRcvp d) s fun o t =>
    match (t.modG fun g => { g with inst := g.inst + 1 }).pushRcvs (dispTarget s.cur.pc (d.signExtend 64)) (word t.g.inst) sliceIds with
    | (t, false) => o.trapFrom t 0x13
    | (t, true) => t.done o

/-- The entry of REGANG: its operands, marks and conditions. -/
def infoRegang : Info :=
  { opcode := 0x09, blocking := true }

/-- REGANG (R138). -/
def execRegang (s : State) : Res :=
  run infoRegang s fun _ t =>
    let next := match t.p.buf with
      | some b => b.after (slotOf s.cur.pc)
      | none => nextBundle s.cur.pc
    let t := t.modG fun g => g.modPathSlices s.cur.path fun x =>
      { x with rdv := x.rdv ++ [{ pc := s.cur.pc, next := next, depth := x.rcvDepth, tag := x.topTag, mask := x.run, keep := s.keep }]
               run := 0 }
    (t.settle s.cur.unit s.cyc).unpark s.cur.unit

/-- The entry of EXIT: its operands, marks and conditions. -/
def infoExit : Info :=
  { opcode := 0x0A }

/-- EXIT (R139). -/
def execExit (s : State) : Res :=
  run infoExit s fun o t =>
    let t := (t.clearIf o).modG fun g =>
      ((g.modPathSlices s.cur.path fun x => { x with pc := nextBundle s.cur.pc }).modPath s.cur.path fun q => { q with buf := none }).retireLanes o.act
    (t.settle s.cur.unit s.cyc).reap s.cur.unit

/-- The entry of YIELD: its operands, marks and conditions. -/
def infoYield : Info :=
  { opcode := 0x0B, blocking := true }

/-- YIELD: another path of the group issues next if one is ready; with KEEP = 0 the group also offers its place (R139). -/
def execYield (s : State) : Res :=
  run infoYield s fun o t =>
    (t.modG fun g => { g.modPath s.cur.path fun q => { q with streak := 64 } with yielding := !s.keep }).done o

/-- The entry of TRAP: its operands, marks and conditions. -/
def infoTrap (d a : Opnd) (c : BitVec 8) : Info :=
  { opcode := 0x0E, a := some { op := a, lit := .ty .i64 }, names := d.reg?.toList, legal := (Instr.trap d a c).wf }

/-- TRAP: every lane of Active() detaches with SWTRAP (R141). -/
def execTrap (d a : Opnd) (c : BitVec 8) (s : State) : Res :=
  run (infoTrap d a c) s fun o t =>
    (t.done o).detach o ((LaneMask.lanes o.act).map fun l => t.laneRec l 0x16 d.code c.toNat 0 (o.a.at l) 0 0 0)

/-- The entry of BRKPT: its operands, marks and conditions. -/
def infoBrkpt : Info :=
  { opcode := 0x0F }

/-- BRKPT: STOPPED after its own slot (R141). -/
def execBrkpt (s : State) : Res :=
  run infoBrkpt s fun o t => (t.done o).stopGroup s.cur.unit

/-- The entry of SLEEP: its operands, marks and conditions. -/
def infoSleep (a : Opnd) : Info :=
  { opcode := 0x10, a := some { op := a, lit := .ty .u64 }, blocking := true, legal := (Instr.sleep a).wf }

/-- SLEEP until %cyc reaches the value read at first issue (R140). -/
def execSleep (a : Opnd) (s : State) : Res :=
  run (infoSleep a) s fun o t =>
    let v := o.a.at 0
    if v ≤ word o.orig.cyc then (t.modG fun g => { g with wake := none }).done o
    else
      let w := ((o.waitAt (.clock v) 1 0).modG fun g => { g with wake := some v }).schedule (v.toNat - o.orig.cyc) (.sleepWake s.cur.unit)
      if s.keep || !w.idle w.g then w else w.modG Group.toSleep

/-- Clk from a UINTR to deliverability (R145). -/
def uintrDelay (from_ to_ : Nat) : Nat :=
  if from_ = to_ then 12 else if galleryOf from_ = galleryOf to_ then 60 else if dieOf from_ = dieOf to_ then 150 else 450

/-- The entry of UINTR: its operands, marks and conditions. -/
def infoUintr (d a b : Opnd) : Info :=
  { opcode := 0x12, a := some { op := a, lit := .u32 }, b := some { op := b, lit := .u32 }, dst := some d
    legal := (Instr.uintr d a b).wf }

/-- UINTR (R142). -/
def execUintr (d a b : Opnd) (s : State) : Res :=
  run (infoUintr d a b) s fun o t =>
    let g := o.orig.g
    let scope := o.orig.g.widestScope s.cur.path
    let target := if g.kind = .user then o.orig.groups.find? (fun x => x.kind == .user && x.kernel == g.kernel && x.gid == (o.a.at 0).toNat) else none
    let put (st : Nat) (t : State) : State := t.finish o d (Lanes.uniform (word st)) o.act
    match target with
    | none => put 1 t
    | some x =>
      if (o.b.at 0).toNat > 255 then put 2 t
      else
        let delay := uintrDelay g.core x.core
        let req : IntReq := { vec := (o.b.at 0).toNat, scope := scope, due := o.orig.cyc + delay }
        o.release scope (put 0 ((t.modGrp x.unit fun x =>
          { x with ints := if x.ints.any (fun v => v.vec == req.vec) then
                             x.ints.map fun v => if v.vec = req.vec then { v with scope := max v.scope scope } else v
                           else x.ints ++ [req] }).scheduleAt req.due (.sleepWake x.unit)))

/-- The entry of UIRET: its operands, marks and conditions. -/
def infoUiret : Info :=
  { opcode := 0x13 }

/-- UIRET: the return from the innermost group-handler run (R144, R329), after which the path of a group-trap run issues again 6 clk later
(R334). -/
def execUiret (s : State) : Res :=
  run infoUiret s fun o t =>
    match o.orig.g.returnTarget? with
    | none => o.trap 0x09
    | some (pc, _) =>
      if !codeOk pc then o.trap 0x0B
      else
        let gap := if (o.orig.g.hdl.head?.map (·.kind)) = some .gtrap then 6 else 1
        (((t.clearIf o).modG fun g => g.returnTo s.cur.path pc t.stamp (s.cyc + gap)).tick).settle s.cur.unit s.cyc

/-- A delivery to an unusable handler entry retires the group (R329); otherwise the lowest deliverable vector is taken, and
the path that takes it goes to the handler (R143). -/
def State.deliver (s : State) (u p : Nat) : State :=
  let g := s.grp u
  match firstBy (fun a b => a.vec < b.vec) (g.ints.filter fun v => v.due ≤ s.cyc) with
  | none => s
  | some v =>
    match s.usableEntry g with
    | (s, none) => s.failGroup u 0x19 4 (g.pathPc p)
    | (s, some e) =>
      (s.withdrawGang u).modGrp u fun g =>
        let pc := g.pathPc p
        let g := { g with ints := g.ints.filter fun w => w.vec != v.vec
                          uipc := pc, tpc := word v.vec, tcause := 0x19, xfer := s.stamp
                          hdl := { kind := .delivery, atSlot0 := if slotOf pc = 0 then some pc else none
                                   barWait := (g.path p).wait.bind fun w => if w.isPhase then some (pc, w) else none
                                   retry := (g.path p).retry.map fun r => (pc, r) } :: g.hdl
                          slices := g.slices.map fun (x : Slice) => { x with held := !x.inPath p } }
        let ps := g.paths.map fun (q : Path) => if q.id = p then q.fresh else q.hold
        (({ g with paths := ps, cur := p, lastPath := p }).clearAges).modPathSlices p fun x => { x with pc := e }

/-- The path that a group issues next (R125): where every able path is in a gap of R145, the choice falls in the first clk in which one
may issue. -/
def State.nextPath? (s : State) (g : Group) : Option Nat :=
  let able := g.paths.filter fun q => s.pathAble g q
  match able with
  | [] => none
  | q :: r => ({ s with cyc := max s.cyc (r.foldl (fun m p => min m p.issueFrom) q.issueFrom) } : State).choose g

/-- USER_INTERRUPT_DELIVERY (R143): the path that the group issues next takes it where it may, else another ready path, or failing one a
path that waits at an instruction. Of several that wait R143 names none: the one that has gone longest without issuing takes it, of equals
the first listed (DESIGN CHOICE, log 71). -/
def execUserInterruptDelivery (unit : Nat) (s : State) : Res :=
  let g := s.grp unit
  if s.deliverable g then
    let ready := g.paths.filter fun q => g.takes q && s.pathAble g q
    let waiting := g.paths.filter fun q => g.takes q && q.wait.isSome
    let oldest (l : List Path) : Option Path := firstBy (fun a b => a.last < b.last) l
    match (ready.find? fun q => some q.id == s.nextPath? g).orElse fun _ => (oldest ready).orElse fun _ => oldest waiting with
    | some q => .next (s.deliver unit q.id).tick
    | none => .next s
  else .next s

end Sys2Proof.Machine
end

