-- ==== Sys2Proof/Machine/Special.lean ====
section
/-!
DEFINITION. Special.lean: special registers (R75, R368), service requests and the curators' mailboxes (R363 to R367), and
PMSET (R373).
-/
namespace Sys2Proof.Machine

/-! ### Special registers (R75, R368) -/

/-- Whether a selector is privileged for a group (R75). -/
def srPriv (g : Group) (sel : Nat) : Bool :=
  ((sel == 0x20 || sel == 0x21) && g.kind == .user) || (0x40 ≤ sel && sel ≤ 0x7F && g.kind != .curator)

/-- Unserved entries of a core's mailbox. -/
def State.unserved (s : State) (core : Nat) : List Mail := (s.mailbox core).filter fun m => !m.taken

/-- The value that RDSR reads; none where the selector is unassigned. A write-only register reads 0. -/
def State.readSr (s : State) (g : Group) (sel : Nat) : Option Word :=
  match sel with
  | 0x00 => some (word s.cyc)
  | 0x01 => some (word g.gid)
  | 0x02 => some (word g.bid)
  | 0x03 => some (word g.cid)
  | 0x04 => some (word g.core)
  | 0x05 => some (word g.slot)
  | 0x06 => some (word g.ctx)
  | 0x07 => some (word g.part)
  | 0x08 => some (word g.alloc)
  | 0x09 => some (word s.devno)
  | 0x10 => some g.tpc
  | 0x11 => some (word g.tcause)
  | 0x12 => some g.uipc
  | 0x13 => some (word (s.part g.part).done)
  | 0x14 => some g.cbase
  | 0x15 => some (word g.csize)
  | 0x20 => some (if g.kind = .handler then 0xFFFD000000000000 else 0)
  | 0x21 => some (word g.bound.length)
  | 0x40 => some (Store.getOr s.sgh g.core 0)
  | 0x41 => some (word (s.unserved g.core).length)
  | 0x42 => some (word g.fw)
  | 0x43 => some 0
  | _ => if 0x48 ≤ sel ∧ sel ≤ 0x67 then some (Store.getOr (s.part g.part).system (sel - 0x48) 0) else none

/-- Whether WRSR may write a selector. -/
def srWritable (sel : Nat) : Bool :=
  [0x10, 0x12, 0x14, 0x15, 0x40, 0x43].contains sel || (0x48 ≤ sel && sel ≤ 0x67)

/-- A packet posted by a curator group (R366); an address that does not exist holds none. -/
def State.post (s : State) (g : Group) (pa : Nat) : State :=
  let a := s.canonPa pa
  if !paExists a then s
  else
    let s := s.fetchPacket { id := 0, poster := g.unit, pa := a, part := g.part }
    s.startPackets (s.packets.length + 1)

/-- The state with a special register written; none where the value is illegal (R75, R366). -/
def State.writeSr (s : State) (g : Group) (sel : Nat) (v : Word) : Option State :=
  match sel with
  | 0x10 => some (s.modG fun g => { g with tpc := v })
  | 0x12 => some (s.modG fun g => { g with uipc := v })
  | 0x14 => if v.toNat % 4096 = 0 then some (s.modG fun g => { g with cbase := v }) else none
  | 0x15 =>
    let n := v.toNat % 2 ^ 32
    if n = 0 ∨ n % 256 ≠ 0 then none else some (s.modG fun g => { g with csize := n })
  | 0x40 => some { s with sgh := Store.set s.sgh g.core v }
  | 0x43 => if v.toNat % 64 = 0 then some (s.post g v.toNat) else none
  | _ =>
    -- Bits 4 to 2 of a handler table's entry are reserved (R5, R318).
    if 0x48 ≤ sel ∧ sel ≤ 0x67 ∧ bitsOf v.toNat 4 2 = 0 then
      some (s.modPart g.part fun p => { p with system := Store.set p.system (sel - 0x48) v })
    else none

/-- The entry of RDSR: its operands, marks and conditions. -/
def infoRdsr (d : Opnd) (sel : BitVec 8) (s : State) : Info :=
  { opcode := 0x18, dst := some d, priv := srPriv s.g sel.toNat
    legal := (Instr.rdsr d sel).wf && (s.readSr s.g sel.toNat).isSome }

/-- RDSR (R75, R78). -/
def execRdsr (d : Opnd) (sel : BitVec 8) (s : State) : Res :=
  run (infoRdsr d sel s) s fun o t =>
    t.finish o d (Lanes.uniform ((o.orig.readSr o.orig.g sel.toNat).getD 0)) o.act

/-- The entry of WRSR: its operands, marks and conditions. -/
def infoWrsr (a : Opnd) (sel : BitVec 8) (s : State) : Info :=
  { opcode := 0x19, a := some { op := a, lit := .ty .i64 }, priv := srPriv s.g sel.toNat
    legal := (Instr.wrsr a sel).wf && srWritable sel.toNat }

/-- WRSR (R75, R78). -/
def execWrsr (a : Opnd) (sel : BitVec 8) (s : State) : Res :=
  run (infoWrsr a sel s) s fun o t =>
    match t.writeSr o.orig.g sel.toNat (o.a.at 0) with
    | some t => t.done o
    | none => o.trap 0x09

/-! ### Service requests (R363, R364) -/

/-- The words of a request record (R363). -/
def mailWords (g : Group) (imm : Nat) (ops : List Word) : List Word :=
  word (imm % 32 + 256 * (imm / 32) + 2 ^ 32 * g.ctx) ::
  word (g.gid + 2 ^ 32 * g.core + 2 ^ 40 * g.slot + 2 ^ 48 * g.part + 2 ^ 56 * g.world) :: ops

/-- A request record put into a core's mailbox, which the firmware then serves (R363, R367). -/
def State.request (s : State) (core : Nat) (m : Mail) : State :=
  let idx := ((List.range 16).find? fun i => !(s.mailbox core).any fun x => x.index == i).getD 0
  let t := s.addMail core m
  if t.firmwareServes core then t.schedule 64 (svcEvent m.code core (t.mailTag core idx)) else t

/-- The entry of SVC: its operands, marks and conditions. -/
def infoSvc (d a : Opnd) (i : BitVec 8) : Info :=
  { opcode := 0x11, a := some { op := a, lit := .ty .i64 }, blockA := match a with
    | .sreg k => [1, 2, 3, 4, 5].map fun n => 0x10 + k.val + n
    | _ => []
    dst := some d, long := true, always := true, legal := (Instr.svc d a i).wf }

/-- SVC (R364): it stalls while the mailbox is full, releases, and leaves its handle pending. -/
def execSvc (d a : Opnd) (i : BitVec 8) (s : State) : Res :=
  run (infoSvc d a i) s fun o t =>
    let g := o.orig.g
    if (o.orig.mailbox g.core).length ≥ 16 then o.stallAt .mailRoom
    else if !o.orig.performed g o.orig.cur.path then o.release 3 (o.waitAt .performed 1 0)
    else
      let ops : List Word := match a with
        | .sreg k => [0, 1, 2, 3, 4, 5].map fun n => g.sval (k.val + n)
        | _ => []
      let tok := t.stamp
      let m : Mail := { index := 0, words := mailWords g i.toNat ops, version := i.toNat / 32, code := i.toNat % 32, unit := g.unit
                        serial := g.serial, dst := d.reg?, token := tok }
      let t := t.tick.request g.core m
      let t := match d.reg? with
        | some r => t.modG fun g => g.setRegState r (.pending tok)
        | none => t
      o.release 3 (t.done o)

/-! ### The shipped firmware (R367) -/

/-- A request that the shipped firmware serves while it runs on the core: the tag still names its entry, which is not taken and has one of
some codes. An entry of a version that it does not accept is answered RETRY (R370). -/
def State.serveMail (s : State) (core tag : Nat) (codes : Nat → Bool) (f : Mail → State) : State :=
  match (s.mailbox core).find? fun m => s.mailTag core m.index == tag && !m.taken && codes m.code with
  | none => s
  | some m =>
    if !s.firmwareServes core then s
    else if s.mgmt.fwAccept.testBit m.version then f m else s.replyMail core m.index 2

/-- The context and partition of a request record. -/
def Mail.ctx (m : Mail) : Nat := bitsOf (m.words.getD 0 0).toNat 63 32
def Mail.part (m : Mail) : Nat := bitsOf (m.words.getD 1 0).toNat 55 48

/-- A packet posted by the firmware for a request; its completion answers the request (R367). -/
def State.postFor (s : State) (core : Nat) (m : Mail) (ty : Nat) (arg : Word) : State :=
  let b := leBytes ty 8 ++ leBytes m.ctx 8 ++ leBytes arg.toNat 8 ++ leBytes 0 40
  let p : Packet := { id := s.stamp, poster := 64 * core + 63, svc := some (core, s.mailTag core m.index), part := m.part, bytes := b }
  let take (x : Mail) : Mail := if x.index = m.index then { x with taken := true } else x
  let s := { s with packets := s.packets ++ [p], mail := Store.set s.mail core ((s.mailbox core).map take) }.tick
  s.startPackets (s.packets.length + 1)

/-- SVC_NOP (R367): codes 0x05 to 0x1E are answered BADREQ; what the firmware answers to an entry of the device's own is a free
choice. -/
def execSvcNop (core tag : Nat) (s : State) : Res :=
  .next (s.serveMail core tag (fun c => c = 0 || c ≥ 5) fun m =>
    if m.code = 0x1F then (s.useFree 1).replyMail core m.index (if s.freeBit then 1 else 4)
    else s.replyMail core m.index (if m.code = 0 then 1 else 4))

/-- SVC_LAUNCH (R367). -/
def execSvcLaunch (core tag : Nat) (s : State) : Res :=
  .next (s.serveMail core tag (· == 1) fun m => s.postFor core m 3 (m.words.getD 2 0))

/-- SVC_KILL (R367). -/
def execSvcKill (core tag : Nat) (s : State) : Res :=
  .next (s.serveMail core tag (· == 2) fun m => s.postFor core m 4 (m.words.getD 2 0))

/-- YIELDCTX (R367). -/
def execYieldctx (core tag : Nat) (s : State) : Res :=
  .next (s.serveMail core tag (· == 3) fun m => s.postFor core m 5 0)

/-- FWVER (R367). -/
def execFwver (core tag : Nat) (s : State) : Res :=
  .next (s.serveMail core tag (· == 4) fun m => s.replyMail core m.index (word (256 * s.mgmt.fwVersion + 1)))

/-! ### Curator instructions (R365, R370, R373) -/

/-- The lanes 0 to 8 of MBXGET. -/
def mailLanes : LaneMask := 0x1FF

/-- Whether a core's curator has still to take over a pending image (R370). -/
def State.mustSwitch (s : State) (core : Nat) : Bool := s.mgmt.pending.isSome && !s.mgmt.switched.contains core

/-- The cores that hold a curator group. -/
def State.curatorCores (s : State) : List Nat := (s.groups.filter fun g => g.kind == .curator).map Group.core

/-- A curator takes over the pending image: entries of versions that it does not accept are answered RETRY, and with the last
curator %fwver and measurement 3 change (R370). -/
def State.switchCurator (s : State) (core : Nat) : State :=
  match s.mgmt.pending with
  | none => s
  | some (v, acc) =>
    let s := (s.unserved core).foldl (fun s m => if acc.testBit m.version then s else s.replyMail core m.index 2) s
    let done := core :: s.mgmt.switched
    if s.curatorCores.all done.contains then
      let w := (List.range 8).map fun i => Config.freeValue (s.free + i)
      let set (g : Group) : Group := if g.kind = .curator then { g with fw := v } else g
      { s.useFree 8 with
        mgmt := { s.mgmt with pending := none, switched := [], fwVersion := v, fwAccept := acc, shipped := false, meas := Store.set s.mgmt.meas 3 w }
        groups := s.groups.map set }
    else { s with mgmt := { s.mgmt with switched := done } }

/-- The slots of the path continue in the new image, at an address that the image fixes (R370). -/
def State.enterImage (s : State) : State :=
  let pc := s.freeWord &&& ~~~31
  (s.useFree 1).modG fun g => (g.modPathSlices s.cur.path fun x => { x with pc := pc }).modPath s.cur.path fun q => { q with buf := none }

/-- The entry of MBXGET: its operands, marks and conditions. -/
def infoMbxget (d : Opnd) : Info :=
  { opcode := 0xE0, dst := some d, blocking := true, always := true, legal := (Instr.mbxget d).wf }

/-- MBXGET (R365, R370). -/
def execMbxget (d : Opnd) (s : State) : Res :=
  run (infoMbxget d) s fun o t =>
    let core := o.orig.g.core
    let now := o.orig.mustSwitch core
    let switched := now || o.arg = 1
    let sw (s : State) : State := if now then s.switchCurator core else s
    match (sw o.orig).unserved core with
    | [] => sw (o.waitAt .mailbox 1 (if switched then 1 else 0))
    | m :: _ =>
      let t := sw t
      let take (x : Mail) : Mail := if x.index = m.index then { x with taken := true } else x
      let v := m.words ++ List.replicate (8 - m.words.length) 0 ++ [word (t.mailTag core m.index)]
      let t := { t with mail := Store.set t.mail core ((t.mailbox core).map take) }
      let t := t.finish o d v mailLanes
      if switched then t.enterImage else t

/-- The entry of MBXPUT: its operands, marks and conditions. -/
def infoMbxput (d a b : Opnd) : Info :=
  { opcode := 0xE1, a := some { op := a, lit := .ty .i64 }, b := some { op := b, lit := .ty .i64 }, dst := some d
    legal := (Instr.mbxput d a b).wf }

/-- MBXPUT (R364, R365). -/
def execMbxput (d a b : Opnd) (s : State) : Res :=
  run (infoMbxput d a b) s fun o t =>
    let core := o.orig.g.core
    let tag := (o.a.at 0).toNat
    match (o.orig.mailbox core).find? fun m => m.taken && o.orig.mailTag core m.index == tag with
    | none => t.finish o d (Lanes.uniform 1) o.act
    | some m =>
      if !o.orig.performed o.orig.g o.orig.cur.path then o.release 3 (o.waitAt .performed 1 0)
      else o.release 3 ((t.replyMail core m.index (o.b.at 0)).finish o d (Lanes.uniform 0) o.act)

/-- The next look at the power state (R373). -/
def State.wantPower (s : State) : State :=
  if s.agenda.any (fun d => d.ev == .powerStateEntry) then s else s.schedule 10000 .powerStateEntry

/-- The entry of PMSET: its operands, marks and conditions. -/
def infoPmset (d a : Opnd) (sel : Bool) : Info :=
  { opcode := 0xE5, a := some { op := a, lit := .u32 }, dst := some d, legal := (Instr.pmset d a sel).wf }

/-- PMSET (R365, R373). -/
def execPmset (d a : Opnd) (sel : Bool) (s : State) : Res :=
  run (infoPmset d a sel) s fun o t =>
    if sel then t.finish o d (Lanes.uniform (word o.orig.mgmt.power)) o.act
    else
      let core := o.orig.g.core
      let old := Store.getOr o.orig.mgmt.tolerances core 0
      let t := { t with mgmt := { t.mgmt with tolerances := Store.set t.mgmt.tolerances core ((o.a.at 0).toNat % 2 ^ 32) } }
      t.wantPower.finish o d (Lanes.uniform (word old)) o.act

end Sys2Proof.Machine
end

