-- ==== Sys2Proof/Machine/CtxOps.lean ====
section
/-!
DEFINITION. CtxOps.lean: the context engines: CTXST and CTXLD (R89 to R92), sealed images (R86, R87), and what their operations do to a
context (R80).
-/
namespace Sys2Proof

/-- What an image sealed by another device holds under a migration key of this one: none where its tag does not verify. Its serial
numbers begin at the second argument, and the third result is the next free one. -/
opaque Config.importedBody : List Byte → Nat → Option (Machine.Context × List Machine.Kernel × Nat)

namespace Machine

/-! ### The request record (R89 to R91) -/

/-- The request record's bytes, if it is aligned and readable. -/
def State.ctxRecord (s : State) (pa : Nat) : Option (List Byte) :=
  let a := s.canonPa pa
  if pa % 64 ≠ 0 || !paExists a then none else some ((s.touch a 64).mm.bytes a 64)

/-- Operations that an engine holds. -/
def State.engineOps (s : State) (die : Nat) : Nat := (s.ctxOps.filter fun o => o.accepted && o.die == die).length

/-- An id in use (R255). -/
def State.inUse (s : State) (id : Nat) : Bool := s.ctxs.any fun c => c.id == id && c.st != .destroyed && c.st != .migrated

/-- Whether an operation that ends DONE makes a version entry (R80, R87). -/
def CtxOp.enters (o : CtxOp) : Bool := o.op == 1 || o.op == 2 || o.op == 5

/-- Version entries in use, with those that accepted operations are to make (R87). -/
def State.versionsTaken (s : State) : Nat :=
  let coming := (s.ctxOps.filter fun o => o.accepted && o.enters && (o.status == 0 || o.status == 0x10) && (Store.get? s.mgmt.versions o.ctx).isNone).map (·.ctx)
  s.mgmt.versions.length + coming.eraseDups.length

/-- Check (R91): the first failing row's status, or 0. -/
def State.ctxCheck (s : State) (o : CtxOp) (a : Nat) (b : List Byte) : Nat :=
  let f (off n : Nat) : Nat := fieldOf b off n
  let op := f 0 1
  let id := f 4 4
  let c := (s.ctx? id).getD { id := 0, part := 0, world := 0 }
  let full := s.versionsTaken ≥ 16384
  if a / 2 ^ 32 ≠ 0 || f 1 3 ≠ 0 || f 0x1C 4 ≠ 0 || f 0x30 16 ≠ 0 || !(if o.load then op == 4 || op == 5 else 1 ≤ op && op ≤ 3) || id ≠ a then 2
  else if (if op = 5 then s.inUse id else !s.inUse id) then 6
  else if op ≠ 5 && c.part ≠ o.part then 5
  else if (op ≠ 5 && c.busy) || s.engineOps o.die ≥ 16 then 4
  else if (if o.load then op == 4 && c.st != .sealedImg && c.st != .checkpointed else c.st != .preempted) then 1
  else if full && (op == 5 || ((op == 1 || op == 2) && (Store.get? s.mgmt.versions id).isNone)) then 3
  else 0

/-- The event in which an engine works on an operation. -/
def ctxEvent (op token : Nat) : Instr :=
  match op with
  | 1 => .sealCtx token
  | 2 => .checkpoint token
  | 3 => .migrate token
  | 4 => .restore token
  | _ => .importCtx token

/-- REQUEST_RECORD_CHECKED (R91): an accepted operation's record becomes PENDING, its context busy, and the instruction completes with
the status. A request whose instruction no longer waits is dropped. -/
def execRequestRecordChecked (token : Nat) (s : State) : Res :=
  match s.ctxOps.find? fun o => o.token == token && !o.accepted with
  | none => .next s
  | some o =>
    let drop := { s with ctxOps := s.ctxOps.filter fun x => x.token != token }
    if !s.groups.any fun g => g.paths.any fun q => q.awaits token then .next drop
    else
      match s.ctxRecord o.record with
      | none => .next (drop.answerToken token [2])
      | some b =>
        let st := s.ctxCheck o o.ctx b
        if st ≠ 0 then .next (drop.answerToken token [word st])
        else
          let op := fieldOf b 0 1
          let count := if op = 4 then s.mgmt.sealCount else s.mgmt.sealCount + 1
          let x : CtxOp := { o with op := op, image := fieldOf b 8 8, limit := fieldOf b 0x10 8, version := count, accepted := true }
          let put (y : CtxOp) : CtxOp := if y.token = token then x else y
          let s := { s with ctxOps := s.ctxOps.map put, mgmt := { s.mgmt with sealCount := count } }
          let s := s.store deviceUnit (s.canonPa o.record + 0x18) (leBytes 1 4)
          let s := s.modCtx x.ctx fun c => if op = 5 then c else { c with busy := true }
          .next ((s.schedule 1000 (ctxEvent op token)).answerToken token [0])

/-- The entry of CTXLD and CTXST. -/
def ctxInfo (i : Instr) (opcode : Nat) (d a b : Opnd) : Info :=
  { opcode := opcode, a := some { op := a, lit := .ty .i64 }, b := some { op := b, lit := .ty .i64 }, dst := some d, blocking := true
    legal := i.wf }

/-- CTXLD and CTXST: the instruction waits until the engine has read and checked the record. -/
def ctxInstr (i : Instr) (opcode : Nat) (load : Bool) (d a b : Opnd) (s : State) : Res :=
  run (ctxInfo i opcode d a b) s fun o t =>
    match (if o.stage = 1 then o.orig.p.answer else none) with
    | some v => t.takeAnswer.finish o d (Lanes.uniform (v.headD 0)) o.act
    | none =>
      let tok := o.orig.stamp
      let x : CtxOp := { token := tok, die := dieOf o.orig.g.core, op := 0, ctx := (o.a.at 0).toNat, record := (o.b.at 0).toNat, image := 0
                         limit := 0, part := o.orig.g.part, load := load }
      let w := (o.waitAt .answer 1 tok).tick
      { w with ctxOps := w.ctxOps ++ [x] }.schedule 400 (.requestRecordChecked tok)

/-- CTXLD (R89, R91). -/
def execCtxld (d a b : Opnd) (s : State) : Res := ctxInstr (.ctxld d a b) 0xE3 true d a b s
/-- CTXST (R89, R91). -/
def execCtxst (d a b : Opnd) (s : State) : Res := ctxInstr (.ctxst d a b) 0xE4 false d a b s

/-! ### The end of an operation (R92) -/

/-- An operation ends with a status, a byte count and a version; the record follows in CONTEXT_OP_COMPLETE. R92 does not say what count and
version one that ends otherwise than DONE writes: the count is that of the image read or 0, and the version that of the image read, or
that reserved at acceptance, or 0 (DESIGN CHOICE, log 67). -/
def State.ctxEnd (s : State) (token status bytes version : Nat) : State :=
  let end_ (o : CtxOp) : CtxOp := if o.token = token then { o with status := status, bytes := bytes, imageVersion := version } else o
  { s with ctxOps := s.ctxOps.map end_ }.schedule 8 (.contextOpComplete token)

/-- What an operation that ends DONE does to its context (R80, R87): SEAL releases its save area, and IMPORT deletes the session's key. -/
def State.ctxDone (s : State) (o : CtxOp) : State :=
  let enter (s : State) : State := { s with mgmt := { s.mgmt with versions := Store.set s.mgmt.versions o.ctx o.version } }
  match o.op with
  | 1 => (enter s).modCtx o.ctx fun c =>
      { c with st := .sealedImg, savedScratch := [], savedColumns := [], savedRecs := [] }
  | 2 => (enter s).modCtx o.ctx fun c => { c with st := .checkpointed }
  | 3 =>
    let s := s.clearCtx o.ctx false
    let s := (s.queues.map (·.1)).foldl (fun s q => s.revokeGrant q o.ctx) s
    { s with mgmt := { s.mgmt with versions := Store.del s.mgmt.versions o.ctx } }.modCtx o.ctx fun c => { c with st := .migrated }
  | 4 => s.modCtx o.ctx fun c => { c with st := .preempted }
  | _ => { enter s with mgmt := { (enter s).mgmt with sessions := s.mgmt.sessions.tail } }.modCtx o.ctx fun c => { c with st := .preempted }

/-- CONTEXT_OP_COMPLETE (R92): the context's new state, then count, version and completion status in the record, the status last. -/
def execContextOpComplete (token : Nat) (s : State) : Res :=
  match s.ctxOps.find? fun o => o.token == token && o.status != 0 with
  | none => .next s
  | some o =>
    let s := { s with ctxOps := s.ctxOps.filter fun x => x.token != token }
    let s := if o.op = 5 && o.status != 0x10 then s else s.modCtx o.ctx fun c => { c with busy := false }
    let s := if o.status = 0x10 then s.ctxDone o else s
    let pa := s.canonPa o.record
    let s := s.store deviceUnit (pa + 0x20) (leBytes o.bytes 8 ++ leBytes o.imageVersion 8)
    .next (s.store deviceUnit (pa + 0x18) (leBytes o.status 4)).offerRoom

/-- An operation at work: neither aborted nor ended. -/
def State.ctxWork (s : State) (token : Nat) (f : CtxOp → State) : Res :=
  match s.ctxOps.find? fun o => o.token == token && o.accepted with
  | none => .next s
  | some o => .next (if o.status ≠ 0 then s.ctxEnd token o.status 0 o.version else f o)

/-! ### Images (R86, R87) -/

/-- n free bytes. -/
def freeBytes (from_ n : Nat) : List Byte := (List.range n).map fun i => (Config.freeValue (from_ + i)).setWidth 8

/-- The first 48 bytes of an image's header, with a nonce of 96 bits; they are the data that its tag authenticates. -/
def imageHeader (kind ctx part wld version len : Nat) (nonce : List Byte) : List Byte :=
  leBytes 0x4B595743 4 ++ leBytes 1 2 ++ leBytes kind 1 ++ leBytes wld 1 ++ leBytes ctx 4 ++ leBytes part 1 ++ leBytes 0 3 ++
  leBytes version 8 ++ nonce ++ leBytes 0 4 ++ leBytes len 8

/-- An image of a context written at its address: payload length, nonce, payload and tag are free values. Its bytes, or the status. -/
def State.writeImage (s : State) (o : CtxOp) (c : Context) : State × (List Byte ⊕ Nat) :=
  let len := s.freeWord.toNat
  let base := s.free + 1
  let head := imageHeader o.op c.id c.part c.world o.version len (freeBytes base 12)
  let n := 64 + len
  let pa := s.canonPa o.image
  let s := s.useFree (29 + len)
  if n > o.limit then (s, .inr 0x13)
  else if o.image % 4096 ≠ 0 || !paExists pa || !paExists (pa + n - 1) then (s, .inr 0x14)
  else
    let bytes := head ++ freeBytes (base + 12) 16 ++ freeBytes (base + 28) len
    (s.store deviceUnit pa bytes, .inl bytes)

/-- The folios to which the handler groups of a context's image are bound, with their records as they stand (R323, R328). -/
def State.boundFolios (s : State) (c : Context) : List Folio :=
  let hs := c.saved.filter fun g => g.kind == .handler
  let now (f : Folio) (pos : Nat) (r : TrapRec) : TrapRec :=
    let here (g : Group) : Option TrapRec := (g.bound.find? fun b => b.2 == { folio := f.num, pos := pos }).bind fun b => s.boundRec g b.1
    (hs.findSome? here).getD r
  ((s.part c.part).folios.filter fun f => hs.any fun g => g.bound.any fun b => b.2.folio == f.num).map fun f =>
    { f with recs := f.recs.zipIdx.map fun e => e.1.map (now f e.2) }

/-- SEAL, CHECKPOINT and MIGRATE: the work waits for the image of R81 to be complete; MIGRATE needs a session's key. With several sessions
R86 does not say whose key it is: that of the oldest (DESIGN CHOICE, log 67). -/
def State.ctxSave (s : State) (o : CtxOp) : State :=
  match s.ctx? o.ctx with
  | none => s.ctxEnd o.token 0x15 0 o.version
  | some c =>
    if c.saving then s.schedule 64 (ctxEvent o.op o.token)
    else if o.op = 3 ∧ s.mgmt.sessions.isEmpty then s.ctxEnd o.token 0x14 0 o.version
    else
      match s.writeImage o c with
      | (s, .inr st) => s.ctxEnd o.token st 0 o.version
      | (s, .inl b) =>
        let img : Image := { kind := o.op, ctx := c.id, part := c.part, world := c.world, version := o.version, bytes := b
                             peer := s.mgmt.sessions.headD 0, body := { c with savedFolios := s.boundFolios c }, waiting := s.kernels.filter fun k => k.ctx == c.id }
        { s with images := s.images ++ [img] }.ctxEnd o.token 0x10 b.length o.version

/-- SEAL (R80, R86). -/
def execSealCtx (token : Nat) (s : State) : Res := s.ctxWork token s.ctxSave
/-- CHECKPOINT (R80, R86). -/
def execCheckpoint (token : Nat) (s : State) : Res := s.ctxWork token s.ctxSave
/-- MIGRATE (R80, R86). -/
def execMigrate (token : Nat) (s : State) : Res := s.ctxWork token s.ctxSave

/-- An image read from its address within the space limit: its bytes, or the status. -/
def State.readImage (s : State) (o : CtxOp) : State × (List Byte ⊕ Nat) :=
  let pa := s.canonPa o.image
  if o.image % 4096 ≠ 0 || !paExists pa || !paExists (pa + 63) then (s, .inr 0x14)
  else
    let s := s.touch pa 64
    let h := s.mm.bytes pa 64
    let n := 64 + fieldOf h 0x28 8
    if fieldOf h 0 4 ≠ 0x4B595743 || fieldOf h 4 2 ≠ 1 || fieldOf h 0x0D 3 ≠ 0 || fieldOf h 0x24 4 ≠ 0 then (s, .inr 0x11)
    else if n > o.limit then (s, .inr 0x13)
    else if !paExists (pa + n - 1) then (s, .inr 0x14)
    else
      let s := s.touch pa n
      (s, .inl (s.mm.bytes pa n))

/-- The context of an image rebuilt: after a device reset its groups and kernels come back from the image; otherwise what has filled the
groups' handles since stands (R364), and kernels that have ended since are left out. -/
def State.rebuild (s : State) (img : Image) (c : Context) : State :=
  let s := if c.lost then { s with kernels := s.kernels ++ img.waiting } else s
  let live (k : Nat) : Bool := (s.kernel? k).isSome
  let b := img.body
  s.modCtx c.id fun c =>
    { c with region := b.region, space := b.space, lost := false
             saved := (if c.lost then b.saved else c.saved).filter fun g => g.kind != .user || live g.kernel
             savedBlocks := b.savedBlocks.filter fun x => live x.kernel
             savedOps := b.savedOps.filter fun x => live x.kernel
             savedScratch := b.savedScratch.filter fun x => live x.1
             savedColumns := b.savedColumns, savedRecs := b.savedRecs.filter fun r => live r.kernel
             savedFolios := if c.lost then b.savedFolios else [] }

/-- Whether a context's version entry is that of no image of it: it was imported and has written none since, and every RESTORE of it ends
STALEVER (R87). -/
def State.noImage (s : State) (ctx : Nat) : Bool :=
  match Store.get? s.mgmt.versions ctx with
  | some v => !s.images.any fun i => i.kind ≤ 2 && i.ctx == ctx && i.version == v
  | none => false

/-- RESTORE (R80, R87): the tag verifies when the bytes are those of an image that the device has sealed. -/
def execRestore (token : Nat) (s : State) : Res :=
  s.ctxWork token fun o =>
    if s.noImage o.ctx then s.ctxEnd token 0x12 0 0
    else match s.readImage o with
    | (s, .inr st) => s.ctxEnd token st 0 0
    | (s, .inl b) =>
      match s.images.find? fun i => i.kind ≤ 2 && i.bytes == b, s.ctx? o.ctx with
      | some img, some c =>
        if img.ctx ≠ c.id || img.part ≠ c.part || img.world ≠ c.world then s.ctxEnd token 0x11 b.length img.version
        else if Store.get? s.mgmt.versions c.id ≠ some img.version then s.ctxEnd token 0x12 b.length img.version
        else (s.rebuild img c).ctxEnd token 0x10 b.length img.version
      | _, _ => s.ctxEnd token 0x11 b.length 0

/-- IMPORT (R80, R87): the context is there and busy until the operation completes. The spec does not say the following (DESIGN CHOICE,
log 67): with several sessions the key is that of the oldest; the context's partition is that of the curator that asked, and its world that
of the image's payload; where the id has been taken since the check, the operation ends BADSEAL. -/
def execImportCtx (token : Nat) (s : State) : Res :=
  s.ctxWork token fun o =>
    match s.readImage o with
    | (s, .inr st) => s.ctxEnd token st 0 o.version
    | (s, .inl b) =>
      let version := fieldOf b 0x10 8
      if s.mgmt.sessions.isEmpty || s.inUse o.ctx || fieldOf b 6 1 ≠ 3 then s.ctxEnd token 0x11 b.length version
      else
        match Config.importedBody b s.stamp with
        | none => s.ctxEnd token 0x11 b.length version
        | some (c, ks, next) =>
          let part := o.part
          let own (g : Group) : Group := { g with ctx := o.ctx, part := part }
          let c := { c with id := o.ctx, part := part, st := .preempted, busy := true, saving := false, lost := false, packet := none
                            saved := c.saved.map own, space := { c.space with ctx := o.ctx, part := part } }
          let mine (k : Kernel) : Kernel := { k with ctx := o.ctx }
          let s := { s with ctxs := s.ctxs.filter (fun (x : Context) => x.id != o.ctx) ++ [c]
                            kernels := s.kernels ++ ks.map mine
                            stamp := max s.stamp next }
          s.ctxEnd token 0x10 b.length version

end Machine

end Sys2Proof
end

