-- ==== Sys2Proof/Machine/Grace.lean ====
section
/-!
DEFINITION. Grace.lean: read-side sections, the grace controller and the deferred-free queue (R273 to R282).
-/
namespace Sys2Proof.Machine

/-! ### The controller -/

/-- Grace period done + 1 begins: its holdouts are the slices that are not quiescent (R275). -/
def State.beginGrace (s : State) (part : Nat) : State :=
  let hs := s.sections part
  let s := s.modPart part fun p => { p with running := true, holdouts := hs }
  if hs.isEmpty then s.schedule 600 (.gracePeriodComplete part) else s

/-- The fresh target (R275). -/
def Part.freshTarget (p : Part) : Nat := if p.running then p.done + 2 else p.done + 1

/-- The demand raised to a grace-period number (R275). -/
def State.demandGrace (s : State) (part t : Nat) : State :=
  let s := s.modPart part fun p => { p with demand := max p.demand t }
  if !(s.part part).running && (s.part part).done < (s.part part).demand then s.beginGrace part else s

/-- GRACE_PERIOD_COMPLETE (R275): waiters are released, entries go to the release ring, and the next period begins. -/
def execGracePeriodComplete (part : Nat) (s : State) : Res :=
  let p := s.part part
  if !p.running || !p.holdouts.isEmpty then .next s
  else
    let s := s.modPart part fun p =>
      let done := p.done + 1
      { p with done := done, doneAt := s.cyc, running := false, ready := p.ready ++ p.frees.filter (fun e => e.stamp ≤ done)
               frees := p.frees.filter fun e => done < e.stamp }
    let s := if (s.part part).ready.isEmpty then s else s.schedule 400 (.releaseRingAppend part)
    .next (if (s.part part).done < (s.part part).demand then s.beginGrace part else s)

/-- The 32 bytes of a release-ring entry (R277). -/
def FreeEntry.toBytes (e : FreeEntry) : List Byte :=
  leBytes e.addr.toNat 8 ++ leBytes e.size.toNat 8 ++ leBytes e.stamp 8 ++ leBytes e.ctx 4 ++ leBytes 0 4

/-- Entries written to the ring while it has room, each followed by the producer index; the rest stay. -/
def State.appendFrees (s : State) (part base cons : Nat) (es : List FreeEntry) : State × List FreeEntry :=
  match es with
  | [] => (s, [])
  | e :: r =>
    let s := s.touch base 4
    let prod := s.mm.num base 4
    if (prod + 2 ^ 32 - cons) % 2 ^ 32 < 4096 then
      let next := (prod + 1) % 2 ^ 32
      let s := (s.store (partUnit part) (base + 0x1000 + 32 * (prod % 4096)) e.toBytes).store (partUnit part) base (leBytes next 4)
      s.appendFrees part base cons r
    else (s, e :: r)

/-- The ready entries appended as far as the consumer index allows; while some wait it is read again (R277). -/
def State.drainFrees (s : State) (part : Nat) : State :=
  let p := s.part part
  if p.ready.isEmpty then s
  else
    let s := s.withRoot part
    let (s, rest) := match s.rootArea? part with
      | some base => let s := s.touch (base + 8) 4; s.appendFrees part base (s.mm.num (base + 8) 4) p.ready
      | none => (s, p.ready)
    let s := s.modPart part fun p => { p with ready := rest }
    let again := s.agenda.any fun d => d.ev == .consumerReread part
    if rest.isEmpty || again then s else s.schedule 4096 (.consumerReread part)

/-- RELEASE_RING_APPEND (R277). -/
def execReleaseRingAppend (part : Nat) (s : State) : Res := .next (s.drainFrees part)

/-- CONSUMER_REREAD (R277): with room, the entries follow 400 clk later (R282). -/
def execConsumerReread (part : Nat) (s : State) : Res :=
  if (s.part part).ready.isEmpty then .next s
  else
    let s := s.withRoot part
    let s := match s.rootArea? part with
      | some base => s.touch base 16
      | none => s
    let room : Bool := match s.rootArea? part with
      | some base => (s.mm.num base 4 + 2 ^ 32 - s.mm.num (base + 8) 4) % 2 ^ 32 < 4096
      | none => false
    .next (if room then s.schedule 400 (.releaseRingAppend part) else s.schedule 4096 (.consumerReread part))

/-! ### The instructions -/

/-- The slices of the issuing path that have an undetached run lane. -/
def State.sectionSlices (s : State) : List Slice := (s.g.pathSlices s.cur.path).filter fun x => x.run != 0

/-- Whether one of them stands inside a section. -/
def State.inSection (s : State) : Bool := s.sectionSlices.any fun x => x.depth != 0

/-- The entry of RSB: its operands, marks and conditions. -/
def infoRsb : Info :=
  { opcode := 0xB4 }

/-- RSB (R273). -/
def execRsb (s : State) : Res :=
  run infoRsb s fun o t =>
    if o.orig.sectionSlices.any fun x => x.depth ≥ 15 then o.trap 0x1A
    else (t.modG fun g => g.modPathSlices s.cur.path fun x => if x.run = 0 then x else { x with depth := x.depth + 1 }).done o

/-- The entry of RSE: its operands, marks and conditions. -/
def infoRse : Info :=
  { opcode := 0xB5 }

/-- RSE (R273). -/
def execRse (s : State) : Res :=
  run infoRse s fun o t =>
    if o.orig.sectionSlices.any fun x => x.depth == 0 then o.trap 0x1A
    else ((t.modG fun g => g.modPathSlices s.cur.path fun x => if x.run = 0 then x else { x with depth := x.depth - 1 }).done o).sweep

/-- Whether an origin lane bound to the issuing handler group carries a depth (R279). -/
def State.boundDepth (s : State) : Bool :=
  let g := s.g
  g.kind == .handler && g.bound.any fun b =>
    match s.recOf? g b.1 with
    | some r => r.depth != 0
    | none => false

/-- The entry of GPWAIT: its operands, marks and conditions. -/
def infoGpwait (a : Opnd) : Info :=
  { opcode := 0xB6, a := some { op := a, lit := .ty .u64 }, blocking := true, legal := (Instr.gpwait a).wf }

/-- GPWAIT (R279). It reports no lost store, since it raises only GPNEST beyond the traps of R36, R37 and R70 (R280; log 21). -/
def execGpwait (a : Opnd) (s : State) : Res :=
  run (infoGpwait a) s fun o t =>
    let part := o.orig.g.part
    if o.stage = 2 then t.done o
    else if o.orig.inSection || o.orig.boundDepth then o.trap 0x1A
    else if !o.orig.performed o.orig.g s.cur.path then o.waitAt .performed 1 0
    else
      let f := (o.orig.part part).freshTarget
      let n := if a = .zero then f else min (o.a.at 0).toNat f
      if n ≤ (o.orig.part part).done then (t.demandGrace part n).done o
      else (o.waitAt (.grace n) 2 n).demandGrace part n

/-- The entry of GPSEQ: its operands, marks and conditions. -/
def infoGpseq (d : Opnd) : Info :=
  { opcode := 0xB7, dst := some d, legal := (Instr.gpseq d).wf }

/-- GPSEQ (R279). -/
def execGpseq (d : Opnd) (s : State) : Res :=
  run (infoGpseq d) s fun o t =>
    let part := o.orig.g.part
    let n := (o.orig.part part).freshTarget
    (t.demandGrace part n).finish o d (Lanes.uniform (word n)) o.act

/-- The entry of DFREE: its operands, marks and conditions. -/
def infoDfree (a b : Opnd) : Info :=
  { opcode := 0xB8, a := some { op := a, lit := .ty .i64 }, b := some { op := b, lit := .ty .u64 }, blocking := true
    legal := (Instr.dfree a b).wf }

/-- DFREE (R276, R279); like GPWAIT it reports no lost store (R280). -/
def execDfree (a b : Opnd) (s : State) : Res :=
  run (infoDfree a b) s fun o t =>
    let part := o.orig.g.part
    let p := o.orig.part part
    if !o.orig.performed o.orig.g s.cur.path then o.waitAt .performed 1 0
    else if p.freeHeld ≥ freeCapacity then if o.orig.inSection then o.trap 0x1A else o.waitAt .freeRoom 1 0
    else
      let n := p.freshTarget
      let e : FreeEntry := { addr := o.a.at 0, size := o.b.at 0, stamp := n, ctx := o.orig.g.ctx }
      ((t.modPart part fun p => { p with frees := p.frees ++ [e] }).demandGrace part n).done o

end Sys2Proof.Machine
end

