-- ==== Sys2Proof/Machine/Host.lean ====
section
/-!
DEFINITION. Host.lean: the host's queue interfaces (R251 to R255), the remapping table (R256), and the requests of peer devices
that the device serves (R356).
-/
namespace Sys2Proof.Machine

/-! ### Control registers (R251) -/

/-- A queue interface. -/
def State.qi (s : State) (n : Nat) : Qi := Store.getOr s.qis n {}
/-- A queue interface set. -/
def State.setQi (s : State) (n : Nat) (q : Qi) : State := { s with qis := Store.set s.qis n q }

/-- Whether writes to an interface's block are ignored: its function's TDISP device interface is in CONFIG_LOCKED or RUN (R251). -/
def State.qiLocked (s : State) (n : Nat) : Bool :=
  let t := Store.getOr s.tdisp (s.qi n).func 0
  t == 1 || t == 2

/-- The fields of CTL other than EN and ST, from a written value. -/
def Qi.fields (q : Qi) (v : Nat) : Qi :=
  { q with log2 := bitsOf v 60 56, func := bitsOf v 55 46, part := bitsOf v 45 40, irte := bitsOf v 32 20, pasid := v % 2 ^ 20 }

/-- Whether a write that sets EN is accepted (R251). -/
def Qi.enableOk (q : Qi) : Bool := 4 ≤ q.log2 && q.log2 ≤ 16 && q.func ≤ 512 && q.ring.toNat % (64 * 2 ^ q.log2) == 0

/-- A write to CTL (R251, R252). -/
def State.writeCtl (s : State) (n : Nat) (v : Nat) : State :=
  let q := s.qi n
  if n ≥ 8192 || s.qiLocked n || setsReserved v [(39, 33)] then s
  else if q.en then
    if v / 2 ^ 63 % 2 = 1 then s else (s.setQi n { q with closing := true }).closeQi n
  else
    let q := q.fields v
    if v / 2 ^ 63 % 2 = 1 && q.enableOk then s.setQi n { q with en := true, st := .enabled, head := 0, tail := 0, epoch := q.epoch + 1 } else s.setQi n q

/-- QI_ENABLE (R251, R252). -/
def execQiEnable (qi : Nat) (ctl : BitVec 64) (s : State) : Res := .next (s.wakePower.writeCtl qi ctl.toNat)

/-- QI_DISABLE (R252). -/
def execQiDisable (qi : Nat) (s : State) : Res := .next (s.wakePower.writeCtl qi 0)

/-- The value that CTL holds. -/
def Qi.ctl (q : Qi) : Nat :=
  let st := match q.st with
    | .disabled => 0
    | .enabled => 1
    | .error => 2
    | .revoked => 3
  (if q.en then 2 ^ 63 else 0) + st * 2 ^ 61 + q.log2 * 2 ^ 56 + q.func * 2 ^ 46 + q.part * 2 ^ 40 + q.irte * 2 ^ 20 + q.pasid

/-! ### Notify pages and rings (R252, R253) -/

/-- The memory of the host at an I/O virtual address: the host window's where the address lies in it, else a place beyond every
device physical address (log 16). -/
def hostPa (va : Nat) : Nat := if hostBase ≤ va ∧ va < peerBase then va else 2 ^ 64 + va

/-- The interface of a notify page: the p-th enabled one of the function, in ascending number (R253). -/
def State.pageQi (s : State) (func page : Nat) : Option Nat :=
  ((s.qis.filter fun e => e.2.en && e.2.func == func)[page]?).map (·.1)

/-- The packet at a ring index. -/
def Qi.packetAt (q : Qi) (n index : Nat) : Packet :=
  { id := 0, qi := some n, index := index, part := q.part, pa := hostPa ((q.ring.toNat + 64 * (index % 2 ^ q.log2)) % 2 ^ 64) }

/-- Packets fetched from HEAD on; HEAD counts the packets consumed. -/
def State.fetchRing (s : State) (n fuel : Nat) : State :=
  match fuel with
  | 0 => s
  | fuel + 1 =>
    let q := s.qi n
    ((s.fetchPacket (q.packetAt n q.head)).setQi n { q with head := (q.head + 1) % 2 ^ 32 }).fetchRing n fuel

/-- What a read of BAR2 answers (R253). -/
def readBar2 (_offset : Nat) : Word := 0

/-- NOTIFY (R252, R253): a write that is dropped changes no state, and so is no exit event (R373). -/
def execNotify (func page offset size : Nat) (value : BitVec 64) (s : State) : Res :=
  .next (if offset ≠ 0 ∨ size ≠ 4 then s
    else
      match s.pageQi func page with
      | none => s
      | some n =>
        let q := s.qi n
        let tail := value.toNat % 2 ^ 32
        let count := (tail + 2 ^ 32 - q.head) % 2 ^ 32
        let s := if q.st = .revoked then s else s.wakeLink
        if q.st ≠ .enabled || q.closing then s
        else if count > 2 ^ q.log2 then s.setQi n { q with st := .error }
        else
          let s := (s.setQi n { q with tail := tail }).fetchRing n count
          s.startPackets (s.packets.length + 1))

/-- RING_READ_ERROR (R252). -/
def execRingReadError (qi : Nat) (s : State) : Res :=
  .next (if (s.qi qi).st = .enabled then s.setQi qi { s.qi qi with st := .error } else s)

/-! ### Revocation and TDISP (R251, R252, R255) -/

/-- An interface enters REVOKED: its fetched packets that have not started complete REVOKED, the last that is written with its PASID. -/
def State.revokeQi (s : State) (n : Nat) : State :=
  let unstarted := s.packets.filter fun p => p.qi == some n && !p.started
  let s := unstarted.foldl (fun s p => s.tellStatus p 6) s
  let s := s.setQi n { s.qi n with st := .revoked }
  unstarted.foldl (fun s p => s.completePacket p.id 6) s

/-- PASID_REVOKE written: the PASID is revoked at every interface that runs, or has run into an error, with it (R252, R255). -/
def State.revokePasid (s : State) (v : Nat) : State :=
  let here (q : Qi) : Bool := (q.st == .enabled || q.st == .error) && q.pasid == v % 2 ^ 20
  if setsReserved v [(31, 20)] then s
  else ((s.qis.filter fun e => here e.2).map (·.1)).foldl State.revokeQi s

/-- PASID_REVOKE (R255). -/
def execPasidRevoke (value : BitVec 32) (s : State) : Res := .next (s.wakePower.revokePasid value.toNat)

/-- TDISP_ERROR (R252). -/
def execTdispError (func : Nat) (s : State) : Res :=
  let fail (e : Nat × Qi) : Nat × Qi := if e.2.func = func ∧ e.2.st = .enabled then (e.1, { e.2 with st := .error }) else e
  .next { s with tdisp := Store.set s.tdisp func 3, qis := s.qis.map fail }

/-- TDISP_STATE_CHANGE (R251): into or out of CONFIG_LOCKED or RUN. -/
def execTdispStateChange (func st : Nat) (s : State) : Res :=
  .next (if st < 3 then { s with tdisp := Store.set s.tdisp func st } else s)

/-! ### Requests of peer devices (R356) -/

/-- The effective device area of a partition's root region, if it is usable (R109). -/
def State.rootArea (s : State) (part : Nat) : State × Nat × Nat :=
  match s.region? part 0 with
  | (s, some (e, _)) => (s, e.areaBase, e.areaBase + e.areaSize)
  | (s, none) => (s, 0, 0)

/-- What a served request does at its home slice: kind 0 reads, kind 1 writes, another kind is an atomic's opcode with its ETYPE in
bits 15 to 8, its rounding mode in bits 18 to 16 and FTZ in bit 19. It answers with what it read. The requester stands outside
the device, as the host does. -/
def State.servePeer (s : State) (kind pa size : Nat) (data : Nat) : State × List Word :=
  if kind = 1 then (s.store hostUnit pa (leBytes data size), [])
  else
    let t := (EType.ofCode (bitsOf kind 15 8)).getD .u64
    let s := s.touch pa size
    let old := s.mm.num pa size
    let s := if kind = 0 then s
      else
        let v := atomicNew (kind % 256) t (.ofCode (bitsOf kind 18 16)) (kind / 2 ^ 19 % 2 = 1) old (data % 2 ^ 64 % 2 ^ (8 * size)) (data / 2 ^ 64 % 2 ^ (8 * size))
        s.store hostUnit pa (leBytes v size)
    (s, (List.range ((size + 7) / 8)).map fun i => word (old / 2 ^ (64 * i) % 2 ^ 64))

/-- PEER_REQUEST_SERVE (R356): the inbound entry of the requesting device decides. -/
def execPeerRequestServe (device kind : Nat) (addr : BitVec 64) (size : Nat) (data : BitVec 1024) (s : State) : Res :=
  let s := s.wakeLink
  let e := (Store.getOr s.inbound (device % 4096) 0).toNat
  let pa := addr.toNat % 2 ^ 39
  let (s, lo, hi) := s.rootArea (bitsOf e 45 40)
  let size := if kind = 0 then min size 128 else if kind = 1 then min size 128 else ((EType.ofCode (bitsOf kind 15 8)).getD .u64).elemBytes
  let ok : Bool := e / 2 ^ 63 == 1 && (kind == 0 || bitsOf e 62 62 == 1) && lo ≤ pa && pa + size ≤ hi
  if !ok then .next { s with peerAnswer := [1] }
  else
    let (s, r) := s.servePeer kind pa size data.toNat
    .next { s with peerAnswer := 0 :: r }

end Sys2Proof.Machine
end

