-- ==== Sys2Proof/Machine/Lane.lean ====
section
/-!
DEFINITION. Lane.lean: lane and predicate instructions (R160 to R162).
-/
namespace Sys2Proof.Machine

/-- The bits of a predicate field: the register, inverted for ~pN (R160). -/
def Group.predField (g : Group) (n : Bool) (q : Nat) : LaneMask := if n then ~~~(g.pred q) else g.pred q

/-- The entry of a shuffle. -/
def shuffleInfo (i : Instr) (opcode : Nat) (d a : Opnd) (b : Option Opnd) : Info :=
  { opcode := opcode, a := some { op := a, lit := .ty .i64 }, b := b.map fun b => { op := b, lit := .ty .u64 }
    dst := some d, legal := i.wf }

/-- A shuffle: each active lane takes the value of its source lane, or its own where that lane is not active (R161). -/
def shuffle (i : Instr) (opcode : Nat) (d a : Opnd) (b : Option Opnd) (src : Nat → Nat → Int) (s : State) : Res :=
  run (shuffleInfo i opcode d a b) s fun o t =>
    t.finish o d (Lanes.of fun l =>
      let m := src l (o.b.at l).toNat
      if 0 ≤ m ∧ m < 32 ∧ o.act.getLsbD m.toNat then o.a.at m.toNat else o.a.at l) o.act

/-- SHFL (R161). -/
def execShfl (d a b : Opnd) (s : State) : Res := shuffle (.shfl d a b) 0x60 d a (some b) (fun _ b => ((b % 32 : Nat) : Int)) s
/-- SHFLU: from lane l - n (R161). -/
def execShflu (d a : Opnd) (n : Fin 32) (s : State) : Res :=
  shuffle (.shflu d a n) 0x61 d a none (fun l _ => (l : Int) - (n.val : Int)) s
/-- SHFLD: from lane l + n (R161). -/
def execShfld (d a : Opnd) (n : Fin 32) (s : State) : Res :=
  shuffle (.shfld d a n) 0x62 d a none (fun l _ => ((l + n.val : Nat) : Int)) s
/-- SHFLX: from lane l XOR n (R161). -/
def execShflx (d a : Opnd) (n : Fin 32) (s : State) : Res :=
  shuffle (.shflx d a n) 0x63 d a none (fun l _ => ((l ^^^ n.val : Nat) : Int)) s

/-- The entry of an instruction whose fields are all predicates. -/
def predInfo (i : Instr) (opcode : Nat) : Info := { opcode := opcode, legal := i.wf }

/-- An instruction that writes a predicate in the active lanes from the predicate registers (R161). -/
def predAlu (i : Instr) (opcode : Nat) (p : Nat) (f : Group → LaneMask → LaneMask) (s : State) : Res :=
  run (predInfo i opcode) s fun o t =>
    (t.modG fun g => g.writePred p (f o.orig.g o.act) o.act).done o

/-- VOTE: 0 all, 1 any, 2 uniform, 3 none (R160, R161). -/
def execVote (k : Fin 16) (p : Fin 8) (n : Bool) (q : Fin 8) (s : State) : Res :=
  predAlu (.vote k p n q) 0x64 p (fun g act =>
    let x := g.predField n q &&& act
    let t := match k.val with
      | 0 => x == act
      | 1 => x != 0
      | 2 => x == act || x == 0
      | _ => x == 0
    if t then ~~~0 else 0) s

/-- PAND (R161). -/
def execPand (p : Fin 8) (n : Bool) (q : Fin 8) (m : Bool) (r : Fin 8) (s : State) : Res :=
  predAlu (.pand p n q m r) 0x69 p (fun g _ => g.predField n q &&& g.predField m r) s
/-- POR (R161). -/
def execPor (p : Fin 8) (n : Bool) (q : Fin 8) (m : Bool) (r : Fin 8) (s : State) : Res :=
  predAlu (.por p n q m r) 0x6A p (fun g _ => g.predField n q ||| g.predField m r) s
/-- PXOR (R161). -/
def execPxor (p : Fin 8) (n : Bool) (q : Fin 8) (m : Bool) (r : Fin 8) (s : State) : Res :=
  predAlu (.pxor p n q m r) 0x6B p (fun g _ => g.predField n q ^^^ g.predField m r) s
/-- PNOT (R161). -/
def execPnot (p : Fin 8) (n : Bool) (q : Fin 8) (s : State) : Res :=
  predAlu (.pnot p n q) 0x6C p (fun g _ => ~~~(g.predField n q)) s

/-- The entry of PMOV: its operands, marks and conditions. -/
def infoPmov (p : Fin 8) (a : Opnd) : Info :=
  { opcode := 0x6D, a := some { op := a, lit := .u32 }, legal := (Instr.pmov p a).wf }

/-- PMOV: bit l of the uniform mask (R161). -/
def execPmov (p : Fin 8) (a : Opnd) (s : State) : Res :=
  run (infoPmov p a) s fun o t =>
    (t.modG fun g => g.writePred p (maskOf fun l => (o.a.at l).getLsbD l) o.act).done o

/-- The entry of PSET: its operands, marks and conditions. A literal reads as I64: PSET reads no ETYPE, and R28 does not name it (DESIGN
CHOICE, log 79). -/
def infoPset (p : Fin 8) (a : Opnd) (i : Fin 64) : Info :=
  { opcode := 0x6E, a := some { op := a, lit := .ty .i64 }, legal := (Instr.pset p a i).wf }

/-- PSET: one bit of each lane's value (R161). -/
def execPset (p : Fin 8) (a : Opnd) (i : Fin 64) (s : State) : Res :=
  run (infoPset p a i) s fun o t =>
    (t.modG fun g => g.writePred p (maskOf fun l => (o.a.at l).getLsbD i) o.act).done o

/-- A value in the low 32 bits of every lane. -/
def maskLanesOf (m : LaneMask) : Lanes := Lanes.uniform (m.setWidth 64)

/-- The entry of BALLOT: its operands, marks and conditions. -/
def infoBallot (d : Opnd) (n : Bool) (q : Fin 8) : Info :=
  { opcode := 0x65, dst := some d, legal := (Instr.ballot d n q).wf }

/-- BALLOT: the mask of the active lanes whose bit is 1 (R161). -/
def execBallot (d : Opnd) (n : Bool) (q : Fin 8) (s : State) : Res :=
  run (infoBallot d n q) s fun o t =>
    t.finish o d (maskLanesOf (o.orig.g.predField n q &&& o.act)) o.act

/-- The entry of MATCHL: its operands, marks and conditions. -/
def infoMatchL (d a : Opnd) (s : State) : Info :=
  { opcode := 0x66, a := some { op := a }, dst := some d, legal := (Instr.matchL d a).wf && s.etypesOk fun _ => true }

/-- MATCH: for each lane, the active lanes with the same low w bits (R161). -/
def execMatchL (d a : Opnd) (s : State) : Res :=
  run (infoMatchL d a s) s fun o t =>
    t.finish o d (Lanes.of fun l =>
      let w := (modeEtype (o.modeOf l)).width
      (maskOf fun m => o.act.getLsbD m && (o.a.at m).toNat % 2 ^ w == (o.a.at l).toNat % 2 ^ w).setWidth 64) o.act

/-- The entry of RDLANE: its operands, marks and conditions. -/
def infoRdlane (d a b : Opnd) : Info :=
  { opcode := 0x67, a := some { op := a }, b := some { op := b, lit := .ty .u64 }, dst := some d
    legal := (Instr.rdlane d a b).wf }

/-- RDLANE: lane m of a g register, active or not (R161): its present contents, also of a lane of a sibling path, which R162 says a path
never sees (DESIGN CHOICE, log 80). -/
def execRdlane (d a b : Opnd) (s : State) : Res :=
  run (infoRdlane d a b) s fun o t =>
    t.finish o d (Lanes.uniform (o.a.at ((o.b.at 0).toNat % 32))) o.act

/-- The entry of WRLANE: its operands, marks and conditions. -/
def infoWrlane (d a b : Opnd) : Info :=
  { opcode := 0x68, a := some { op := a, lit := .ty .i64 }, b := some { op := b, lit := .ty .u64 }, dst := some d
    legal := (Instr.wrlane d a b).wf }

/-- WRLANE: lane m of the destination, if it is active; the push carries the register's contents afterwards (R161). -/
def execWrlane (d a b : Opnd) (s : State) : Res :=
  run (infoWrlane d a b) s fun o t =>
    let m := (o.b.at 0).toNat % 32
    let lane : LaneMask := BitVec.ofNat 32 (2 ^ m) &&& o.act
    let t := (t.modG fun g => g.writeOpnd d o.a lane).clearIf o
    let v := (d.reg?.map fun r => t.g.regVal r).getD []
    (t.modG fun g => g.push v o.act).advance

end Sys2Proof.Machine
end

