-- ==== Sys2Proof/Machine/Readback.lean ====
section
/-!
DEFINITION. Readback.lean: the state readback interface (R374, R375) and the debug controls.
-/
namespace Sys2Proof.Machine

/-- The outcomes of an access (R374). -/
inductive RbStatus where
  | ok | gated | nounit | noitem | denied | ignored
  deriving DecidableEq, Repr

/-- The code of an outcome. -/
def RbStatus.code (x : RbStatus) : Nat :=
  match x with
  | .ok => 0
  | .gated => 1
  | .nounit => 2
  | .noitem => 3
  | .denied => 4
  | .ignored => 5

/-- What a read answers: its value, its outcome and the clk it pays. -/
structure RbRead where
  val : Word := 0
  st : RbStatus := .ok
  paid : Nat := 0
  deriving DecidableEq, Repr

/-- The answers of a read without a value. -/
def noItem : RbRead := { st := .noitem }
def noUnit : RbRead := { st := .nounit }
/-- A value read, and a number read. -/
def found (v : Word) : RbRead := { val := v }
def foundN (n : Nat) : RbRead := { val := word n }
/-- An item that may be absent. -/
def foundOr (v : Option Word) : RbRead := (v.map found).getD noItem

/-! ### Groups (kinds 0x01 and 0x12) -/

/-- A register state's code with its EMPTY kind (R375). -/
def RegState.rbCode (st : RegState) : Nat :=
  match st with
  | .dead => 0
  | .pending _ => 1
  | .opened => 1 + 4
  | .lost => 1 + 8
  | .full => 2

/-- The clk that a read of a group's registers pays (R71, R374). -/
def Group.rbPaid (g : Group) : Nat := if g.drowsy then 24 else 0

/-- A read of a register, gated where it is not allocated. -/
def Group.rbReg (g : Group) (n : Nat) (v : Word) : RbRead :=
  if n ≥ 208 then noItem else if n ≥ g.alloc then { st := .gated } else { val := v, paid := g.rbPaid }

/-- The state word of a register specifier. -/
def Group.rbRegState (g : Group) (spec : Nat) : RbRead :=
  let v := word ((g.regState spec).rbCode + if g.drowsy then 16 else 0)
  if spec < 0x10 ∨ spec > 0xFF then noItem
  else if spec < 0x30 then { val := v, paid := g.rbPaid }
  else g.rbReg (spec - 0x30) v

/-- An item of a slice. -/
def Slice.rbItem (x : Slice) (k : Nat) : Word :=
  match k with
  | 0 => x.pc
  | 1 => word x.run.toNat
  | 2 => word x.detached.toNat
  | 3 => x.mode.setWidth 64
  | 4 => word x.depth
  | 5 => word x.retDepth
  | 6 => word x.rcvDepth
  | _ => word ((x.carried.zipIdx.map fun e => e.1 % 16 * 16 ^ e.2).foldl (· + ·) 0)

/-- A word of a slice's on-chip reconvergence entry, the oldest first, as R132 lays it out. -/
def Slice.rbRcv (x : Slice) (entry w : Nat) : Option Word :=
  (x.rcv.reverse[entry]?).map fun e => word (fieldOf e.toBytes (8 * w) 8)

/-- A word of a slice's deferred list. -/
def Slice.rbDeferred (x : Slice) (entry w : Nat) : Option Word :=
  (x.deferred[entry]?).map fun d => if w = 0 then d.pc else word (d.mask.toNat + d.depth % 65536 * 256)

/-- 64 of the pending user-interrupt vectors. -/
def Group.rbInts (g : Group) (w : Nat) : Word :=
  word (((List.range 64).filter fun i => g.ints.any fun r => r.vec == 64 * w + i).foldl (fun n i => n + 2 ^ i) 0)

/-- A number for a group's state, with which Config.readbackWord makes its word. -/
def GState.num (st : GState) : Nat :=
  match st with
  | .pending => 0
  | .active => 1
  | .sleeping => 2
  | .parked => 3
  | .stopped _ => 4
  | .halted => 5

/-- A group register (class 0x08). -/
def Group.rbGroupReg (g : Group) (i : Nat) : Option Word :=
  match i with
  | 0 => some (Config.readbackWord 0 [g.st.num])
  | 1 => some g.tpc
  | 2 => some g.uipc
  | 3 => some (word g.tcause)
  | 4 => some (Config.readbackWord 1 (g.hdl.map fun h => if h.kind = .gtrap then 0 else 1))
  | 5 => some g.gang
  | 6 => some (word g.mxFlags)
  | 7 => some (word ([0, 1, 2, 3, 4].foldl (fun n c => n + Store.getOr g.cnt c 0 % 256 * 256 ^ c) 0))
  | 8 => some (Config.readbackWord 2 (g.flags.flatMap (fun e => [e.1, e.2]) ++ g.slices.flatMap fun x => x.flags.flatMap fun e => [x.idx, e.1, e.2]))
  | 9 => some (g.rbInts 0)
  | 10 => some (g.rbInts 1)
  | 11 => some (g.rbInts 2)
  | 12 => some (g.rbInts 3)
  | 13 => some g.cbase
  | 14 => some (word g.csize)
  | 15 => some (g.wake.getD 0)
  | 16 => some (word g.ctx)
  | 17 => some (word g.inst)
  | _ => none

/-- An upper level (R64, R66). -/
def Group.rbUpper (g : Group) (i : Nat) : Option Word :=
  let n := i / 32
  if n < 4 then some ((g.ages.getD n []).at (i % 32))
  else if n < 12 then some ((Store.getOr g.caches (n - 4) []).at (i % 32)) else none

/-- The valid bits of an upper level. -/
def Group.rbValid (g : Group) (n : Nat) : Option Word :=
  if n < 4 then some (if g.ageValid.getD n false then word (2 ^ 32 - 1) else 0)
  else if n < 12 then some (word (Store.getOr g.cacheValid (n - 4) 0).toNat) else none

/-- An item of a group (R375); bar looks up its barriers, and a saved group has no upper level. -/
def Group.rbItem (g : Group) (bar : BarLevel → Nat → Barrier) (saved : Bool) (cls i : Nat) : RbRead :=
  let slice (n : Nat) (f : Slice → Option Word) : RbRead := foundOr (((g.slices.find? fun x => x.idx == n).bind f))
  match cls with
  | 0 => g.rbReg (i / 32) ((g.regVal (0x30 + i / 32)).at (i % 32))
  | 1 => if i < 32 then { val := g.sval i, paid := g.rbPaid } else noItem
  | 2 => g.rbRegState i
  | 3 => if i < 8 then foundN (g.pred i).toNat else noItem
  | 4 => slice (i / 8) fun x => some (x.rbItem (i % 8))
  | 5 => slice (i / 64) fun x => x.rbRcv (i / 4 % 16) (i % 4)
  | 6 => slice (i / 16) fun x => x.ret.reverse[i % 16]?
  | 7 => slice (i / 8) fun x => x.rbDeferred (i / 2 % 4) (i % 2)
  | 8 => foundOr (g.rbGroupReg i)
  | 9 => if i < 8 then found (Store.getOr g.shapes i 0) else if i < 12 then found (Store.getOr g.hf (i - 8) {}).word else noItem
  | 10 => if i / 1024 < g.acc then foundN (Store.getOr (Store.getOr g.tiles (i / 1024) []) (i % 1024) 0).toNat else noItem
  | 11 => if saved then noItem else foundOr (g.rbUpper i)
  | 12 => if saved then noItem else foundOr (g.rbValid i)
  | 13 =>
    let l := i / 32
    let b := i / 2 % 16
    let x := bar (.ofCode l) b
    if l ≥ 4 then noItem else if i % 2 = 0 then foundN x.phase else foundN (x.count * 2 ^ 32 + x.arrived)
  | _ => noItem

/-- A curator group at the entry of its image, which the image fixes (R368, log 12). -/
def curatorGroup (s : State) (core : Nat) (pc : Word) (version : Nat) : Group :=
  let w := (Store.getOr s.mm.quadAssign (4 * core + 3) 0).toNat
  { unit := 64 * core + 63, serial := s.stamp + core, kind := .curator, part := bitsOf w 9 4, world := bitsOf w 23 16, alloc := 208
    sregs := [0, 1, 2, 3, 4, 5, 6, 7].map fun n => (n, { st := .full, val := 0 })
    slices := sliceIds.map fun x => { idx := x, pc := pc, run := 15, gone := 0, mode := 0x00006160 }
    paths := [{ id := 0 }], setSince := s.cyc, lastIssue := s.cyc, readySince := some s.cyc, issueFrom := s.cyc + 8, fw := version }

/-- Whether a group is that of the shipped firmware, whose program is no part of the model (R10, R369, log 64). -/
def Group.byFirmware (g : Group) : Bool := g.paths.any fun q => (q.wait.map (·.why)) == some .firmware

/-- The bits that an item of a group can hold: the reserved and unused ones read as 0 on every path (R5, R374). -/
def itemBits (cls i : Nat) : Nat :=
  match cls with
  | 0 | 1 | 6 | 12 => if cls = 12 then 32 else 64
  | 2 => 5
  | 3 => 32
  | 4 => [64, 4, 4, 27, 4, 16, 16, 16].getD (i % 8) 0
  | 5 => 64
  | 7 => if i % 2 = 0 then 64 else 24
  | 8 => [64, 64, 64, 8, 64, 39, 3, 40].getD i 64
  | 9 => 62
  | 10 => 32
  | _ => 64

/-- Whether a curator has taken and not answered a request of a world's own context (R363, R374). -/
def State.asks (s : State) (part wld : Nat) : Bool :=
  let mine (m : Mail) : Bool := m.taken && (s.partGroups part).any fun g => g.serial == m.serial && g.world == wld && g.kind == .user
  s.mail.any fun e => e.2.any mine

/-- Whether an agent's read of a world's state is denied: of a confidential one, unless its own context issues it through SVC, which a curator
then makes for it (R374; DEDUCED, log 48). -/
def State.denies (s : State) (agent part wld : Nat) : Bool := wld != 0 && !(agent == 2 && s.asks part wld)

/-- A group in a slot. DESIGN CHOICE (log 64): what the shipped firmware's own items hold is a free value in the bits that they have. -/
def State.rbGroup (s : State) (agent unit cls i : Nat) : RbRead :=
  let g := s.grp unit
  if !s.hasGrp unit then noUnit
  else if s.denies agent g.part g.world then { st := .denied }
  else
    let r := g.rbItem (s.barrier g) false cls i
    if g.byFirmware && r.st == .ok then { r with val := word (s.freeWord.toNat % 2 ^ itemBits cls i) } else r

/-- The barriers of a saved group: those of its block are in the image. -/
def State.savedBar (s : State) (c : Context) (g : Group) (l : BarLevel) (n : Nat) : Barrier :=
  match l with
  | .block => ((c.savedBlocks.find? fun b => b.kernel == g.kernel && b.bid == g.bid).bind fun b => Store.get? b.bars n).getD {}
  | _ => s.barrier g l n

/-- A group in the save area of the selected context. -/
def State.rbSaved (s : State) (agent n cls i : Nat) : RbRead :=
  match s.ctx? s.savedSelect with
  | none => noUnit
  | some c =>
    if c.st ≠ .preempted ∧ c.st ≠ .checkpointed then noUnit
    else
      match c.saved[n]? with
      | none => noUnit
      | some g => if s.denies agent g.part g.world then { st := .denied } else g.rbItem (s.savedBar c g) true cls i

/-! ### The other units -/

/-- Whether an agent is denied the state of a unit with an assignment word (R82, R374). -/
def State.secret (s : State) (agent : Nat) (w : Word32) : Bool := s.denies agent (bitsOf w.toNat 9 4) (bitsOf w.toNat 23 16)

/-- The bytes of a store from an offset, as a word. -/
def storeWord (m : Store Byte) (from_ : Nat) : Word := word (leNat ((List.range 8).map fun i => Store.getOr m (from_ + i) 0))

/-- Arrived members at the rendezvous latch whose leader stands on a quadrant: leader slot and a bit per member of the gang word. -/
def State.rbLatch (s : State) (quad : Nat) : Nat :=
  match s.gangs.find? fun a => a.core == quad / 4 && a.leader / 16 == quad % 4 with
  | none => 0
  | some a =>
    let here (u : Nat) : Bool := s.gangs.any fun x => x.core == a.core && x.leader == a.leader && x.step.unit % 64 == u
    (gangMembers a.gang).zipIdx.foldl (fun n e => if here e.1 then n + 2 ^ (6 + e.2) else n) a.leader

/-- The word of a quadrant's matrix unit: that of selector 2 of MXSTAT with ACPT 0 (R246, R375). -/
def State.rbMatrix (s : State) (quad : Nat) : Nat :=
  let u := s.mxUnit quad
  u.code + 8 * u.levelAt s.cyc + 65536 * u.hint

/-- A quadrant (kind 0x02). -/
def State.rbQuad (s : State) (agent q cls i : Nat) : RbRead :=
  let w := Store.getOr s.mm.quadAssign q 0
  if q ≥ 768 then noUnit
  else
    match cls, i with
    | 0, 0 => foundN w.toNat
    | 0, 1 => if s.secret agent w then { st := .denied } else foundN (s.rbMatrix q)
    | 0, 2 => if s.secret agent w then { st := .denied } else foundN (s.rbLatch q)
    | 1, _ => if i ≥ 131072 then noItem else if s.secret agent w then { st := .denied } else found (storeWord (Store.getOr s.mm.column q []) (8 * i))
    | _, _ => noItem

/-- An SRAM bank (kind 0x03). -/
def State.rbBank (s : State) (agent b cls i : Nat) : RbRead :=
  let w := Store.getOr s.mm.bankAssign b 0
  if b ≥ 6144 then noUnit
  else
    match cls with
    | 0 => if i = 0 then foundN w.toNat else noItem
    | 1 => if i ≥ 2048 then noItem else if s.secret agent w then { st := .denied } else found (storeWord s.mm.sram (16384 * b + 8 * i))
    | _ => noItem

/-- A holdout as the readback interface shows it. -/
def Holdout.word (h : Holdout) : Nat := h.unit + h.slice * 2 ^ 16 + h.code * 2 ^ 19

/-- A grace controller (kind 0x04). -/
def State.rbGrace (s : State) (part cls i : Nat) : RbRead :=
  let p := s.part part
  if part ≥ 64 then noUnit
  else
    match cls with
    | 0 => foundOr ([p.done, p.demand, p.running.toNat, p.holdouts.length, p.freeHeld][i]?.map word)
    | 1 => foundOr (p.holdouts[i]?.map fun h => word h.word)
    | 2 => foundOr ((p.ready ++ p.frees)[i / 4]?.map fun e =>
        match i % 4 with
        | 0 => e.addr
        | 1 => e.size
        | 2 => word e.stamp
        | _ => word e.ctx)
    | _ => noItem

/-- A device queue (kind 0x05). -/
def State.rbQueue (s : State) (n cls i : Nat) : RbRead :=
  let q := Store.get? s.queues n
  let x : DevQueue := q.getD { ring := 0, log2 := 0 }
  let grantee (k : Nat) : Nat := ((x.grantees[k]?).map fun g => g.ctx + g.push.toNat * 2 ^ 32 + g.pop.toNat * 2 ^ 33 + 2 ^ 34).getD 0
  if n ≥ 4096 then noUnit
  else if cls ≠ 0 then noItem
  else foundOr ([q.isSome.toNat, x.head, x.tail, x.ring, x.log2, grantee 0, grantee 1][i]?.map word)

/-- A registrar (kind 0x06). -/
def State.rbRegistrar (s : State) (part cls i : Nat) : RbRead :=
  let p := s.part part
  if part ≥ 64 then noUnit
  else
    match cls with
    | 0 =>
      if i ≥ folioCount then noItem
      else
        match p.folios.find? fun f => f.num == i with
        | none => foundN 0
        | some f => foundN (f.st + 4 * f.recs.length + 256 * f.handler.getD 0)
    | 1 => if i < 2 then foundN (min 256 (p.unfiled.filter fun r => r.1 == i).length) else noItem
    | _ => noItem

/-- A port (kind 0x07). -/
def State.rbPort (s : State) (n cls i : Nat) : RbRead :=
  if n ≥ 16 then noUnit
  else
    match cls with
    | 0 => foundOr ([(s.port n).status, (s.port n).buffer.length, s.devno][i]?.map word)
    | 1 => if i < 4096 then foundN (Store.getOr s.routes i 0) else noItem
    | 2 => if i < 4096 then found (Store.getOr s.inbound i 0) else noItem
    | _ => noItem

/-- A catalogue unit (kind 0x08); which buckets it caches is a free value. -/
def State.rbCatalogue (s : State) (n cls i : Nat) : RbRead :=
  if n ≥ 16 then noUnit
  else if cls ≠ 0 then noItem
  else
    match i with
    | 0 => found s.freeWord
    | 1 => foundN (s.treqs.filter fun r => r.gallery == n && (r.kind == .tins || r.kind == .tdel || r.kind == .rehash)).length
    | 2 => foundN (s.oldBuckets.filter fun v => v.units.contains n).length
    | _ => noItem

/-- The code of a context's state (R375). -/
def CtxState.code (st : CtxState) : Nat :=
  match st with
  | .created => 0
  | .resident => 1
  | .preempted => 2
  | .sealedImg => 3
  | .checkpointed => 4
  | .migrated => 5
  | .destroyed => 6

/-- A context (kind 0x10): its debug control and its state are its world's; the version entry and the select are the device's (DEDUCED,
log 48). -/
def State.rbContext (s : State) (agent unit cls i : Nat) : RbRead :=
  let own (c : Context) (r : RbRead) : RbRead := if s.denies agent c.part c.world then { st := .denied } else r
  if unit ≠ 0 then noUnit
  else
    match cls, s.ctx? i with
    | 0, some c => own c (foundN c.debugStop.toNat)
    | 1, some c => own c (foundN (c.st.code + 256 * c.busy.toNat))
    | 2, _ => foundOr ((Store.get? s.mgmt.versions i).map word)
    | 3, some _ => found (Config.readbackWord 3 [s.savedSelect, i])
    | _, _ => noItem

/-- A word of a measurement register (R369). -/
def State.measurement (s : State) (reg w : Nat) : Word :=
  match Store.get? s.mgmt.meas reg with
  | some l => l.getD w 0
  | none => Config.bootMeasurement reg w

/-- The effective latency tolerance in µs (R373). -/
def State.tolerance (s : State) : Nat :=
  ((s.mgmt.tolerances.map (·.2)).filter (· != 0)).foldl min s.mgmt.hostTolerance

/-- The management core (kind 0x11); the die temperatures are free values. -/
def State.rbMgmt (s : State) (unit cls i : Nat) : RbRead :=
  if unit ≠ 0 then noUnit
  else
    match cls with
    | 0 => foundOr ((s.errLog.find? fun e => e.seq % 4096 == i / 8).map fun e => word (fieldOf (e.bytes (e.world == 0)) (8 * (i % 8)) 8))
    | 1 => if 1 ≤ i / 8 ∧ i / 8 ≤ 5 then found (s.measurement (i / 8) (i % 8)) else noItem
    | 2 =>
      match i with
      | 0 => foundN s.mgmt.power
      | 1 => foundN s.tolerance
      | 2 => foundN s.mgmt.sealCount
      | _ => if i ≤ 10 then found s.freeWord else noItem
    | _ => noItem

/-! ### Reads and writes (R374) -/

/-- A read of an item. -/
def State.rbRead (s : State) (agent kind unit cls i : Nat) : RbRead :=
  match kind with
  | 0x01 => s.rbGroup agent unit cls i
  | 0x02 => s.rbQuad agent unit cls i
  | 0x03 => s.rbBank agent unit cls i
  | 0x04 => s.rbGrace unit cls i
  | 0x05 => s.rbQueue unit cls i
  | 0x06 => s.rbRegistrar unit cls i
  | 0x07 => s.rbPort unit cls i
  | 0x08 => s.rbCatalogue unit cls i
  | 0x10 => s.rbContext agent unit cls i
  | 0x11 => s.rbMgmt unit cls i
  | 0x12 => s.rbSaved agent unit cls i
  | _ => noUnit

/-- The state after a read: a port's counts are cleared by a read of its status, and free values are used up. -/
def State.afterRead (s : State) (kind unit cls i : Nat) : State :=
  if kind = 0x07 ∧ cls = 0 ∧ i = 0 ∧ unit < 16 then s.setPort unit { s.port unit with replays := 0, retrains := 0 }
  else if kind = 0x08 ∨ kind = 0x11 ∨ (kind = 0x01 ∧ (s.grp unit).byFirmware) then s.useFree 1 else s

/-- A group register written (R375). -/
def Group.rbWrite (g : Group) (cls i : Nat) (v : Word) : Option Group :=
  match cls with
  | 0 =>
    let r := 0x30 + i / 32
    let put : Group := g.writeReg r (Lanes.uniform v) (BitVec.ofNat 32 (2 ^ (i % 32)))
    match g.regState r with
    | .pending _ => none
    | _ => if i / 32 < min 208 g.alloc then some put else none
  | 1 =>
    match g.regState (0x10 + i) with
    | .pending _ => none
    | _ => if i < 32 then some (g.writeReg (0x10 + i) (Lanes.uniform v) (~~~0)) else none
  | 2 =>
    let here : Bool := 0x10 ≤ i && (i < 0x30 || i - 0x30 < min 208 g.alloc)
    if !here then none else if v = 0 then some (g.setRegState i .dead) else if v = 2 then some (g.setRegState i .full) else none
  | 3 => if i < 8 then some { g with preds := Store.set g.preds i (v.setWidth 32) } else none
  | 10 =>
    if i / 1024 < g.acc then
      some { g with tiles := Store.set g.tiles (i / 1024) (Store.set (Store.getOr g.tiles (i / 1024) []) (i % 1024) (v.setWidth 32)) }
    else none
  | _ => none

/-- Whether a group is HALTED or STOPPED. -/
def Group.held (g : Group) : Bool :=
  match g.st with
  | .halted => true
  | .stopped _ => true
  | _ => false

/-- Every STOPPED group of a context released (R39, R123). -/
def State.releaseStopped (s : State) (ctx : Nat) : State :=
  let go (g : Group) : Group :=
    if g.ctx ≠ ctx then g
    else match g.st with
      | .stopped true => { g with st := .active, setSince := s.cyc, xfer := s.stamp }
      | .stopped false => g.toPending s.cyc
      | _ => g
  (s.groups.filter fun g => g.ctx == ctx && g.st == .stopped false).foldl (fun s g => s.wantDrowsy g.unit) { s with groups := s.groups.map go }

/-- A context's debug stop armed or disarmed (R39). -/
def State.armStop (s : State) (ctx : Nat) (arm : Bool) : State := s.modCtx ctx fun c => { c with debugStop := arm }

/-- A write of an item: its outcome and the state after it. -/
def State.rbWrite (s : State) (agent kind unit cls i : Nat) (v : Word) : State × RbStatus :=
  match kind with
  | 0x01 =>
    let g := s.grp unit
    if !s.hasGrp unit then (s, .nounit)
    else if g.world ≠ 0 then (s, .denied)
    else if !g.held || g.byFirmware then (s, .ignored)
    else
      match g.rbWrite cls i v with
      | some g => (s.modGrp unit fun _ => g, .ok)
      | none => (s, .ignored)
  | 0x10 =>
    match unit, cls, s.ctx? i with
    | 0, 0, some c =>
      let t := s.armStop i (v.getLsbD 0)
      if c.world ≠ 0 then (s, .denied) else (if v.getLsbD 1 then t.releaseStopped i else t, .ok)
    | 0, 3, some _ => ({ s with savedSelect := i }, .ok)
    | _, _, _ => (s, if (s.rbRead agent kind unit cls i).st = .denied then .denied else .ignored)
  | _ =>
    let r := s.rbRead agent kind unit cls i
    (s, if r.st = .denied then .denied else .ignored)

/-- An agent's readback registers. -/
def State.rb (s : State) (agent : Nat) : Readback := Store.getOr s.readback agent {}
/-- An agent's readback registers set. -/
def State.setRb (s : State) (agent : Nat) (r : Readback) : State := { s with readback := Store.set s.readback agent r }

/-- The Address register's fields (R374). -/
def Readback.kind (r : Readback) : Nat := bitsOf r.addr.toNat 63 56
def Readback.unit (r : Readback) : Nat := bitsOf r.addr.toNat 55 40
def Readback.cls (r : Readback) : Nat := bitsOf r.addr.toNat 39 32
def Readback.index (r : Readback) : Nat := r.addr.toNat % 2 ^ 32

/-- READBACK_READ (R374). -/
def execReadbackRead (agent : Nat) (s : State) : Res :=
  let r := s.rb agent
  let x := s.rbRead agent r.kind r.unit r.cls r.index
  .next (if agent ≥ 3 then s
    else
      let s := if agent < 2 then s.wakePower else s
      (s.afterRead r.kind r.unit r.cls r.index).setRb agent { r with status := x.st.code, paid := x.paid, data := x.val })

/-- A write of an agent's Data register. -/
def State.writeData (s : State) (agent : Nat) (v : Word) : State :=
  let r := s.rb agent
  if agent ≥ 3 then s
  else
    let s := if agent < 2 then s.wakePower else s
    match s.rbWrite agent r.kind r.unit r.cls r.index v with
    | (s, st) => s.setRb agent { r with status := st.code, paid := 0 }

/-- READBACK_WRITE (R374). -/
def execReadbackWrite (agent : Nat) (value : BitVec 64) (s : State) : Res := .next (s.writeData agent value)

/-- Whether a context's debug control takes writes: that of a confidential world does not (R374). -/
def State.debuggable (s : State) (ctx : Nat) : Bool := ((s.ctx? ctx).map (·.world)).getD 0 == 0

/-- DEBUG_STOP_ARM (R39, R374, R375). -/
def execDebugStopArm (ctx : Nat) (arm : Bool) (s : State) : Res := .next (if s.debuggable ctx then s.armStop ctx arm else s)

/-- DEBUG_RELEASE (R39, R374, R375). -/
def execDebugRelease (ctx : Nat) (s : State) : Res := .next (if s.debuggable ctx then s.releaseStopped ctx else s)

end Sys2Proof.Machine
end

