-- ==== Sys2Proof/Machine/Manage.lean ====
section
/-!
DEFINITION. Manage.lean: assignment words (R82, R84), register writes (R4), firmware (R368 to R370), soft errors (R371), power
(R373), device reset and power (R80, R87, R165), and the SPDM responder (R369).
-/
namespace Sys2Proof.Machine

/-! ### Assignment words (R82 to R84) -/

/-- An assignment word as it takes a written value: CONF, which is read-only, follows WORLD (R82). -/
def assignWord (v : Word32) : Word32 :=
  let w := v &&& 0x00FF03F1
  if bitsOf w.toNat 23 16 = 0 then w else w ||| 8

/-- Whether a unit is zeroed before its word takes a new value: PART or WORLD changes, or VALID is set (R84). -/
def needsZeroing (old new : Word32) : Bool :=
  bitsOf old.toNat 23 16 != bitsOf new.toNat 23 16 || bitsOf old.toNat 9 4 != bitsOf new.toNat 9 4 || (new.getLsbD 0 && !old.getLsbD 0)

/-- A quadrant's column store, registers and accumulator store zeroed (R84). -/
def State.zeroQuad (s : State) (q : Nat) : State :=
  let wipe (g : Group) : Group :=
    if g.quadrant = q then { g with gregs := g.gregs.map fun (e : Nat × GReg) => (e.1, { e.2 with val := [] })
                                    sregs := g.sregs.map fun (e : Nat × SReg) => (e.1, { e.2 with val := 0 }), tiles := [] }
    else g
  { s with mm := { s.mm with column := Store.del s.mm.column q }, groups := s.groups.map wipe }

/-- A bank's bytes zeroed. -/
def State.zeroBank (s : State) (b : Nat) : State :=
  { s with mm := { s.mm with sram := s.mm.sram.filter fun e => e.1 / 16384 != b } }

/-- A quadrant's word in effect: a curator group of the quadrant belongs to the partition and world that it names from now on, and its slices
count there (R82, R274, R366, R368); the change is measured (R369). -/
def State.setQuad (s : State) (q : Nat) (w : Word32) : State :=
  let follow (g : Group) : Group :=
    if g.kind = .curator ∧ g.quadrant = q then { g with part := bitsOf w.toNat 9 4, world := bitsOf w.toNat 23 16 } else g
  State.sweep <| State.measure
    { s with groups := s.groups.map follow
             mm := { s.mm with quadAssign := Store.set s.mm.quadAssign q w, quadNext := Store.del s.mm.quadNext q } } 4

/-- A bank's or quadrant's word set, after its zeroing where it needs one; the change is measured (R369). -/
def State.assign (s : State) (bank : Bool) (u : Nat) (v : Word32) : State :=
  let new := assignWord v
  let old := Store.getOr (if bank then s.mm.bankAssign else s.mm.quadAssign) u 0
  if setsReserved v.toNat [(31, 24), (15, 10), (2, 1)] then s
  else if bank then
    if u ≥ 6144 then s
    else if needsZeroing old new then
      let s := s.zeroBank u
      { s with mm := { s.mm with bankNext := Store.set s.mm.bankNext u new, bankBusy := Store.set s.mm.bankBusy u (s.cyc + 256) } }.schedule 256
        (.zeroingComplete true u)
    else { s with mm := { s.mm with bankAssign := Store.set s.mm.bankAssign u new, bankNext := Store.del s.mm.bankNext u } }.measure 4
  else
    if u ≥ 768 then s
    else if needsZeroing old new then
      let s := s.zeroQuad u
      { s with mm := { s.mm with quadNext := Store.set s.mm.quadNext u new, quadBusy := Store.set s.mm.quadBusy u (s.cyc + 4096) } }.schedule 4096
        (.zeroingComplete false u)
    else s.setQuad u new

/-- ASSIGNMENT_WORD_WRITE (R82, R84). -/
def execAssignmentWordWrite (bank : Bool) (unit : Nat) (value : BitVec 32) (s : State) : Res := .next (s.wakePower.assign bank unit value)

/-- ZEROING_COMPLETE (R84): the new word, if one waits, takes effect, and waiting kernels are offered the room. -/
def execZeroingComplete (bank : Bool) (unit : Nat) (s : State) : Res :=
  if bank then
    if Store.getOr s.mm.bankBusy unit 0 > s.cyc then .next s
    else
      let s := { s with mm := { s.mm with bankBusy := Store.del s.mm.bankBusy unit } }
      .next (match Store.get? s.mm.bankNext unit with
        | some w => { s with mm := { s.mm with bankAssign := Store.set s.mm.bankAssign unit w, bankNext := Store.del s.mm.bankNext unit } }.measure 4
        | none => s).offerRoom
  else if Store.getOr s.mm.quadBusy unit 0 > s.cyc then .next s
  else
    let s := { s with mm := { s.mm with quadBusy := Store.del s.mm.quadBusy unit } }
    .next (match Store.get? s.mm.quadNext unit with
      | some w => s.setQuad unit w
      | none => s).offerRoom

/-! ### Register writes (R4, R5) -/

/-- LATENCY_TOLERANCE_WRITE (R373). -/
def State.setTolerance (s : State) (v : Nat) : State := { s with mgmt := { s.mgmt with hostTolerance := v % 2 ^ 32 } }.wakePower.wantPower

/-- LATENCY_TOLERANCE_WRITE (R373). -/
def execLatencyToleranceWrite (value : BitVec 32) (s : State) : Res := .next (s.setTolerance value.toNat)

/-- A write of the physical function to its BAR0: a queue interface's control or ring register, a remapping entry, or a register of
its own behaviour; anything else, HEAD and TAIL among it, ignores the write. The remapping table hides the blocks of interfaces 6,144
and above (log 18). -/
def State.writeBar0 (s : State) (off : Nat) (v : Word) : State :=
  let qi := (off - 0x10000) / 32
  if off = 0x100 then
    s.revokePasid v.toNat
  else if off = 0x200 then s.setTolerance v.toNat
  else if 0x40000 ≤ off ∧ off < 0x50000 then
    if off % 8 = 0 ∧ !setsReserved v.toNat [(63, 32), (20, 11)] then { s with irtes := Store.set s.irtes ((off - 0x40000) / 8) v } else s
  else if 0x10000 ≤ off ∧ off < 0x40000 then
    match off % 32 with
    | 0 => s.writeCtl qi v.toNat
    | 8 => if s.qiLocked qi || (s.qi qi).en then s else s.setQi qi { s.qi qi with ring := v }
    | _ => s
  else s

/-- REGISTER_WRITE (R4): the host 0, the management core 1 and a curator 2 each have their own readback Address register; the other
registers are the physical function's. -/
def execRegisterWrite (agent offset : Nat) (value : BitVec 64) (s : State) : Res :=
  .next (if agent ≥ 3 then s
    else if offset = 0x300 then (if agent < 2 then s.wakePower else s).setRb agent { s.rb agent with addr := value }
    else if offset = 0x308 then s.writeData agent value
    else if agent = 0 then s.wakePower.writeBar0 offset value else s)

/-! ### Curator firmware (R368 to R370) -/

/-- The groups of the curator slots replaced, each pending with its look at 4,096 clk (R71). -/
def State.seatCurators (s : State) (gs : List Group) : State :=
  let out (g : Group) : Bool := gs.any fun x => x.unit == g.unit
  gs.foldl (fun s g => s.wantDrowsy g.unit)
    { s with groups := s.groups.filter (fun (g : Group) => !out g) ++ gs, stamp := s.stamp + coreCount }

/-- An image loaded into every curator slot (R369). -/
def State.loadImage (s : State) (version accept : Nat) : State :=
  let pc := s.freeWord &&& ~~~31
  let gs := (List.range coreCount).map fun c => curatorGroup s c pc version
  let s := (s.useFree 1).seatCurators gs
  State.sweep <| State.measure
    { s with mgmt := { s.mgmt with booted := true, shipped := false, fwVersion := version, fwAccept := accept, pending := none, switched := [] } } 3

/-- The shipped firmware replaced: what it has not taken and the new image does not accept is answered RETRY (R370). -/
def State.replaceShipped (s : State) (version accept : Nat) : State :=
  let s := (List.range coreCount).foldl (fun s core =>
    (s.unserved core).foldl (fun s m => if accept.testBit m.version then s else s.replyMail core m.index 2) s) s
  s.loadImage version accept

/-- The header of a curator image accepted, with its version and accepted set (R369). -/
def State.imageHeader? (s : State) (addr : Nat) : Option (Nat × Nat) :=
  let pa := hostPa addr
  let h := s.mm.bytes pa 80
  let body := s.mm.bytes (pa + 80) (fieldOf h 0x0C 4)
  if fieldOf h 0 4 = 0x4B594657 ∧ fieldOf h 4 1 = 2 ∧ fieldOf h 6 2 = 0 ∧ Config.minimumVersion 2 ≤ fieldOf h 8 4 ∧
      Config.signatureOk (h ++ body) then some (fieldOf h 8 4, fieldOf h 5 1) else none

/-- CURATOR_IMAGE_HANDOFF (R370): an image that fails R369 changes nothing; one that passes is loaded where no curator runs, and is
taken over by each curator at its next MBXGET otherwise. A management core whose own image has failed takes none (log 74). -/
def execCuratorImageHandoff (addr : BitVec 64) (s : State) : Res :=
  let s := s.wakePower
  .next (if s.mgmt.failures.contains 1 then s
    else match s.imageHeader? addr.toNat with
    | none => s
    | some (v, acc) =>
      if !s.mgmt.booted then s.loadImage v acc
      else if s.mgmt.shipped then s.replaceShipped v acc
      else { s with mgmt := { s.mgmt with pending := some (v, acc), switched := [] } })

/-- The curator group of the shipped firmware put back on a core; it serves what waits in its mailbox (R368). -/
def State.reloadShipped (s : State) (core : Nat) : State :=
  let w := (Store.getOr s.mm.quadAssign (4 * core + 3) 0).toNat
  let g : Group := { firmwareGroup s.stamp s.cyc s.mgmt.fwVersion core with part := bitsOf w 9 4, world := bitsOf w 23 16 }
  let s := { s with groups := s.groups.filter (fun (x : Group) => x.unit != g.unit) ++ [g], stamp := s.stamp + coreCount }
  s.sweep.serveQueue core

/-- CURATOR_RELOAD (R368): the curator of a core restarts from its image; its mailbox stands. -/
def execCuratorReload (core : Nat) (s : State) : Res :=
  .next (if !s.mgmt.booted || core ≥ coreCount then s
    else if s.mgmt.shipped then s.reloadShipped core
    else ((s.useFree 1).seatCurators [curatorGroup s core (s.freeWord &&& ~~~31) s.mgmt.fwVersion]).sweep)

/-! ### Soft errors (R371) -/

/-- Partition and world of the unit that an error record names. -/
def State.unitOwner (s : State) (kind u : Nat) : Nat × Nat :=
  let w : Nat := match kind with
    | 2 => (Store.getOr s.mm.quadAssign u 0).toNat
    | 3 => (Store.getOr s.mm.bankAssign u 0).toNat
    | _ => 0
  if kind = 1 then ((s.grp u).part, (s.grp u).world) else (bitsOf w 9 4, bitsOf w 23 16)

/-- A device event entered in the error log. -/
def State.logDevice (s : State) (event kind u : Nat) (addr : Word) : State :=
  let o := s.unitOwner kind u
  s.logError { cause := deviceCause event, kind := kind % 256, unit := u % 65536, part := o.1, world := o.2, cyc := 0, seq := 0, addr := addr.toNat }

/-- SOFT_ERROR_CORRECTED (R371). -/
def execSoftErrorCorrected (kind unit : Nat) (addr : BitVec 64) (s : State) : Res := .next (s.logDevice 1 kind unit addr)

/-- SOFTERR (R371): the group halts and an entry of code 0x1F is posted; while the core's mailbox is full the posting waits. -/
def execSofterr (unit : Nat) (location : BitVec 64) (s : State) : Res :=
  let g := s.grp unit
  .next (if !s.hasGrp unit then s
    else
      let s := s.modGrp unit fun g => { g with st := .halted, soft := .raised }
      if (s.mailbox g.core).length ≥ 16 then s.schedule 64 (.softerr unit location)
      else
        let m : Mail := { index := 0, words := mailWords g 0x1F [word unit, location, 0, 0, 0, 0], code := 0x1F, unit := unit, serial := g.serial }
        s.request g.core m)

/-- UNCORRECTABLE_SHARED (R371): the error is logged, and the RESIDENT contexts of the partitions concerned are pre-empted. -/
def execUncorrectableShared (kind unit : Nat) (addr : BitVec 64) (parts : List Nat) (s : State) : Res :=
  let s := s.logDevice 2 kind unit addr
  let hit := s.ctxs.filter fun c => parts.contains c.part && c.st == .resident && !c.saving
  .next (hit.foldl (fun s c =>
    ((s.haltCtx c.id 0).modCtx c.id fun c => { c with packet := none }).schedule 896 (.contextSaveComplete c.id)) s)

/-! ### Power states (R373) -/

/-- Whether nothing runs: no group is ready and no access is outstanding. -/
def State.quiet (s : State) : Bool :=
  s.mm.flights.isEmpty && s.mm.stores.isEmpty && s.ops.isEmpty && s.groups.all fun g => !s.ready g

/-- Whether a power state's condition holds; that of PS1 needs 10,000 clk, between two looks, without an issue or access. -/
def State.powerHolds (s : State) (n : Nat) : Bool :=
  match n with
  | 0 => true
  | 1 => s.quiet && (s.mgmt.power == 1 || s.mgmt.idleStamp == some s.stamp)
  | _ => s.ctxs.all fun c => c.st != .resident

/-- Whether the effective tolerance admits a power state. -/
def State.powerAllowed (s : State) (n : Nat) : Bool := s.tolerance == 0xFFFFFFFF || exitLatency n ≤ 2000 * s.tolerance

/-- The lowest power state that may be entered: the greatest number whose condition holds and whose latency is tolerated. -/
def State.lowestPower (s : State) : Nat :=
  if s.tolerance = 0 then 0 else ([3, 2, 1].find? fun n => s.powerAllowed n && s.powerHolds n).getD 0

/-- POWER_STATE_ENTRY (R373): looked at again every 10,000 clk while a latency is tolerated; a state whose condition or tolerance no
longer holds is left. -/
def execPowerStateEntry (s : State) : Res :=
  let n := s.lowestPower
  let p := s.mgmt.power
  let s := if n > p then { s with mgmt := { s.mgmt with power := n, powerSince := s.cyc } }
    else if p ≠ 0 ∧ !(s.powerAllowed p && s.powerHolds p && s.tolerance != 0) then s.wakePower else s
  let s := { s with mgmt := { s.mgmt with idleStamp := if s.quiet then some s.stamp else none } }
  .next (if s.tolerance ≠ 0 ∨ s.mgmt.power ≠ 0 then s.wantPower else s)

/-- POWER_STATE_EXIT (R373): back in PS0; from PS2 and PS3 %cyc is what the reference timer gives. -/
def execPowerStateExit (elapsed : Nat) (s : State) : Res :=
  let cyc := if s.mgmt.power ≥ 2 then max s.cyc (s.mgmt.powerSince + elapsed) else s.cyc
  .next { s with cyc := cyc, mgmt := { s.mgmt with power := 0, powerSince := cyc, idleStamp := none } }.wantPower

/-! ### Reset and power (R12, R80, R87, R165) -/

/-- Whether an agenda entry is an input from outside, which a reset leaves due. -/
def isInput (i : Instr) : Bool :=
  match i with
  | .curatorImageHandoff _ | .softErrorCorrected .. | .uncorrectableShared .. | .qiEnable .. | .qiDisable _ | .notify .. | .pasidRevoke _
  | .tdispError _ | .latencyToleranceWrite _ | .readbackRead _ | .readbackWrite .. | .debugStopArm .. | .debugRelease _ | .deviceNumberWrite _
  | .assignmentWordWrite .. | .registerWrite .. | .portEnable _ | .portDisable _ | .lanesTrained .. | .flitReceived .. | .peerRequestServe ..
  | .getMeasurements _ | .challenge _ | .keyExchange _ | .tdispStateChange .. | .routeTableWrite .. | .msixVectorUnmask .. | .ringReadError _
  | .powerRemoval | .deviceReset | .powerOn => true
  | _ => false

/-- A context as a reset leaves it: SEALED if it has a version entry (R80). -/
def State.ctxAfterReset (s : State) (c : Context) : Option Context :=
  if (Store.get? s.mgmt.versions c.id).isSome then
    some { id := c.id, part := c.part, world := c.world, region := c.region, pasid := c.pasid, space := c.space, st := .sealedImg, lost := true }
  else none

/-- What the ROM finds at a boot: whether the image of a kind, 1 management and 2 curator, passes R369, which is a free choice, since the
images that it reads are no part of the model (log 74). A failed management image leaves the device in PS3. A failed curator image leaves
every curator slot empty, and is reported in the error log. -/
def State.verified (s : State) : State :=
  let bad (kind power : Nat) : State :=
    { s.useFree 2 with groups := [], mgmt := { s.mgmt with booted := false, shipped := false, power := power, failures := [kind] } }
  if !s.freeBit then bad 1 3
  else if !(s.useFree 1).freeBit then (bad 2 0).logDevice 3 (deviceKind 3) 0 0 else s.useFree 2

/-- The device after reset with memory as it stands: the seal counter, the version entries and their contexts survive (R87), the images
are verified and the shipped firmware boots (R369), and what lies outside the device, images and inputs still due, is untouched. -/
def State.rebooted (s : State) (cells : List Host.Cell) : State :=
  let later (d : Due) : Due := { d with clk := d.clk - s.cyc }
  State.verified
    { State.reset with
      free := s.free, stamp := s.stamp + coreCount, groups := firmwareGroups s.stamp 0 0
      agenda := (s.agenda.filter fun d => isInput d.ev).map later, mm := { cells := cells }
      ctxs := s.ctxs.filterMap s.ctxAfterReset, images := s.images, messages := s.messages
      mgmt := { State.reset.mgmt with sealCount := s.mgmt.sealCount, versions := s.mgmt.versions } }

/-- DEVICE_RESET (R80, R165): HBM is left as it stood. -/
def execDeviceReset (s : State) : Res := .next (s.rebooted s.mm.cells)

/-- Memory outside the device: that of the host and of peers. -/
def outsideCells (cells : List Host.Cell) : List Host.Cell := cells.filter fun c => hostBase ≤ c.1

/-- POWER_ON (R165): every byte of HBM is zero. -/
def execPowerOn (s : State) : Res := .next (s.rebooted (outsideCells s.mm.cells))

/-- POWER_REMOVAL (R87). -/
def execPowerRemoval (s : State) : Res := .next { s.rebooted (outsideCells s.mm.cells) with powered := false }

/-! ### The SPDM responder (R86, R369) -/

/-- The answer to the last request. -/
def State.answerSpdm (s : State) (l : List Word) : State := { s with mgmt := { s.mgmt with spdm := l } }

/-- GET_MEASUREMENTS (R369): registers 1 to 5. -/
def execGetMeasurements (index : Nat) (s : State) : Res :=
  .next (s.wakePower.answerSpdm (if 1 ≤ index ∧ index ≤ 5 then (List.range 8).map fun w => s.measurement index w else []))

/-- CHALLENGE (R369): the nonce with a signature under the device key, which is a free value. -/
def execChallenge (nonce : BitVec 256) (s : State) : Res :=
  let n := (List.range 4).map fun i => word (nonce.toNat / 2 ^ (64 * i) % 2 ^ 64)
  let sig := (List.range 8).map fun i => Config.freeValue (s.free + i)
  .next ((s.useFree 8).wakePower.answerSpdm (n ++ sig))

/-- KEY_EXCHANGE (R86, R369): a session with a peer, whose migration key is used once. -/
def execKeyExchange (peer : Nat) (s : State) : Res :=
  .next (({ s with mgmt := { s.mgmt with sessions := s.mgmt.sessions ++ [peer] } }.wakePower.answerSpdm [s.freeWord]).useFree 1)

end Sys2Proof.Machine
end

