-- ==== Sys2Proof/Machine/Register.lean ====
section
/-!
DEFINITION. Register.lean: register-management instructions (R73, R74, R76 to R79).
-/
namespace Sys2Proof.Machine

/-- The mode register of every slice of the issuing path that has a run lane (R73). -/
def State.setModes (s : State) (f : Word32 → Word32) : State :=
  s.modG fun g => g.modPathSlices s.cur.path fun x => if x.run = 0 then x else { x with mode := f x.mode }

/-- The entry of MODE: its operands, marks and conditions. -/
def infoMode (a : Opnd) : Info :=
  { opcode := 0x0C, a := some { op := a, lit := .u32 }, legal := (Instr.mode a).wf }

/-- MODE (R77, R78). -/
def execMode (a : Opnd) (s : State) : Res :=
  run (infoMode a) s fun o t =>
    let v : Word32 := (o.a.at 0).setWidth 32
    if modeLegal v then (t.setModes fun _ => v).done o else o.trap 0x09

/-- Low bit and width of a mode field by MODEF's index (R73, R77). -/
def modeField (i : Nat) : Nat × Nat :=
  match i with
  | 0 => (0, 3)
  | 1 => (3, 1)
  | 2 => (4, 1)
  | 3 => (5, 5)
  | 4 => (10, 3)
  | 5 => (13, 3)
  | 6 => (16, 1)
  | 7 => (17, 1)
  | 8 => (18, 1)
  | 9 => (19, 1)
  | 10 => (20, 4)
  | _ => (24, 3)

/-- A mode value with one field replaced. -/
def setModeField (m : Word32) (lo w v : Nat) : Word32 :=
  BitVec.ofNat 32 (m.toNat - bitsOf m.toNat (lo + w - 1) lo * 2 ^ lo + v * 2 ^ lo)

/-- The entry of MODEF: its operands, marks and conditions. -/
def infoModef (a : Opnd) (i : BitVec 8) : Info :=
  { opcode := 0x0D, a := some { op := a, lit := .u32 }, legal := (Instr.modef a i).wf }

/-- MODEF (R77, R78): the value must fit the field and be one that R73 allows. -/
def execModef (a : Opnd) (i : BitVec 8) (s : State) : Res :=
  run (infoModef a i) s fun o t =>
    let f := modeField i.toNat
    let v := (o.a.at 0).toNat
    if v < 2 ^ f.2 ∧ modeLegal (setModeField 0 f.1 f.2 v) then (t.setModes fun m => setModeField m f.1 f.2 v).done o
    else o.trap 0x09

/-- The entry of MOV: its operands, marks and conditions. -/
def infoMov (d a : Opnd) : Info :=
  { opcode := 0x70, a := some { op := a, lit := .ty .i64 }, dst := some d, legal := (Instr.mov d a).wf }

/-- MOV (R78). -/
def execMov (d a : Opnd) (s : State) : Res :=
  run (infoMov d a) s fun o t =>
    t.finish o d o.a o.act

/-- The entry of MOVU: its operands, marks and conditions. -/
def infoMovu (d a : Opnd) : Info :=
  { opcode := 0x71, a := some { op := a, lit := .ty .i64 }, dst := some d, legal := (Instr.movu d a).wf }

/-- MOVU: as MOV, without the push (R78). -/
def execMovu (d a : Opnd) (s : State) : Res :=
  run (infoMovu d a) s fun o t =>
    (t.modG fun g => g.writeOpnd d o.a o.act).done o

/-- The entry of an instruction on the state of the register that field A names. -/
def stateInfo (i : Instr) (opcode : Nat) (a : Opnd) : Info :=
  { opcode := opcode, a := some { op := a }, noCheckA := true, markA := false, legal := i.wf }

/-- An instruction on the state of the register that field A names. -/
def stateOp (i : Instr) (opcode : Nat) (a : Opnd) (f : RegState → RegState) (s : State) : Res :=
  run (stateInfo i opcode a) s fun o t =>
    (t.modG fun g =>
      match a.reg? with
      | some r => g.setRegState r (f (g.regState r))
      | none => g).done o

/-- KILL (R69, R78). -/
def execKill (a : Opnd) (s : State) : Res := stateOp (.kill a) 0x72 a (fun _ => .dead) s

/-- SETE (R69, R78). -/
def execSete (a : Opnd) (s : State) : Res :=
  stateOp (.sete a) 0x73 a (fun st => if st.isEmpty then st else .opened) s

/-- The entry of SETF: its operands, marks and conditions. -/
def infoSetf (a : Opnd) (s : State) : Info :=
  { opcode := 0x74, a := some { op := a }, deadOkA := true, blocking := true
    legal := (Instr.setf a).wf && !markOf s.cur.ctl 1 }

/-- SETF waits while its register is EMPTY, and makes a DEAD one FULL (R69, R78). -/
def execSetf (a : Opnd) (s : State) : Res :=
  run (infoSetf a s) s fun o t =>
    (t.modG fun g =>
      match a.reg? with
      | some r => if g.regState r = .dead then g.setRegState r .full else g
      | none => g).done o

/-- The code of a register state (R78). -/
def RegState.code (st : RegState) : Nat :=
  match st with
  | .dead => 0
  | .full => 2
  | _ => 1

/-- The entry of TESTF: its operands, marks and conditions. -/
def infoTestf (d a : Opnd) : Info :=
  { opcode := 0x75, a := some { op := a }, noCheckA := true, markA := false, dst := some d, legal := (Instr.testf d a).wf }

/-- TESTF (R78). -/
def execTestf (d a : Opnd) (s : State) : Res :=
  run (infoTestf d a) s fun o t =>
    t.finish o d (Lanes.uniform (word ((a.reg?.map fun r => (o.orig.g.regState r).code).getD 0))) o.act

/-- The entry of CINV: its operands, marks and conditions. -/
def infoCinv (a : Opnd) : Info :=
  { opcode := 0x76, legal := (Instr.cinv a).wf }

/-- CINV (R66, R78). -/
def execCinv (a : Opnd) (s : State) : Res :=
  run (infoCinv a) s fun o t =>
    (t.modG fun g =>
      match a with
      | .cache n => { g with cacheValid := Store.set g.cacheValid n 0 }
      | _ => g.clearCache).done o

/-- Whether a shape record may be written (R74). -/
def shapeLegal (w : Word) : Bool := bitsOf w.toNat 63 62 == 0 && bitsOf w.toNat 61 60 != 3

/-- The entry of SHAPE: its operands, marks and conditions. -/
def infoShape (h : Fin 8) (a : Opnd) : Info :=
  { opcode := 0x77, a := some { op := a, lit := .ty .i64 }, legal := (Instr.shape h a).wf }

/-- SHAPE (R74, R78). -/
def execShape (h : Fin 8) (a : Opnd) (s : State) : Res :=
  run (infoShape h a) s fun o t =>
    if shapeLegal (o.a.at 0) then (t.modG fun g => { g with shapes := Store.set g.shapes h (o.a.at 0) }).done o
    else o.trap 0x09

/-- The entry of SHAPEQ: its operands, marks and conditions. -/
def infoShapeq (d : Opnd) (h : Fin 8) : Info :=
  { opcode := 0x78, dst := some d, legal := (Instr.shapeq d h).wf }

/-- SHAPEQ (R78). -/
def execShapeq (d : Opnd) (h : Fin 8) (s : State) : Res :=
  run (infoShapeq d h) s fun o t =>
    t.finish o d (Lanes.uniform (Store.getOr o.orig.g.shapes h 0)) o.act

end Sys2Proof.Machine
end

