-- ==== Sys2Proof/Machine/Dispatch.lean ====
section
/-!
DEFINITION. Dispatch.lean: one arm per constructor of Instr.
-/
namespace Sys2Proof.Machine

/-- The effect of an instruction or event. -/
def exec (i : Instr) (s : State) : Host.Outcome State Fault Refusal :=
  match i with
  | .bra d => Sys2Proof.Machine.execBra d s
  | .br n p d => Sys2Proof.Machine.execBr n p d s
  | .brx a => Sys2Proof.Machine.execBrx a s
  | .call d => Sys2Proof.Machine.execCall d s
  | .callx d a => Sys2Proof.Machine.execCallx d a s
  | .retx a => Sys2Proof.Machine.execRetx a s
  | .rcvp d => Sys2Proof.Machine.execRcvp d s
  | .mode a => Sys2Proof.Machine.execMode a s
  | .modef a i1 => Sys2Proof.Machine.execModef a i1 s
  | .trap d a c => Sys2Proof.Machine.execTrap d a c s
  | .sleep a => Sys2Proof.Machine.execSleep a s
  | .svc d a i1 => Sys2Proof.Machine.execSvc d a i1 s
  | .uintr d a b => Sys2Proof.Machine.execUintr d a b s
  | .hret a => Sys2Proof.Machine.execHret a s
  | .xrd d a b => Sys2Proof.Machine.execXrd d a b s
  | .xwr a b => Sys2Proof.Machine.execXwr a b s
  | .rdsr d s1 => Sys2Proof.Machine.execRdsr d s1 s
  | .wrsr a s1 => Sys2Proof.Machine.execWrsr a s1 s
  | .iadd d a b => Sys2Proof.Machine.execIadd d a b s
  | .isub d a b => Sys2Proof.Machine.execIsub d a b s
  | .imul d a b => Sys2Proof.Machine.execImul d a b s
  | .imulh d a b => Sys2Proof.Machine.execImulh d a b s
  | .imad d a b => Sys2Proof.Machine.execImad d a b s
  | .idiv d a b => Sys2Proof.Machine.execIdiv d a b s
  | .irem d a b => Sys2Proof.Machine.execIrem d a b s
  | .imin d a b => Sys2Proof.Machine.execImin d a b s
  | .imax d a b => Sys2Proof.Machine.execImax d a b s
  | .iabs d a => Sys2Proof.Machine.execIabs d a s
  | .ineg d a => Sys2Proof.Machine.execIneg d a s
  | .icmp c p a b => Sys2Proof.Machine.execIcmp c p a b s
  | .lea d a b => Sys2Proof.Machine.execLea d a b s
  | .imulw d a b => Sys2Proof.Machine.execImulw d a b s
  | .and d a b => Sys2Proof.Machine.execAnd d a b s
  | .or d a b => Sys2Proof.Machine.execOr d a b s
  | .xor d a b => Sys2Proof.Machine.execXor d a b s
  | .andn d a b => Sys2Proof.Machine.execAndn d a b s
  | .not d a => Sys2Proof.Machine.execNot d a s
  | .shl d a b => Sys2Proof.Machine.execShl d a b s
  | .shr d a b => Sys2Proof.Machine.execShr d a b s
  | .sar d a b => Sys2Proof.Machine.execSar d a b s
  | .rotl d a b => Sys2Proof.Machine.execRotl d a b s
  | .popc d a => Sys2Proof.Machine.execPopc d a s
  | .clz d a => Sys2Proof.Machine.execClz d a s
  | .ctz d a => Sys2Proof.Machine.execCtz d a s
  | .brev d a => Sys2Proof.Machine.execBrev d a s
  | .bfx d a b => Sys2Proof.Machine.execBfx d a b s
  | .bfi d a b => Sys2Proof.Machine.execBfi d a b s
  | .sel d a b => Sys2Proof.Machine.execSel d a b s
  | .fadd d a b => Sys2Proof.Machine.execFadd d a b s
  | .fsub d a b => Sys2Proof.Machine.execFsub d a b s
  | .fmul d a b => Sys2Proof.Machine.execFmul d a b s
  | .ffma d a b => Sys2Proof.Machine.execFfma d a b s
  | .ffms d a b => Sys2Proof.Machine.execFfms d a b s
  | .fmin d a b => Sys2Proof.Machine.execFmin d a b s
  | .fmax d a b => Sys2Proof.Machine.execFmax d a b s
  | .fabs d a => Sys2Proof.Machine.execFabs d a s
  | .fneg d a => Sys2Proof.Machine.execFneg d a s
  | .fdiv d a b => Sys2Proof.Machine.execFdiv d a b s
  | .fsqrt d a => Sys2Proof.Machine.execFsqrt d a s
  | .frcp d a => Sys2Proof.Machine.execFrcp d a s
  | .frsq d a => Sys2Proof.Machine.execFrsq d a s
  | .fexp2 d a => Sys2Proof.Machine.execFexp2 d a s
  | .flog2 d a => Sys2Proof.Machine.execFlog2 d a s
  | .fcmp c p a b => Sys2Proof.Machine.execFcmp c p a b s
  | .fclass d a => Sys2Proof.Machine.execFclass d a s
  | .frnd d a i1 => Sys2Proof.Machine.execFrnd d a i1 s
  | .fscale d a b => Sys2Proof.Machine.execFscale d a b s
  | .cvt d a t => Sys2Proof.Machine.execCvt d a t s
  | .cvts d a b => Sys2Proof.Machine.execCvts d a b s
  | .ladd d a b => Sys2Proof.Machine.execLadd d a b s
  | .lmul d a b => Sys2Proof.Machine.execLmul d a b s
  | .fdot2 d a b => Sys2Proof.Machine.execFdot2 d a b s
  | .shfl d a b => Sys2Proof.Machine.execShfl d a b s
  | .shflu d a n => Sys2Proof.Machine.execShflu d a n s
  | .shfld d a n => Sys2Proof.Machine.execShfld d a n s
  | .shflx d a n => Sys2Proof.Machine.execShflx d a n s
  | .vote k p n q => Sys2Proof.Machine.execVote k p n q s
  | .ballot d n q => Sys2Proof.Machine.execBallot d n q s
  | .matchL d a => Sys2Proof.Machine.execMatchL d a s
  | .rdlane d a b => Sys2Proof.Machine.execRdlane d a b s
  | .wrlane d a b => Sys2Proof.Machine.execWrlane d a b s
  | .pand p n q m r => Sys2Proof.Machine.execPand p n q m r s
  | .por p n q m r => Sys2Proof.Machine.execPor p n q m r s
  | .pxor p n q m r => Sys2Proof.Machine.execPxor p n q m r s
  | .pnot p n q => Sys2Proof.Machine.execPnot p n q s
  | .pmov p a => Sys2Proof.Machine.execPmov p a s
  | .pset p a i1 => Sys2Proof.Machine.execPset p a i1 s
  | .mov d a => Sys2Proof.Machine.execMov d a s
  | .movu d a => Sys2Proof.Machine.execMovu d a s
  | .kill a => Sys2Proof.Machine.execKill a s
  | .sete a => Sys2Proof.Machine.execSete a s
  | .setf a => Sys2Proof.Machine.execSetf a s
  | .testf d a => Sys2Proof.Machine.execTestf d a s
  | .cinv a => Sys2Proof.Machine.execCinv a s
  | .shape h a => Sys2Proof.Machine.execShape h a s
  | .shapeq d h => Sys2Proof.Machine.execShapeq d h s
  | .fslot d f => Sys2Proof.Machine.execFslot d f s
  | .ld d a b => Sys2Proof.Machine.execLd d a b s
  | .st d a b => Sys2Proof.Machine.execSt d a b s
  | .ldx d a b => Sys2Proof.Machine.execLdx d a b s
  | .stx d a b => Sys2Proof.Machine.execStx d a b s
  | .lda d a b => Sys2Proof.Machine.execLda d a b s
  | .stl d a b => Sys2Proof.Machine.execStl d a b s
  | .ldp d a b => Sys2Proof.Machine.execLdp d a b s
  | .stp d a b => Sys2Proof.Machine.execStp d a b s
  | .ldc d a b => Sys2Proof.Machine.execLdc d a b s
  | .pf a b => Sys2Proof.Machine.execPf a b s
  | .cctl a o => Sys2Proof.Machine.execCctl a o s
  | .aadd d a b => Sys2Proof.Machine.execAadd d a b s
  | .afadd d a b => Sys2Proof.Machine.execAfadd d a b s
  | .amin d a b => Sys2Proof.Machine.execAmin d a b s
  | .amax d a b => Sys2Proof.Machine.execAmax d a b s
  | .aand d a b => Sys2Proof.Machine.execAand d a b s
  | .aor d a b => Sys2Proof.Machine.execAor d a b s
  | .axor d a b => Sys2Proof.Machine.execAxor d a b s
  | .axch d a b => Sys2Proof.Machine.execAxch d a b s
  | .acas d a b => Sys2Proof.Machine.execAcas d a b s
  | .redadd a b => Sys2Proof.Machine.execRedadd a b s
  | .redfadd a b => Sys2Proof.Machine.execRedfadd a b s
  | .redmin a b => Sys2Proof.Machine.execRedmin a b s
  | .redmax a b => Sys2Proof.Machine.execRedmax a b s
  | .cpy d a b => Sys2Proof.Machine.execCpy d a b s
  | .cpy2 d a b => Sys2Proof.Machine.execCpy2 d a b s
  | .gthr d a b => Sys2Proof.Machine.execGthr d a b s
  | .sctr d a b => Sys2Proof.Machine.execSctr d a b s
  | .waitc a c => Sys2Proof.Machine.execWaitc a c s
  | .rdcnt d c => Sys2Proof.Machine.execRdcnt d c s
  | .htest d a => Sys2Proof.Machine.execHtest d a s
  | .hcanc d a => Sys2Proof.Machine.execHcanc d a s
  | .hprom d a => Sys2Proof.Machine.execHprom d a s
  | .hstat d a => Sys2Proof.Machine.execHstat d a s
  | .coll d a o k => Sys2Proof.Machine.execColl d a o k s
  | .bar a l n => Sys2Proof.Machine.execBar a l n s
  | .bara a l n => Sys2Proof.Machine.execBara a l n s
  | .barw l n => Sys2Proof.Machine.execBarw l n s
  | .barq d l n => Sys2Proof.Machine.execBarq d l n s
  | .gpwait a => Sys2Proof.Machine.execGpwait a s
  | .gpseq d => Sys2Proof.Machine.execGpseq d s
  | .dfree a b => Sys2Proof.Machine.execDfree a b s
  | .qpush d a b => Sys2Proof.Machine.execQpush d a b s
  | .qpop d a => Sys2Proof.Machine.execQpop d a s
  | .qtry k p a b => Sys2Proof.Machine.execQtry k p a b s
  | .mma h g t a b => Sys2Proof.Machine.execMma h g t a b s
  | .mmas h g t a b => Sys2Proof.Machine.execMmas h g t a b s
  | .mmal h g t a b => Sys2Proof.Machine.execMmal h g t a b s
  | .accz w t => Sys2Proof.Machine.execAccz w t s
  | .accrd d w t b => Sys2Proof.Machine.execAccrd d w t b s
  | .accwr w t a b => Sys2Proof.Machine.execAccwr w t a b s
  | .csld d a b => Sys2Proof.Machine.execCsld d a b s
  | .gang a => Sys2Proof.Machine.execGang a s
  | .mxhint a => Sys2Proof.Machine.execMxhint a s
  | .mxgemm d a b => Sys2Proof.Machine.execMxgemm d a b s
  | .quant d a b => Sys2Proof.Machine.execQuant d a b s
  | .mxstat d s1 => Sys2Proof.Machine.execMxstat d s1 s
  | .hfam d a n => Sys2Proof.Machine.execHfam d a n s
  | .hash d a b => Sys2Proof.Machine.execHash d a b s
  | .probe d a b => Sys2Proof.Machine.execProbe d a b s
  | .tins d a b => Sys2Proof.Machine.execTins d a b s
  | .tdel d a b => Sys2Proof.Machine.execTdel d a b s
  | .rehash d a b => Sys2Proof.Machine.execRehash d a b s
  | .rmul d a b => Sys2Proof.Machine.execRmul d a b s
  | .tstat d s1 n => Sys2Proof.Machine.execTstat d s1 n s
  | .mbxget d => Sys2Proof.Machine.execMbxget d s
  | .mbxput d a b => Sys2Proof.Machine.execMbxput d a b s
  | .tlbi d a k => Sys2Proof.Machine.execTlbi d a k s
  | .ctxld d a b => Sys2Proof.Machine.execCtxld d a b s
  | .ctxst d a b => Sys2Proof.Machine.execCtxst d a b s
  | .pmset d a s1 => Sys2Proof.Machine.execPmset d a s1 s
  | .reservedOpcode w => Sys2Proof.Machine.execReservedOpcode w s
  | .bundleFetch unit path => Sys2Proof.Machine.execBundleFetch unit path s
  | .arrival unit path => Sys2Proof.Machine.execArrival unit path s
  | .longLatencyComplete token => Sys2Proof.Machine.execLongLatencyComplete token s
  | .exchange quad => Sys2Proof.Machine.execExchange quad s
  | .forcedExchange quad => Sys2Proof.Machine.execForcedExchange quad s
  | .registersDrowsy unit => Sys2Proof.Machine.execRegistersDrowsy unit s
  | .groupPark unit => Sys2Proof.Machine.execGroupPark unit s
  | .sleepWake unit => Sys2Proof.Machine.execSleepWake unit s
  | .userInterruptDelivery unit => Sys2Proof.Machine.execUserInterruptDelivery unit s
  | .late token => Sys2Proof.Machine.execLate token s
  | .engineOpComplete token => Sys2Proof.Machine.execEngineOpComplete token s
  | .matrixStepEnd quad => Sys2Proof.Machine.execMatrixStepEnd quad s
  | .rampupEnd quad => Sys2Proof.Machine.execRampupEnd quad s
  | .rampdownEnd quad => Sys2Proof.Machine.execRampdownEnd quad s
  | .heldTimeout quad => Sys2Proof.Machine.execHeldTimeout quad s
  | .hintEffect unit count => Sys2Proof.Machine.execHintEffect unit count s
  | .gangStepAccept core => Sys2Proof.Machine.execGangStepAccept core s
  | .macroStep token => Sys2Proof.Machine.execMacroStep token s
  | .queueRequestServe queue => Sys2Proof.Machine.execQueueRequestServe queue s
  | .queueAnswer token => Sys2Proof.Machine.execQueueAnswer token s
  | .tableUpdateStep token => Sys2Proof.Machine.execTableUpdateStep token s
  | .bucketCacheDrop desc => Sys2Proof.Machine.execBucketCacheDrop desc s
  | .gracePeriodComplete part => Sys2Proof.Machine.execGracePeriodComplete part s
  | .releaseRingAppend part => Sys2Proof.Machine.execReleaseRingAppend part s
  | .consumerReread part => Sys2Proof.Machine.execConsumerReread part s
  | .recordFiled token => Sys2Proof.Machine.execRecordFiled token s
  | .collectionWindow part folio => Sys2Proof.Machine.execCollectionWindow part folio s
  | .handlerPlacement part folio => Sys2Proof.Machine.execHandlerPlacement part folio s
  | .laneResumed token => Sys2Proof.Machine.execLaneResumed token s
  | .rejoinLimit unit => Sys2Proof.Machine.execRejoinLimit unit s
  | .softerr unit location => Sys2Proof.Machine.execSofterr unit location s
  | .curatorReload core => Sys2Proof.Machine.execCuratorReload core s
  | .launchCheck kernel => Sys2Proof.Machine.execLaunchCheck kernel s
  | .blockPlacement kernel => Sys2Proof.Machine.execBlockPlacement kernel s
  | .kernelRetire kernel => Sys2Proof.Machine.execKernelRetire kernel s
  | .contextSaveComplete ctx => Sys2Proof.Machine.execContextSaveComplete ctx s
  | .sealCtx token => Sys2Proof.Machine.execSealCtx token s
  | .checkpoint token => Sys2Proof.Machine.execCheckpoint token s
  | .migrate token => Sys2Proof.Machine.execMigrate token s
  | .restore token => Sys2Proof.Machine.execRestore token s
  | .importCtx token => Sys2Proof.Machine.execImportCtx token s
  | .contextOpComplete token => Sys2Proof.Machine.execContextOpComplete token s
  | .invalidationTimeout token => Sys2Proof.Machine.execInvalidationTimeout token s
  | .invalidationAck token => Sys2Proof.Machine.execInvalidationAck token s
  | .predictorQuiet core line => Sys2Proof.Machine.execPredictorQuiet core line s
  | .create pkt ctx region wld => Sys2Proof.Machine.execCreate pkt ctx region wld s
  | .destroy pkt ctx => Sys2Proof.Machine.execDestroy pkt ctx s
  | .launch pkt ctx record => Sys2Proof.Machine.execLaunch pkt ctx record s
  | .killRequest pkt ctx record => Sys2Proof.Machine.execKillRequest pkt ctx record s
  | .preempt pkt ctx => Sys2Proof.Machine.execPreempt pkt ctx s
  | .resume pkt ctx => Sys2Proof.Machine.execResume pkt ctx s
  | .regionSync pkt ctx => Sys2Proof.Machine.execRegionSync pkt ctx s
  | .inval pkt ctx kind addr id => Sys2Proof.Machine.execInval pkt ctx kind addr id s
  | .qgrant pkt ctx queue rights log2 ring => Sys2Proof.Machine.execQgrant pkt ctx queue rights log2 ring s
  | .qrevoke pkt ctx queue => Sys2Proof.Machine.execQrevoke pkt ctx queue s
  | .svcNop core tag => Sys2Proof.Machine.execSvcNop core tag s
  | .svcLaunch core tag => Sys2Proof.Machine.execSvcLaunch core tag s
  | .svcKill core tag => Sys2Proof.Machine.execSvcKill core tag s
  | .yieldctx core tag => Sys2Proof.Machine.execYieldctx core tag s
  | .fwver core tag => Sys2Proof.Machine.execFwver core tag s
  | .powerStateExit elapsed => Sys2Proof.Machine.execPowerStateExit elapsed s
  | .zeroingComplete bank unit => Sys2Proof.Machine.execZeroingComplete bank unit s
  | .trainingTimeout port => Sys2Proof.Machine.execTrainingTimeout port s
  | .ackTimeout port => Sys2Proof.Machine.execAckTimeout port s
  | .replayLimit port => Sys2Proof.Machine.execReplayLimit port s
  | .retrainTimeout port => Sys2Proof.Machine.execRetrainTimeout port s
  | .accessPerformed token => Sys2Proof.Machine.execAccessPerformed token s
  | .homeUnitAnswer token => Sys2Proof.Machine.execHomeUnitAnswer token s
  | .originQuadrantAnswer token => Sys2Proof.Machine.execOriginQuadrantAnswer token s
  | .requestRecordChecked token => Sys2Proof.Machine.execRequestRecordChecked token s
  | .codeInvalidationDone token => Sys2Proof.Machine.execCodeInvalidationDone token s
  | .badpkt pkt => Sys2Proof.Machine.execBadpkt pkt s
  | .pageWalkComplete unit va kind => Sys2Proof.Machine.execPageWalkComplete unit va kind s
  | .ringReadError qi => Sys2Proof.Machine.execRingReadError qi s
  | .curatorImageHandoff addr => Sys2Proof.Machine.execCuratorImageHandoff addr s
  | .softErrorCorrected kind unit addr => Sys2Proof.Machine.execSoftErrorCorrected kind unit addr s
  | .uncorrectableShared kind unit addr parts => Sys2Proof.Machine.execUncorrectableShared kind unit addr parts s
  | .qiEnable qi ctl => Sys2Proof.Machine.execQiEnable qi ctl s
  | .qiDisable qi => Sys2Proof.Machine.execQiDisable qi s
  | .notify func page offset size value => Sys2Proof.Machine.execNotify func page offset size value s
  | .pasidRevoke value => Sys2Proof.Machine.execPasidRevoke value s
  | .tdispError func => Sys2Proof.Machine.execTdispError func s
  | .latencyToleranceWrite value => Sys2Proof.Machine.execLatencyToleranceWrite value s
  | .readbackRead agent => Sys2Proof.Machine.execReadbackRead agent s
  | .readbackWrite agent value => Sys2Proof.Machine.execReadbackWrite agent value s
  | .debugStopArm ctx arm => Sys2Proof.Machine.execDebugStopArm ctx arm s
  | .debugRelease ctx => Sys2Proof.Machine.execDebugRelease ctx s
  | .deviceNumberWrite value => Sys2Proof.Machine.execDeviceNumberWrite value s
  | .assignmentWordWrite bank unit value => Sys2Proof.Machine.execAssignmentWordWrite bank unit value s
  | .registerWrite agent offset value => Sys2Proof.Machine.execRegisterWrite agent offset value s
  | .portEnable port => Sys2Proof.Machine.execPortEnable port s
  | .portDisable port => Sys2Proof.Machine.execPortDisable port s
  | .lanesTrained port lanes => Sys2Proof.Machine.execLanesTrained port lanes s
  | .flitReceived port header crc payload => Sys2Proof.Machine.execFlitReceived port header crc payload s
  | .peerRequestServe device kind addr size data => Sys2Proof.Machine.execPeerRequestServe device kind addr size data s
  | .getMeasurements index => Sys2Proof.Machine.execGetMeasurements index s
  | .challenge nonce => Sys2Proof.Machine.execChallenge nonce s
  | .keyExchange peer => Sys2Proof.Machine.execKeyExchange peer s
  | .tdispStateChange func st => Sys2Proof.Machine.execTdispStateChange func st s
  | .routeTableWrite inbound device value => Sys2Proof.Machine.execRouteTableWrite inbound device value s
  | .msixVectorUnmask func index => Sys2Proof.Machine.execMsixVectorUnmask func index s
  | .tokenRefill => Sys2Proof.Machine.execTokenRefill s
  | .powerStateEntry => Sys2Proof.Machine.execPowerStateEntry s
  | .powerRemoval => Sys2Proof.Machine.execPowerRemoval s
  | .deviceReset => Sys2Proof.Machine.execDeviceReset s
  | .powerOn => Sys2Proof.Machine.execPowerOn s
  | .nop => Sys2Proof.Machine.execNop s
  | .ret => Sys2Proof.Machine.execRet s
  | .regang => Sys2Proof.Machine.execRegang s
  | .exit => Sys2Proof.Machine.execExit s
  | .yield => Sys2Proof.Machine.execYield s
  | .brkpt => Sys2Proof.Machine.execBrkpt s
  | .uiret => Sys2Proof.Machine.execUiret s
  | .hkill => Sys2Proof.Machine.execHkill s
  | .fence => Sys2Proof.Machine.execFence s
  | .rsb => Sys2Proof.Machine.execRsb s
  | .rse => Sys2Proof.Machine.execRse s
  | .tfence => Sys2Proof.Machine.execTfence s

end Sys2Proof.Machine
end

