-- ==== Sys2Proof/Machine/Step.lean ====
section
/-!
DEFINITION. Step.lean: one step of the device: a due event, an exchange, or the issue of one instruction; and the placing of
an instruction where the next step fetches it.
-/
namespace Sys2Proof.Machine

/-! ### Issue -/

/-- The group and path that issue, with the path recorded as current (R65, R125). The streak counts the instructions issued in a row while
another path was ready. -/
def State.select (s : State) (u p : Nat) : State :=
  let other := (s.grp u).paths.any fun q => q.id != p && s.pathReady (s.grp u) q
  (s.modGrp u fun g =>
    let g := if g.lastPath = p then g else g.clearAges
    let streak := if !other then 0 else if g.cur = p && (g.path p).streak < 64 then (g.path p).streak + 1 else 1
    { g.modPath p fun q => { q with last := s.stamp, streak := streak } with cur := p, lastPath := p, yielding := false }).tick

/-- Whether the slot that a path is to issue next halts it under an armed debug stop (R39). -/
def State.halts (s : State) (g : Group) (q : Path) (b : Bundle) (j : Nat) : Bool :=
  b.ctl j / 256 % 2 == 1 && s.stopArmed g && !q.brkOk

/-- A path goes on to the next bundle from one in which no slot issues, which is no issue of the path (R18, R125). -/
def State.passBundle (s : State) (u p : Nat) (b : Bundle) : State :=
  (s.modGrp u fun g =>
    (g.modPathSlices p fun x => { x with pc := b.addr + 32 }).modPath p fun q => { q with buf := none, noArrive := false }).spend 1

/-- The state in which slot j of a bundle issues: its address, word, marks and literals (R17, R27). -/
def State.setCur (s : State) (u p : Nat) (b : Bundle) (j : Nat) : State :=
  let pc := b.addr + BitVec.ofNat 64 j
  let s := s.modGrp u fun g => g.modPathSlices p fun x => { x with pc := pc }
  { s with cur := { unit := u, path := p, pc := pc, instr := b.word j, ctl := b.ctl j, litA := (b.lits j).1, litB := (b.lits j).2 } }

/-- A word that is no instruction because an unused field is set: PRIV comes before ILLEGAL, that of a selector of RDSR and WRSR among
them (R37, R75). -/
def State.badWord (s : State) (op : Nat) : State :=
  let sr := (op = 0x18 || op = 0x19) && srPriv s.g (s.cur.instr.toNat % 256)
  s.trapGroup (if privileged op > s.g.level || sr then 0x0A else 0x09)

/-- The instruction of slot j issues, unless a debug stop halts the group before it: the slot has no effect, and the path has issued nothing
(R39). -/
def State.issueSlot (s : State) (u p : Nat) (b : Bundle) (j : Nat) : Res :=
  if s.halts (s.grp u) ((s.grp u).path p) b j then
    .next (((s.setCur u p b j).modP fun q => { q with brkOk := true }).stopGroup u)
  else
    let s := (s.select u p).setCur u p b j
    match decode (b.word j).toNat with
    | .ok i => exec i s
    | .error (.unusedField op) => .next (s.badWord op)
    | .error .short => .next (s.badWord 0xFF)

/-- A path that stands in a fetched bundle arrives, passes on, or issues (R18, R32). -/
def State.issueIn (s : State) (u p : Nat) (b : Bundle) : Res :=
  if (s.grp u).pathArrives ((s.grp u).path p) then exec (.arrival u p) s
  else
    match b.nextSlot (slotOf ((s.grp u).pathPc p)) with
    | none => .next (s.passBundle u p b)
    | some j => s.issueSlot u p b j

/-- The issue of a path, with the fetch of its bundle where it enters one (R38). -/
def State.issue (s : State) (u p : Nat) : Res :=
  match ((s.grp u).path p).buf with
  | some b => s.issueIn u p b
  | none =>
    match exec (.bundleFetch u p) s with
    | .next t =>
      match ((t.grp u).path p).buf with
      | some b => t.issueIn u p b
      | none => .next t
    | other => other

/-! ### The step -/

/-- The first due event, and the agenda without it. -/
def State.dueEvent (s : State) : Option (Instr × State) :=
  match s.agenda with
  | [] => none
  | d :: r => if d.clk ≤ s.cyc then some (d.ev, { s with agenda := r }) else none

/-- The quadrants that hold groups. -/
def State.quads (s : State) : List Nat := (s.groups.map Group.quadrant).eraseDups

/-- An exchange that is due (R116, R117). -/
def State.dueExchange (s : State) : Option Instr :=
  match s.quads.find? fun q => (s.forced q).isSome with
  | some q => some (.forcedExchange q)
  | none => (s.quads.find? fun q => s.exchangeDue q).map .exchange

/-- Whether an event gives the device power. -/
def isPowerOn (i : Instr) : Bool :=
  match i with
  | .powerOn => true
  | _ => false

/-- Without power only its return can happen (R87). -/
def State.stepUnpowered (s : State) : Res :=
  match s.agenda.find? fun d => isPowerOn d.ev with
  | some d => exec d.ev { s with cyc := max s.cyc d.clk, agenda := s.agenda.erase d }
  | none => .fault .unpowered

/-- A clk outside PS0, in which no group issues and none is exchanged: a state whose condition holds no longer is left (R373). -/
def State.dormant (s : State) : State := (if s.powerHolds s.mgmt.power then s else s.wakePower).spend 1

/-- A clk in PS0 with no event due: a due exchange, else the issue of the group whose turn it is, else nothing. -/
def State.stepRunning (s : State) : Res :=
  let s := s.observe
  match s.dueExchange with
  | some ev => exec ev s
  | none =>
    match s.issuer with
    | none => .next (s.spend 1)
    | some g =>
      if s.deliverable g then exec (.userInterruptDelivery g.unit) s
      else
        match s.choose g with
        | some p => s.issue g.unit p
        | none => .next (s.spend 1)

/-- One step: a due event, else a due exchange, else the issue of the group whose turn it is, else a clk passes. -/
def step (s : State) : Host.Outcome State Fault Refusal :=
  if !s.powered then s.stepUnpowered
  else
    match s.dueEvent with
    | some (ev, s) => exec ev s
    | none => if s.mgmt.power ≠ 0 then .next s.observe.dormant else s.stepRunning


/-! ### Placing an instruction -/

/-- A valid leaf entry for address 0 of a level-1 table with every permission, and a table entry (R94). -/
def placedLeaf : Nat := 31
def placedTable (pa : Nat) : Nat := pa + 1

/-- The tables of both stages that map the first GiB onto itself, the bundle with the instruction in slot 0, and core 0's quadrants and banks
assigned to the group's partition and world, without which no group runs (R83, R84). -/
def placedMem (mm : MemSys) (w : Nat) : MemSys :=
  let put (mm : MemSys) (pa v n : Nat) : MemSys := mm.setBytes pa (leBytes v n)
  let mm := { mm with seen := [], code := [], partials := [], quadBusy := [], bankBusy := [], quadNext := [], bankNext := []
                      quadAssign := (List.range 4).foldl (fun m q => Store.set m q 1) mm.quadAssign
                      bankAssign := (List.range 32).foldl (fun m b => Store.set m b 1) mm.bankAssign }
  let mm := put (put mm 0x10000 (placedTable 0x11000) 8) 0x11000 placedLeaf 8
  let mm := put (put mm 0x12000 (placedTable 0x13000) 8) 0x13000 placedLeaf 8
  put mm 0x4000 (w * 2 ^ 64) 32

/-- The level at which an instruction may issue: the lowest that its opcode's class admits (R35). -/
def placedKind (w : Nat) : GKind :=
  match privileged (w / 2 ^ 24 % 256) with
  | 0 => .user
  | 1 => .handler
  | _ => .curator

/-- A group that has just been created on core 0, active, with its slices at the bundle. -/
def placedGroup (kind : GKind) : Group :=
  let unit := match kind with
    | .user => 0
    | .handler => 15
    | .curator => 63
  { unit := unit, kind := kind, st := .active, ctx := 1, kernel := 1, alloc := 208, acc := 4
    sregs := [0, 1, 2, 3, 4, 5, 6, 7].map fun n => (n, { st := .full, val := 0 })
    slices := sliceIds.map fun n => { idx := n, pc := 0x4000, run := 15, gone := 0, path := 0 }
    paths := [{ id := 0 }], inst := 1 }

/-- The state with an instruction's word where the next step fetches and runs it: a device with one context, one kernel and
one group, which stands at the bundle that holds the word. -/
def State.withFetchWord (s : State) (nbits w : Nat) : State :=
  let w := w % 2 ^ nbits % 2 ^ 32
  let sp : Space := { ctx := 1, root1 := 0x10000, root2 := 0x12000 }
  { s with powered := true, mgmt := { s.mgmt with power := 0 }, agenda := [], mm := placedMem s.mm w, groups := [placedGroup (placedKind w)]
           ctxs := [{ id := 1, part := 0, world := 0, st := .resident, space := sp }]
           kernels := [{ id := 1, ctx := 1, st := .running, bx := 1, by_ := 1, bz := 1, nextBlock := 1, placed := true }]
           blocks := [{ kernel := 1, bid := 0, core := 0 }]
           parts := Store.set s.parts 0 { s.part 0 with space := { sp with ctx := 0 } } }

end Sys2Proof.Machine
end

