-- ==== Sys2Proof/Machine/Entry.lean ====
section
/-!
DEFINITION. Entry.lean: what each instruction's entry says of its operands, marks and conditions (R23 to R28, R35, R36), by
constructor. A reserved opcode has no entry; an event is no instruction.
-/
namespace Sys2Proof.Machine

/-- The entry of an instruction in a state. -/
def entryOf (i : Instr) (s : State) : Option Info :=
  match i with
  | .bra d => some (infoBra d)
  | .br n p d => some (infoBr n p d)
  | .brx a => some (infoBrx a)
  | .call d => some (infoCall d)
  | .callx d a => some (infoCallx d a)
  | .retx a => some (infoRetx a)
  | .rcvp d => some (infoRcvp d)
  | .mode a => some (infoMode a)
  | .modef a i1 => some (infoModef a i1)
  | .trap d a c => some (infoTrap d a c)
  | .sleep a => some (infoSleep a)
  | .svc d a i1 => some (infoSvc d a i1)
  | .uintr d a b => some (infoUintr d a b)
  | .hret a => some (infoHret a s)
  | .xrd d a b => some (infoXrd d a b)
  | .xwr a b => some (infoXwr a b)
  | .rdsr d s1 => some (infoRdsr d s1 s)
  | .wrsr a s1 => some (infoWrsr a s1 s)
  | .iadd d a b => some (aluInfo (.iadd d a b) 0x20 d a (some b) false (s.etypesOk EType.isInt))
  | .isub d a b => some (aluInfo (.isub d a b) 0x21 d a (some b) false (s.etypesOk EType.isInt))
  | .imul d a b => some (aluInfo (.imul d a b) 0x22 d a (some b) false (s.etypesOk EType.isInt))
  | .imulh d a b => some (aluInfo (.imulh d a b) 0x23 d a (some b) false (s.etypesOk EType.isInt))
  | .imad d a b => some (aluInfo (.imad d a b) 0x24 d a (some b) true (s.etypesOk EType.isInt))
  | .idiv d a b => some (aluInfo (.idiv d a b) 0x25 d a (some b) false (s.etypesOk EType.isInt))
  | .irem d a b => some (aluInfo (.irem d a b) 0x26 d a (some b) false (s.etypesOk EType.isInt))
  | .imin d a b => some (aluInfo (.imin d a b) 0x27 d a (some b) false (s.etypesOk EType.isInt))
  | .imax d a b => some (aluInfo (.imax d a b) 0x28 d a (some b) false (s.etypesOk EType.isInt))
  | .iabs d a => some (aluInfo (.iabs d a) 0x29 d a none false (s.etypesOk EType.isInt))
  | .ineg d a => some (aluInfo (.ineg d a) 0x2A d a none false (s.etypesOk EType.isInt))
  | .icmp c p a b => some (infoIcmp c p a b s)
  | .lea d a b => some (infoLea d a b s)
  | .imulw d a b => some (aluInfo (.imulw d a b) 0x2D d a (some b) false (s.etypesOk fun t => t.isInt && t.width < 64))
  | .and d a b => some (rawInfo (.and d a b) 0x30 d a (some b) false)
  | .or d a b => some (rawInfo (.or d a b) 0x31 d a (some b) false)
  | .xor d a b => some (rawInfo (.xor d a b) 0x32 d a (some b) false)
  | .andn d a b => some (rawInfo (.andn d a b) 0x33 d a (some b) false)
  | .not d a => some (rawInfo (.not d a) 0x34 d a none false)
  | .shl d a b => some (aluInfo (.shl d a b) 0x35 d a (some b) false (s.etypesOk EType.isInt))
  | .shr d a b => some (aluInfo (.shr d a b) 0x36 d a (some b) false (s.etypesOk EType.isInt))
  | .sar d a b => some (aluInfo (.sar d a b) 0x37 d a (some b) false (s.etypesOk EType.isInt))
  | .rotl d a b => some (aluInfo (.rotl d a b) 0x38 d a (some b) false (s.etypesOk EType.isInt))
  | .popc d a => some (aluInfo (.popc d a) 0x39 d a none false (s.etypesOk EType.isInt))
  | .clz d a => some (aluInfo (.clz d a) 0x3A d a none false (s.etypesOk EType.isInt))
  | .ctz d a => some (aluInfo (.ctz d a) 0x3B d a none false (s.etypesOk EType.isInt))
  | .brev d a => some (aluInfo (.brev d a) 0x3C d a none false (s.etypesOk EType.isInt))
  | .bfx d a b => some (aluInfo (.bfx d a b) 0x3D d a (some b) false (s.etypesOk EType.isInt))
  | .bfi d a b => some (rawInfo (.bfi d a b) 0x3E d a (some b) true)
  | .sel d a b => some (infoSel d a b)
  | .fadd d a b => some (aluInfo (.fadd d a b) 0x40 d a (some b) false (s.etypesOk EType.isFlt))
  | .fsub d a b => some (aluInfo (.fsub d a b) 0x41 d a (some b) false (s.etypesOk EType.isFlt))
  | .fmul d a b => some (aluInfo (.fmul d a b) 0x42 d a (some b) false (s.etypesOk EType.isFlt))
  | .ffma d a b => some (aluInfo (.ffma d a b) 0x43 d a (some b) true (s.etypesOk EType.isFlt))
  | .ffms d a b => some (aluInfo (.ffms d a b) 0x44 d a (some b) true (s.etypesOk EType.isFlt))
  | .fmin d a b => some (aluInfo (.fmin d a b) 0x45 d a (some b) false (s.etypesOk EType.isFlt))
  | .fmax d a b => some (aluInfo (.fmax d a b) 0x46 d a (some b) false (s.etypesOk EType.isFlt))
  | .fabs d a => some (aluInfo (.fabs d a) 0x47 d a none false (s.etypesOk EType.isFlt))
  | .fneg d a => some (aluInfo (.fneg d a) 0x48 d a none false (s.etypesOk EType.isFlt))
  | .fdiv d a b => some (aluInfo (.fdiv d a b) 0x49 d a (some b) false (s.etypesOk EType.isFlt))
  | .fsqrt d a => some (aluInfo (.fsqrt d a) 0x4A d a none false (s.etypesOk EType.isFlt))
  | .frcp d a => some (aluInfo (.frcp d a) 0x4B d a none false (s.etypesOk EType.isFlt))
  | .frsq d a => some (aluInfo (.frsq d a) 0x4C d a none false (s.etypesOk EType.isFlt))
  | .fexp2 d a => some (aluInfo (.fexp2 d a) 0x4D d a none false (s.etypesOk EType.isFlt))
  | .flog2 d a => some (aluInfo (.flog2 d a) 0x4E d a none false (s.etypesOk EType.isFlt))
  | .fcmp c p a b => some (infoFcmp c p a b s)
  | .fclass d a => some (aluInfo (.fclass d a) 0x50 d a none false (s.etypesOk fun t => t.isFlt || t == .lns8))
  | .frnd d a i1 => some (aluInfo (.frnd d a i1) 0x51 d a none false (s.etypesOk EType.isFlt))
  | .fscale d a b => some (infoFscale d a b s)
  | .cvt d a t => some (aluInfo (.cvt d a t) 0x53 d a none false (s.etypesOk fun src => cvtPair src ((EType.ofCode t.toNat).getD .u64)))
  | .cvts d a b => some (infoCvts d a b s)
  | .ladd d a b => some (aluInfo (.ladd d a b) 0x55 d a (some b) false (s.etypesOk (· == .lns8)))
  | .lmul d a b => some (aluInfo (.lmul d a b) 0x56 d a (some b) false (s.etypesOk (· == .lns8)))
  | .fdot2 d a b => some (infoFdot2 d a b s)
  | .shfl d a b => some (shuffleInfo (.shfl d a b) 0x60 d a (some b))
  | .shflu d a n => some (shuffleInfo (.shflu d a n) 0x61 d a none)
  | .shfld d a n => some (shuffleInfo (.shfld d a n) 0x62 d a none)
  | .shflx d a n => some (shuffleInfo (.shflx d a n) 0x63 d a none)
  | .vote k p n q => some (predInfo (.vote k p n q) 0x64)
  | .ballot d n q => some (infoBallot d n q)
  | .matchL d a => some (infoMatchL d a s)
  | .rdlane d a b => some (infoRdlane d a b)
  | .wrlane d a b => some (infoWrlane d a b)
  | .pand p n q m r => some (predInfo (.pand p n q m r) 0x69)
  | .por p n q m r => some (predInfo (.por p n q m r) 0x6A)
  | .pxor p n q m r => some (predInfo (.pxor p n q m r) 0x6B)
  | .pnot p n q => some (predInfo (.pnot p n q) 0x6C)
  | .pmov p a => some (infoPmov p a)
  | .pset p a i1 => some (infoPset p a i1)
  | .mov d a => some (infoMov d a)
  | .movu d a => some (infoMovu d a)
  | .kill a => some (stateInfo (.kill a) 0x72 a)
  | .sete a => some (stateInfo (.sete a) 0x73 a)
  | .setf a => some (infoSetf a s)
  | .testf d a => some (infoTestf d a)
  | .cinv a => some (infoCinv a)
  | .shape h a => some (infoShape h a)
  | .shapeq d h => some (infoShapeq d h)
  | .fslot d f => some (infoFslot d f)
  | .ld d a b => some (loadInfo (.ld d a b) 0x80 d a b s)
  | .st d a b => some (storeInfo (.st d a b) 0x81 d a b s)
  | .ldx d a b => some (loadInfo (.ldx d a b) 0x82 d a b s)
  | .stx d a b => some (storeInfo (.stx d a b) 0x83 d a b s)
  | .lda d a b => some (loadInfo (.lda d a b) 0x84 d a b s)
  | .stl d a b => some (storeInfo (.stl d a b) 0x85 d a b s)
  | .ldp d a b => some (infoLdp d a b s)
  | .stp d a b => some (infoStp d a b s)
  | .ldc d a b => some (loadInfo (.ldc d a b) 0x88 d a b s)
  | .pf a b => some (infoPf a b)
  | .cctl a o => some (infoCctl a o)
  | .aadd d a b => some (atomicInfo (.aadd d a b) 0x90 d a b atomInt s)
  | .afadd d a b => some (atomicInfo (.afadd d a b) 0x91 d a b atomFloat s)
  | .amin d a b => some (atomicInfo (.amin d a b) 0x92 d a b atomWord s)
  | .amax d a b => some (atomicInfo (.amax d a b) 0x93 d a b atomWord s)
  | .aand d a b => some (atomicInfo (.aand d a b) 0x94 d a b atomInt s)
  | .aor d a b => some (atomicInfo (.aor d a b) 0x95 d a b atomInt s)
  | .axor d a b => some (atomicInfo (.axor d a b) 0x96 d a b atomInt s)
  | .axch d a b => some (atomicInfo (.axch d a b) 0x97 d a b atomWord s)
  | .acas d a b => some (atomicInfo (.acas d a b) 0x98 d a b atomWord s)
  | .redadd a b => some (reduceInfo (.redadd a b) 0x99 a b atomInt s)
  | .redfadd a b => some (reduceInfo (.redfadd a b) 0x9A a b atomFloat s)
  | .redmin a b => some (reduceInfo (.redmin a b) 0x9B a b atomWord s)
  | .redmax a b => some (reduceInfo (.redmax a b) 0x9C a b atomWord s)
  | .cpy d a b => some (infoCpy d a b)
  | .cpy2 d a b => some (infoCpy2 d a b)
  | .gthr d a b => some (gatherInfo (.gthr d a b) 0xA2 d a b)
  | .sctr d a b => some (gatherInfo (.sctr d a b) 0xA3 d a b)
  | .waitc a c => some (infoWaitc a c)
  | .rdcnt d c => some (infoRdcnt d c)
  | .htest d a => some (handleInfo (.htest d a) 0xA6 d a)
  | .hcanc d a => some (handleInfo (.hcanc d a) 0xA7 d a)
  | .hprom d a => some (handleInfo (.hprom d a) 0xA8 d a)
  | .hstat d a => some (handleInfo (.hstat d a) 0xA9 d a)
  | .coll d a o k => some (infoColl d a o k)
  | .bar a l n => some (barInfo (.bar a l n) 0xB0 a true)
  | .bara a l n => some (barInfo (.bara a l n) 0xB1 a false)
  | .barw l n => some (infoBarw l n)
  | .barq d l n => some (infoBarq d l n)
  | .gpwait a => some (infoGpwait a)
  | .gpseq d => some (infoGpseq d)
  | .dfree a b => some (infoDfree a b)
  | .qpush d a b => some (infoQpush d a b)
  | .qpop d a => some (infoQpop d a)
  | .qtry k p a b => some (infoQtry k p a b)
  | .mma h g t a b => some (stepInfo (.mma h g t a b) 0xC0 g h t a b s)
  | .mmas h g t a b => some (stepInfo (.mmas h g t a b) 0xC1 g h t a b s)
  | .mmal h g t a b => some (stepInfo (.mmal h g t a b) 0xC2 g h t a b s)
  | .accz w t => some (infoAccz w t s)
  | .accrd d w t b => some (infoAccrd d w t b s)
  | .accwr w t a b => some (infoAccwr w t a b s)
  | .csld d a b => some (macroInfo (.csld d a b) 0xC6 d a b .i64 .i64)
  | .gang a => some (infoGang a)
  | .mxhint a => some (infoMxhint a)
  | .mxgemm d a b => some (macroInfo (.mxgemm d a b) 0xC9 d a b .i64 .i64)
  | .quant d a b => some (macroInfo (.quant d a b) 0xCA d a b .u64 .u64)
  | .mxstat d s1 => some (infoMxstat d s1)
  | .hfam d a n => some (infoHfam d a n)
  | .hash d a b => some (infoHash d a b s)
  | .probe d a b => some (infoProbe d a b s)
  | .tins d a b => some (updateInfo (.tins d a b) 0xD3 d a b s)
  | .tdel d a b => some (updateInfo (.tdel d a b) 0xD4 d a b s)
  | .rehash d a b => some (infoRehash d a b)
  | .rmul d a b => some (infoRmul d a b)
  | .tstat d s1 n => some (infoTstat d s1 n)
  | .mbxget d => some (infoMbxget d)
  | .mbxput d a b => some (infoMbxput d a b)
  | .tlbi d a k => some (infoTlbi d a k)
  | .ctxld d a b => some (ctxInfo (.ctxld d a b) 0xE3 d a b)
  | .ctxst d a b => some (ctxInfo (.ctxst d a b) 0xE4 d a b)
  | .pmset d a s1 => some (infoPmset d a s1)
  | .reservedOpcode _ => none
  | .bundleFetch _ _ => none
  | .arrival _ _ => none
  | .longLatencyComplete _ => none
  | .exchange _ => none
  | .forcedExchange _ => none
  | .registersDrowsy _ => none
  | .groupPark _ => none
  | .sleepWake _ => none
  | .userInterruptDelivery _ => none
  | .late _ => none
  | .engineOpComplete _ => none
  | .matrixStepEnd _ => none
  | .rampupEnd _ => none
  | .rampdownEnd _ => none
  | .heldTimeout _ => none
  | .hintEffect _ _ => none
  | .gangStepAccept _ => none
  | .macroStep _ => none
  | .queueRequestServe _ => none
  | .queueAnswer _ => none
  | .tableUpdateStep _ => none
  | .bucketCacheDrop _ => none
  | .gracePeriodComplete _ => none
  | .releaseRingAppend _ => none
  | .consumerReread _ => none
  | .recordFiled _ => none
  | .collectionWindow _ _ => none
  | .handlerPlacement _ _ => none
  | .laneResumed _ => none
  | .rejoinLimit _ => none
  | .softerr _ _ => none
  | .curatorReload _ => none
  | .launchCheck _ => none
  | .blockPlacement _ => none
  | .kernelRetire _ => none
  | .contextSaveComplete _ => none
  | .sealCtx _ => none
  | .checkpoint _ => none
  | .migrate _ => none
  | .restore _ => none
  | .importCtx _ => none
  | .contextOpComplete _ => none
  | .invalidationTimeout _ => none
  | .invalidationAck _ => none
  | .predictorQuiet _ _ => none
  | .create _ _ _ _ => none
  | .destroy _ _ => none
  | .launch _ _ _ => none
  | .killRequest _ _ _ => none
  | .preempt _ _ => none
  | .resume _ _ => none
  | .regionSync _ _ => none
  | .inval _ _ _ _ _ => none
  | .qgrant _ _ _ _ _ _ => none
  | .qrevoke _ _ _ => none
  | .svcNop _ _ => none
  | .svcLaunch _ _ => none
  | .svcKill _ _ => none
  | .yieldctx _ _ => none
  | .fwver _ _ => none
  | .powerStateExit _ => none
  | .zeroingComplete _ _ => none
  | .trainingTimeout _ => none
  | .ackTimeout _ => none
  | .replayLimit _ => none
  | .retrainTimeout _ => none
  | .accessPerformed _ => none
  | .homeUnitAnswer _ => none
  | .originQuadrantAnswer _ => none
  | .requestRecordChecked _ => none
  | .codeInvalidationDone _ => none
  | .badpkt _ => none
  | .pageWalkComplete _ _ _ => none
  | .ringReadError _ => none
  | .curatorImageHandoff _ => none
  | .softErrorCorrected _ _ _ => none
  | .uncorrectableShared _ _ _ _ => none
  | .qiEnable _ _ => none
  | .qiDisable _ => none
  | .notify _ _ _ _ _ => none
  | .pasidRevoke _ => none
  | .tdispError _ => none
  | .latencyToleranceWrite _ => none
  | .readbackRead _ => none
  | .readbackWrite _ _ => none
  | .debugStopArm _ _ => none
  | .debugRelease _ => none
  | .deviceNumberWrite _ => none
  | .assignmentWordWrite _ _ _ => none
  | .registerWrite _ _ _ => none
  | .portEnable _ => none
  | .portDisable _ => none
  | .lanesTrained _ _ => none
  | .flitReceived _ _ _ _ => none
  | .peerRequestServe _ _ _ _ _ => none
  | .getMeasurements _ => none
  | .challenge _ => none
  | .keyExchange _ => none
  | .tdispStateChange _ _ => none
  | .routeTableWrite _ _ _ => none
  | .msixVectorUnmask _ _ => none
  | .tokenRefill => none
  | .powerStateEntry => none
  | .powerRemoval => none
  | .deviceReset => none
  | .powerOn => none
  | .nop => some infoNop
  | .ret => some infoRet
  | .regang => some infoRegang
  | .exit => some infoExit
  | .yield => some infoYield
  | .brkpt => some infoBrkpt
  | .uiret => some infoUiret
  | .hkill => some infoHkill
  | .fence => some infoFence
  | .rsb => some infoRsb
  | .rse => some infoRse
  | .tfence => some infoTfence

end Sys2Proof.Machine
end

