-- ==== Sys2Proof/Safety.lean ====
section
/-!
DEFINITION. Safety.lean: what counts as a safe step, when an instruction executes (R35 to R37, R70), and what it leaves
unchanged, in the terms the statements use.
-/
namespace Sys2Proof.Safety

open Sys2Proof.Machine

/-- An invariant is kept when every step that answers a next state keeps it. -/
def Kept (inv : State → Prop) : Prop := ∀ s t, inv s → step s = .next t → inv t

/-- A step is safe when it does not stop. -/
def StepSafe (s : State) : Prop := ∃ t, step s = .next t

/-! ### When an instruction executes -/

/-- A group stands in the issuing slot. -/
def Issuing (s : State) : Prop := s.hasGrp s.cur.unit = true

/-- The instruction issues for the first time: it has not begun to wait, and no RETRY repeats it (R66, R323). -/
def firstIssue (s : State) : Bool := s.p.wait.isNone && s.p.retry.isNone

/-- It has read its operands: it waits at a later stage, or a RETRY gives them (R66, R323). -/
def hasRead (s : State) : Bool := s.p.retry.isSome || decide ((s.p.wait.map (·.stage)).getD 0 > 0)

/-- The group's level admits the instruction (R35, R75). -/
def permitted (e : Info) (s : State) : Bool := decide (privileged e.opcode ≤ s.g.level) && !e.priv

/-- Its marks are legal and no ILLEGAL condition of its entry holds (R23, R24, R36). -/
def lawful (e : Info) (s : State) : Bool := e.marksOk s.cur.ctl && e.legal

/-- Every register and tile it names lies within the group's allocation (R24, R233). -/
def inAllocation (e : Info) (s : State) : Bool :=
  !e.badTile && (e.sources ++ e.dests ++ e.names ++ (e.a.bind (·.op.reg?)).toList ++ e.blockA).all fun r => r < 0x30 + s.g.alloc

/-- The age latches and cache slots that it names are valid (R67). -/
def upperValid (e : Info) (s : State) : Bool :=
  !s.g.stale e.a (s.acting e) && !s.g.stale e.b (s.acting e) && !s.g.stale e.c (s.acting e)

/-- No source register is DEAD (R69). -/
def noneDead (e : Info) (s : State) : Bool := e.sources.all fun r => s.g.regState r != .dead

/-- No source register is LOST (R358). -/
def noneLost (e : Info) (s : State) : Bool := (e.sources ++ e.waitSources).all fun r => s.g.regState r != .lost

/-- The source registers that it waits for: the EMPTY ones (R69, R70). -/
def awaitedSources (e : Info) (s : State) : List RegCode :=
  if hasRead s then [] else e.waitSources.filter fun r => (s.g.regState r).isEmpty

/-- The destination registers that it waits for: the pending ones, where it acts on a lane (R70). -/
def awaitedDests (e : Info) (s : State) : List RegCode :=
  if s.acting e = 0 && !e.always then [] else e.dests.filter fun r => (s.g.regState r).isPending

/-- Its sources can be read: at first issue the upper levels are valid, and until it has read them no source register is DEAD or
LOST (R37, R67, R69). -/
def readable (e : Info) (s : State) : Bool :=
  (!firstIssue s || upperValid e s) && (hasRead s || (noneDead e s && noneLost e s))

/-- The instruction executes: none of the conditions of R37 holds, and no register makes it wait (R70). -/
def ready (e : Info) (s : State) : Bool :=
  permitted e s && lawful e s && inAllocation e s && readable e s && (awaitedSources e s).isEmpty && (awaitedDests e s).isEmpty

/-- The upper levels are cleared when it completes: it is blocking-capable or has waited, and KEEP is 0 (R65, R66). -/
def clears (e : Info) (s : State) : Bool := (e.blocking || (s.p.wait.map (·.waited)).getD false) && !s.keep

/-- The lanes it acts on, Active() (R6). -/
abbrev acts (e : Info) (s : State) : LaneMask := s.acting e

/-- The values of its sources in a lane. -/
def argA (e : Info) (s : State) (l : Nat) : Word := (s.operands e).a.at l
def argB (e : Info) (s : State) (l : Nat) : Word := (s.operands e).b.at l
def argC (e : Info) (s : State) (l : Nat) : Word := (s.operands e).c.at l

/-! ### What it leaves unchanged -/

/-- The registers that the issuing slot marks dead (R26); a memory access without an active lane changes no register's state (R169). -/
def deadMarked (e : Info) (s : State) : List RegCode :=
  if e.idle && s.g.active s.cur.path == 0 then []
  else (if markOf s.cur.ctl 1 then (e.a.bind (·.op.reg?)).toList ++ e.blockA else []) ++
    (if markOf s.cur.ctl 2 then (e.b.bind (·.op.reg?)).toList ++ e.blockB else []) ++
    (if markOf s.cur.ctl 3 then (e.c.bind (·.op.reg?)).toList else [])

/-- The state without its groups and %cyc. -/
def deviceRest (s : State) : State := { s with cyc := 0, groups := [] }

/-- A group without its registers, predicates, upper levels, slices and paths, which the other clauses give. -/
def groupRest (g : Group) : Group :=
  { g with gregs := [], sregs := [], preds := [], ages := [], ageValid := [], caches := [], cacheValid := [], slices := []
           paths := [], lastIssue := 0 }

/-- The code address of the slot that issues after the issuing one (R18). -/
def nextSlot (s : State) : Word :=
  match s.p.buf with
  | some b => b.after (slotOf s.cur.pc)
  | none => nextBundle s.cur.pc

/-- The issuing path at the next slot: its wait and its released BRK are over, and it keeps its bundle while it stands in it. -/
def pathAfter (s : State) (q : Path) : Path :=
  if q.id = s.cur.path then
    { q with wait := none, retry := none, noArrive := false, brkOk := false, buf := if bundleOf (nextSlot s) = bundleOf s.cur.pc then q.buf else none }
  else q

/-- A slice of the issuing path at the next slot. -/
def sliceAfter (s : State) (x : Slice) : Slice := if x.inPath s.cur.path then { x with pc := nextSlot s } else x

/-- The registers and predicates that an instruction leaves: all but its destination and the predicates that it writes; sources
marked dead are DEAD (R26). -/
structure RegistersKept (s t : State) (e : Info) (dst : Option Opnd) (preds : List Nat) : Prop where
  regs : ∀ r l, 0x10 ≤ r → dst.bind Opnd.reg? ≠ some r → (t.g.regVal r).at l = (s.g.regVal r).at l
  states : ∀ r, 0x10 ≤ r → dst.bind Opnd.reg? ≠ some r →
    t.g.regState r = if r ∈ deadMarked e s then .dead else s.g.regState r
  preds : ∀ q, q ∉ preds → t.g.pred q = s.g.pred q

/-- What an instruction that goes on to the next slot leaves in its group. dst is its destination and preds the predicates it
writes; upd makes its other effects on the group, none where it is id. -/
structure GroupFrame (s t : State) (e : Info) (upd : Group → Group) (dst : Option Opnd) (preds : List Nat) : Prop extends
    RegistersKept s t e dst preds where
  slices : t.g.slices = (upd s.g).slices.map (sliceAfter s)
  paths : t.g.paths = (upd s.g).paths.map (pathAfter s)
  rest : groupRest t.g = groupRest (upd s.g)

/-- The operand cache but for its destination slot: its values stay, and its validity stays or is cleared (R66). -/
def CachesKept (s t : State) (e : Info) (dst : Option Opnd) : Prop :=
  ∀ n : Fin 8, dst ≠ some (.cache n) → (∀ l, (Store.getOr t.g.caches n []).at l = (Store.getOr s.g.caches n []).at l) ∧
    Store.getOr t.g.cacheValid n 0 = if clears e s then 0 else Store.getOr s.g.cacheValid n 0

/-- What is left of the device: every other group, and all that dev does not change; dev makes the instruction's effects outside
its group. -/
structure DeviceFrame (s t : State) (dev : State → State) : Prop where
  others : ∀ u, u ≠ s.cur.unit → t.grp u = s.grp u
  device : deviceRest t = deviceRest (dev s)

/-- The whole frame of an instruction that has no effect outside its group. -/
structure Stepped (s t : State) (e : Info) (upd : Group → Group) (dst : Option Opnd) (preds : List Nat) : Prop extends
    GroupFrame s t e upd dst preds, DeviceFrame s t id where
  caches : CachesKept s t e dst
  memory : ∀ a, t.mm.byte a = s.mm.byte a

/-- The frame of an instruction that moves lanes between code addresses: registers, predicates and operand cache, and of its group
all but slices, paths and their bookkeeping. -/
structure ControlFrame (s t : State) (e : Info) (dst : Option Opnd) (dev : State → State) : Prop extends
    RegistersKept s t e dst [], DeviceFrame s t dev where
  caches : CachesKept s t e dst
  rest : { groupRest t.g with cur := 0, lastPath := 0, nextPath := 0, xfer := 0, inst := 0 } =
    { groupRest s.g with cur := 0, lastPath := 0, nextPath := 0, xfer := 0, inst := 0 }
  memory : ∀ a, t.mm.byte a = (dev s).mm.byte a

/-- What is left of a slice by a transfer, apart from its code address, run lanes, deferred sets and path. -/
def sameSlice (x y : Slice) : Prop :=
  { y with pc := 0, run := 0, deferred := [], path := 0 } = { x with pc := 0, run := 0, deferred := [], path := 0 }

/-- A slice's part in a transfer of some lanes to one target (R126): its taken lanes go first, and its fall-through lanes are
deferred at its depth; a slice of another path stays. -/
def Moved (s : State) (taken : LaneMask) (target : Word) (x y : Slice) : Prop :=
  sameSlice x y ∧
  if x.inPath s.cur.path then
    let t := x.part taken &&& x.run
    let rest := x.run &&& ~~~t
    if t = 0 then y.pc = nextBundle s.cur.pc ∧ y.run = x.run ∧ y.deferred = x.deferred
    else y.pc = target ∧ y.run = t ∧
      y.deferred = x.deferred ++ if rest = 0 then [] else [{ pc := nextBundle s.cur.pc, mask := rest, depth := x.rcvDepth }]
  else y.pc = x.pc ∧ y.run = x.run ∧ y.deferred = x.deferred ∧ y.path = x.path

/-- The same for a transfer of each lane to its own target: the taken lanes are split by target, in order of lowest lane. -/
def Parted (s : State) (taken : LaneMask) (target : Nat → Word) (x y : Slice) : Prop :=
  sameSlice x y ∧
  if x.inPath s.cur.path then
    let t := x.part taken &&& x.run
    let rest := x.run &&& ~~~t
    match splitTargets (SliceMask.lanes t) (fun n => target (4 * x.idx + n)) ++ if rest = 0 then [] else [(nextBundle s.cur.pc, rest)] with
    | (pc, m) :: more =>
      (t ≠ 0 → y.pc = pc ∧ y.run = m ∧ y.deferred = x.deferred ++ more.map fun e => { pc := e.1, mask := e.2, depth := x.rcvDepth }) ∧
      (t = 0 → y.pc = nextBundle s.cur.pc ∧ y.run = x.run ∧ y.deferred = x.deferred)
    | [] => y.pc = nextBundle s.cur.pc ∧ y.run = x.run ∧ y.deferred = x.deferred
  else y.pc = x.pc ∧ y.run = x.run ∧ y.deferred = x.deferred ∧ y.path = x.path

/-- A relation of every slice before, by number, to the same slice afterwards. -/
def EachSlice (s t : State) (r : Slice → Slice → Prop) : Prop :=
  ∀ n, n < 8 → (s.g.slices.any fun x => x.idx == n) = true → r (s.g.slice n) (t.g.slice n)

/-- No age latch is valid. -/
def AgesGone (t : State) : Prop := ∀ j, t.g.ageValid.getD j false = false

/-- The age latches stand as they stood; the upper levels may have been cleared (R65). -/
def AgesKept (s t : State) (e : Info) : Prop :=
  ∀ n : Fin 4, t.g.ages.getD n [] = s.g.ages.getD n [] ∧ t.g.ageValid.getD n false = (s.g.ageValid.getD n false && !clears e s)

/-- Push(v) (R64, R65): a0 takes v in the lanes of m and 0 in the others and is valid; each other latch takes what the latch
before it held. -/
def Pushed (s t : State) (e : Info) (v : Nat → Word) (m : LaneMask) : Prop :=
  (∀ l, l < 32 → (t.g.ages.getD 0 []).at l = if m.getLsbD l then v l else 0) ∧ t.g.ageValid.getD 0 false = true ∧
  ∀ n : Fin 3, t.g.ages.getD (n + 1) [] = s.g.ages.getD n [] ∧
    t.g.ageValid.getD (n + 1) false = (s.g.ageValid.getD n false && !clears e s)

/-- A destination has taken v in the lanes of m (R24, R69): a g register keeps its other lanes and is FULL, an s register takes
the value of the lowest lane and is FULL, a cache slot becomes valid in these lanes, and z takes nothing. Without a lane
nothing is written. -/
def Written (s t : State) (e : Info) (d : Opnd) (v : Nat → Word) (m : LaneMask) : Prop :=
  match d with
  | .greg n =>
    (∀ l, l < 32 → (t.g.regVal (0x30 + n)).at l = if m.getLsbD l then v l else (s.g.regVal (0x30 + n)).at l) ∧
    t.g.regState (0x30 + n) =
      if m ≠ 0 then .full else if 0x30 + n.val ∈ deadMarked e s then .dead else s.g.regState (0x30 + n)
  | .sreg n =>
    (∀ l, l < 32 → (t.g.regVal (0x10 + n)).at l = if m ≠ 0 then v (LaneMask.lowest m) else (s.g.regVal (0x10 + n)).at l) ∧
    t.g.regState (0x10 + n) =
      if m ≠ 0 then .full else if 0x10 + n.val ∈ deadMarked e s then .dead else s.g.regState (0x10 + n)
  | .cache n =>
    (∀ l, l < 32 → (Store.getOr t.g.caches n []).at l = if m.getLsbD l then v l else (Store.getOr s.g.caches n []).at l) ∧
    Store.getOr t.g.cacheValid n 0 = if clears e s then 0 else Store.getOr s.g.cacheValid n 0 ||| m
  | _ => True

/-- Push of what a destination has taken: an s register's one value in every active lane, and each lane's own value otherwise (R64). -/
def PushedFrom (s t : State) (e : Info) (d : Opnd) (v : Nat → Word) (m : LaneMask) : Prop :=
  match d with
  | .sreg _ => Pushed s t e (fun _ => v (LaneMask.lowest m)) m
  | _ => Pushed s t e v m

/-- The instruction completes with the value v in its destination's lanes of Active(), pushed (R64), and changes nothing else. -/
def Yields (i : Instr) (s : State) (e : Info) (d : Opnd) (v : Nat → Word) : Prop :=
  ∃ t, exec i s = .next t ∧ Written s t e d v (acts e s) ∧ PushedFrom s t e d v (acts e s) ∧ Stepped s t e id (some d) []

/-- The instruction completes with predicate p holding v in the lanes of Active(), and changes nothing else. -/
def Decides (i : Instr) (s : State) (e : Info) (p : Nat) (v : Nat → Bool) : Prop :=
  ∃ t, exec i s = .next t ∧
    (∀ l, l < 32 → (t.g.pred p).getLsbD l = if (acts e s).getLsbD l then v l else (s.g.pred p).getLsbD l) ∧
    AgesKept s t e ∧ Stepped s t e id none [p]

/-- The instruction completes with upd made to the group, and changes nothing else. -/
def Sets (i : Instr) (s : State) (e : Info) (upd : Group → Group) : Prop :=
  ∃ t, exec i s = .next t ∧ AgesKept s t e ∧ Stepped s t e upd none []

/-- For every entry that the instruction has in the state, if it executes then P. -/
def Runs (i : Instr) (s : State) (P : Info → Prop) : Prop := ∀ e, entryOf i s = some e → ready e s = true → P e

/-! ### Lanes that trap (R146, R313, R314) -/

/-- The lanes that an outcome traps, among those the instruction acts on. -/
def trapsIn (e : Info) (s : State) (f : Nat → LaneRes) (l : Nat) : Bool :=
  (acts e s).getLsbD l && match f l with
    | .val _ => false
    | .trap _ _ _ _ => true

/-- The value of an outcome. -/
def outcomeValue (f : Nat → LaneRes) (l : Nat) : Word :=
  match f l with
  | .val v => v
  | .trap _ _ _ _ => 0

/-- The record of a lane that traps (R315): what the outcome says, and the lane's operands. -/
def recordOf (e : Info) (s : State) (dest : Nat) (f : Nat → LaneRes) (l : Nat) : Option TrapRec :=
  match f l with
  | .val _ => none
  | .trap cause status repair fault => some (s.laneRec l cause dest status fault (argA e s l) (argB e s l) (argC e s l) repair)

/-- The records of the lanes that trap, in ascending lane order. -/
def recordsOf (e : Info) (s : State) (dest : Nat) (f : Nat → LaneRes) : List TrapRec :=
  (LaneMask.lanes (acts e s)).filterMap (recordOf e s dest f)

/-- The lanes that an instruction acts on without a trap. -/
def soundLanes (e : Info) (s : State) (f : Nat → LaneRes) : LaneMask := maskOf fun l => (acts e s).getLsbD l && !trapsIn e s f l

/-- The instruction completes in the lanes whose outcome is a value; each other lane of Active() is detached with its record, in a
curator group as one group trap of the lowest lane's cause, which leaves the instruction no effect (R313, R314). -/
def PerLane (i : Instr) (s : State) (e : Info) (d : Opnd) (f : Nat → LaneRes) : Prop :=
  ((∀ l, trapsIn e s f l = false) → Yields i s e d (outcomeValue f)) ∧
  ∀ r rs, recordsOf e s d.code f = r :: rs →
    (s.g.kind = .curator → exec i s = .next (s.trapGroup r.cause)) ∧
    (s.g.kind ≠ .curator → ∃ m, exec i s = .next (m.detachLanes s.cur.unit s.cur.path (r :: rs) s.cyc) ∧
      Written s m e d (outcomeValue f) (soundLanes e s f) ∧ PushedFrom s m e d (outcomeValue f) (soundLanes e s f) ∧
      Stepped s m e id (some d) [])

/-! ### Integer values (R40, R48, R49) -/

/-- The integer that the low bits of a register stand for. -/
def intArg (t : EType) (v : Word) : Int :=
  if t.signed then (v.toNat : Int).bmod (2 ^ t.width) else (v.toNat : Int) % (2 ^ t.width : Nat)

/-- The least and greatest values of an integer type. -/
def leastOf (t : EType) : Int := if t.signed then -2 ^ (t.width - 1) else 0
def greatestOf (t : EType) : Int := if t.signed then 2 ^ (t.width - 1) - 1 else 2 ^ t.width - 1

/-- The register that holds an exact integer at a width: modulo 2^w, sign-extended or zero-extended. -/
def intWord (w : Nat) (signed : Bool) (v : Int) : Word := BitVec.ofInt 64 (if signed then v.bmod (2 ^ w) else v % (2 ^ w : Nat))

/-- The register that holds an exact integer in a type: clamped to the type's range under SAT, modulo 2^w otherwise. -/
def intResult (t : EType) (sat : Bool) (v : Int) : Word :=
  intWord t.width t.signed (if sat then max (leastOf t) (min (greatestOf t) v) else v)

/-- The mode register in force in a lane: its slice's copy, or for a uniform result, that of an s destination, the copy of the lowest
slice with an active lane (R390). -/
def modeAt (e : Info) (s : State) (l : Nat) : Word32 :=
  match e.dst with
  | some (.sreg _) => s.g.uniformMode s.cur.path
  | _ => s.g.modeOf l

/-- The ETYPE in force in a lane. -/
def etypeAt (e : Info) (s : State) (l : Nat) : EType := modeEtype (modeAt e s l)

/-- A typed integer instruction: f is the exact result from the width and the operands' integers, and sat says whether it reads
SAT. -/
def IntegerYields (i : Instr) (s : State) (d : Opnd) (sat : Bool) (f : Nat → Int → Int → Int → Int) : Prop :=
  Runs i s fun e => Yields i s e d fun l =>
    let t := etypeAt e s l
    intResult t (sat && modeSat (modeAt e s l)) (f t.width (intArg t (argA e s l)) (intArg t (argB e s l)) (intArg t (argC e s l)))

/-- An instruction whose result is given bit by bit, from its operands, in each lane of Active(). -/
def BitsYield (i : Instr) (s : State) (d : Opnd) (f : EType → Word → Word → Word → Nat → Bool) : Prop :=
  Runs i s fun e => ∃ v, Yields i s e d v ∧ ∀ l, l < 32 → (acts e s).getLsbD l = true → ∀ k, k < 64 →
    (v l).getLsbD k = f (etypeAt e s l) (argA e s l) (argB e s l) (argC e s l) k

/-- Bits of a result in a type: f gives the low w, and the others extend it by the type's sign (R40). -/
def extended (t : EType) (f : Nat → Bool) (k : Nat) : Bool := if k < t.width then f k else t.signed && f (t.width - 1)

/-! ### Floating-point outcomes (R46, R47, R156) -/

/-- The outcome of a floating-point result in a lane: FPEXC where a flag that it raises is enabled, with the flags as status and
the result as repair value; else the result. -/
def floatOutcome (m : Word32) (r : FRes) : LaneRes :=
  if r.flags.toNat &&& modeFpx m = 0 then .val (word r.bits) else .trap 0x02 r.flags.toNat (word r.bits) 0

/-- An instruction that computes elementwise on the flushed operands of ETYPE. -/
def FloatYields (i : Instr) (s : State) (d : Opnd) (f : Fmt → Bool → Rnd → Val → Val → Val → FRes) : Prop :=
  Runs i s fun e => PerLane i s e d fun l =>
    let m := modeAt e s l
    floatOutcome m (perElement m (argA e s l) (argB e s l) (argC e s l) fun x a b c =>
      f x (modeFtz m) (modeRnd m) (x.operand (modeFtz m) a) (x.operand (modeFtz m) b) (x.operand (modeFtz m) c))

/-- An instruction on the flushed bits of each element. -/
def ElementYields (i : Instr) (s : State) (d : Opnd) (f : Fmt → Rnd → Nat → Nat → FRes) : Prop :=
  Runs i s fun e => PerLane i s e d fun l =>
    let m := modeAt e s l
    floatOutcome m (perElement m (argA e s l) (argB e s l) (argC e s l) fun x a b _ =>
      f x (modeRnd m) (x.flush (modeFtz m) a) (x.flush (modeFtz m) b))

/-! ### Waiting -/

/-- The instruction waits for registers before it has read its operands, or before it takes an answer, which it keeps (R66, R70, R260). -/
def AwaitsRegisters (i : Instr) (s : State) (srcs dsts : List RegCode) : Prop :=
  ∃ w : Wait, w.why = .regs srcs dsts ∧ w.keep = s.keep ∧ exec i s =
    .next (s.modP fun q => { q with answer := if (s.p.wait.map (·.stage)).getD 0 = 0 then none else q.answer, wait := some w })

/-- The instruction begins or goes on with a wait of its path, and changes nothing else (R66, R70). -/
def Waits (i : Instr) (s : State) (why : Why) : Prop :=
  ∃ w : Wait, w.why = why ∧ w.keep = s.keep ∧ exec i s = .next (s.modP fun q => { q with answer := none, wait := some w })

/-- The issuing path has taken the answer that it waited for. -/
def answerTaken (s : State) (g : Group) : Group := g.modPath s.cur.path fun q => { q with answer := none }

/-- The instruction asks another unit: the device changes by ask, and the path waits for the answer of a token. -/
def Asks (i : Instr) (s : State) (token : Nat) (ask : State → State) : Prop :=
  ∃ w : Wait, w.why = .answer ∧ w.arg = token ∧ w.stage > 0 ∧ w.keep = s.keep ∧
    exec i s = .next (ask (s.modP fun q => { q with answer := none, wait := some w }))

/-- The path stalls in place: no wait under R70, and no exchange (R182, R189, R235); so does the release of an instruction that is not
blocking-capable. -/
def Stalls (i : Instr) (s : State) (why : Why) : Prop :=
  ∃ w : Wait, w.why = why ∧ w.keep = true ∧ exec i s = .next (s.modP fun q => { q with answer := none, wait := some w })

/-- A lost store that no release has reported is reported: LINKLOST, and the instruction has no effect (R358). -/
def lossReported (s : State) : Res := .next ((s.modG fun g => { g with linkLost := false }).trapGroup 0x1B)

/-- The instruction completes with upd made to its group and dev to the rest of the device, and changes nothing else. -/
def SetsWith (i : Instr) (s : State) (e : Info) (upd : Group → Group) (dev : State → State) : Prop :=
  ∃ t, exec i s = .next t ∧ AgesKept s t e ∧ GroupFrame s t e upd none [] ∧ CachesKept s t e none ∧ DeviceFrame s t dev

/-- The same with the value v in its destination's lanes of Active(), pushed (R64). -/
def YieldsWith (i : Instr) (s : State) (e : Info) (d : Opnd) (v : Nat → Word) (upd : Group → Group) (dev : State → State) : Prop :=
  ∃ t, exec i s = .next t ∧ Written s t e d v (acts e s) ∧ PushedFrom s t e d v (acts e s) ∧ GroupFrame s t e upd (some d) [] ∧
    CachesKept s t e (some d) ∧ DeviceFrame s t dev

/-- The same as a wait of the path, with ask made to the device. -/
def WaitsWith (i : Instr) (s : State) (why : Why) (ask : State → State) : Prop :=
  ∃ w : Wait, w.why = why ∧ w.keep = s.keep ∧ exec i s = .next (ask (s.modP fun q => { q with answer := none, wait := some w }))

/-- Every earlier access of the issuing path is performed (R177). -/
def allPerformed (s : State) : Bool := s.performed s.g s.cur.path

/-- An instruction waits for the accesses before it: as a wait under R70 where it is blocking-capable, and otherwise in place. -/
def AwaitsAccesses (i : Instr) (s : State) (blocks : Bool) : Prop := if blocks then Waits i s .performed else Stalls i s .performed

/-- An instruction that is a release: while an access before it is not performed it waits, and then does P (R177). -/
def ReleasesQuietly (i : Instr) (s : State) (blocks : Bool) (P : Prop) : Prop :=
  (allPerformed s = false → AwaitsAccesses i s blocks) ∧ (allPerformed s = true → P)

/-- The same of one that reports a lost store, before it waits or does P (R358). -/
def Releases (i : Instr) (s : State) (blocks : Bool) (P : Prop) : Prop :=
  (s.g.linkLost = true → exec i s = lossReported s) ∧ (s.g.linkLost = false → ReleasesQuietly i s blocks P)

/-- How an instruction whose lanes have come to some records ends in m: the lanes are detached with them; in a curator group the
first is a group trap in the state s0, without the instruction's effects (R313, R314). -/
def EndsFrom (i : Instr) (s s0 m : State) (recs : List TrapRec) : Prop :=
  exec i s = .next (match recs with
    | [] => m
    | r :: _ => if s.g.kind = .curator then s0.trapGroup r.cause else m.detachLanes s.cur.unit s.cur.path recs s.cyc)

/-! ### Requests to tables' home units (R288, R295) -/

/-- The answer that has come for the issuing instruction. -/
def homeAnswer (e : Info) (s : State) : Option TAnswer :=
  if (s.operands e).stage = 1 ∧ s.p.answer.isSome then s.tanswers.find? fun a => a.token == (s.operands e).arg else none

/-- The device without the answer that the instruction takes. -/
def answerUsed (e : Info) (s : State) : State := { s with tanswers := s.tanswers.filter fun a => a.token != (s.operands e).arg }

/-- A request goes to its unit, which it reaches some clk later, and the path waits for the answer. -/
def AsksHome (i : Instr) (s : State) (r : TReq) (delay : Nat) : Prop :=
  Asks i s s.stamp fun u =>
    let v : State := { u.tick with treqs := s.treqs ++ [{ r with token := s.stamp, due := s.cyc + delay }] }
    v.schedule delay (.tableUpdateStep s.stamp)

/-- The unit of the issuing gallery answers at once, without a descriptor's read. -/
def AnsweredHere (i : Instr) (s : State) (vals : List Word) : Prop :=
  Asks i s s.stamp fun u =>
    let v : State := { u.tick with tanswers := s.tanswers ++ [{ token := s.stamp, vals := vals }] }
    v.schedule 100 (.homeUnitAnswer s.stamp)

/-- The fields that every request of the issuing instruction has. -/
def homeRequest (e : Info) (s : State) (kind : TKind) (desc : Word) (lm1 sel : Nat) : TReq :=
  { token := 0, unit := s.g.unit, serial := s.g.serial, kind := kind, desc := desc, space := s.wideSpace s.g (acts e s)
    part := s.g.part, world := s.g.world, gallery := galleryOf s.g.core, lm1 := lm1, sel := sel
    slots := s.wideSlots s.g (acts e s), scope := modeScope (s.g.uniformMode s.cur.path), by_ := s.g.live s.cur.path }

/-- The outcomes of an answer: a value in each lane, or the fault that the answer names for it. -/
def answerOutcome (a : TAnswer) (v : Nat → Word) (l : Nat) : LaneRes :=
  match a.faults.find? fun f => f.1 == l with
  | some (_, cause, status, fault) => .trap cause status 0 fault
  | none => .val (v l)

/-- The instruction completes with an answer's outcomes, lane by lane, having taken the answer. -/
def AnswerYields (i : Instr) (s : State) (e : Info) (d : Opnd) (f : Nat → LaneRes) : Prop :=
  ∃ m, EndsFrom i s (s.takeTable (s.operands e).arg) m (recordsOf e s d.code f) ∧
    Written s m e d (outcomeValue f) (soundLanes e s f) ∧ PushedFrom s m e d (outcomeValue f) (soundLanes e s f) ∧
    GroupFrame s m e (answerTaken s) (some d) [] ∧ CachesKept s m e (some d) ∧ DeviceFrame s m (answerUsed e)

/-! ### Threads that a handler resumes or kills (R330, R331) -/

/-- A handler lane's thread is resumed by RETRY or SKIP, or retired: its binding is void. -/
def threadReleased (s : State) (l mode : Nat) (r : TrapRec) (u : State) : State :=
  if mode = 2 then ((u.modKernel r.kernel fun k => { k with retired := k.retired + 1 }).voidBinding s.g.unit l).retireThread r
  else
    let x : Resume := { token := u.stamp, rec_ := r, skip := mode == 1 }
    let v : State := { u with resuming := u.resuming ++ [x] }
    ((v.scheduleAt (s.cyc + byDistance s.g.core r.core 20 80 230) (.laneResumed u.stamp)).tick).voidBinding s.g.unit l

/-- A handler lane's thread is retired with a fatal record of reason 3. -/
def threadKilled (s : State) (l : Nat) (u : State) : State :=
  match u.readBound (u.grp s.g.unit) l with
  | (u, some r) => ((u.fatalRecord r 3).voidBinding s.g.unit l).retireThread r
  | (u, none) => u

/-! ### Barriers (R201 to R208) -/

/-- The group with a barrier of its own level set; the others stand in its block or kernel (R201). -/
def barSet (l : BarLevel) (n : Nat) (b : Barrier) (g : Group) : Group :=
  match l with
  | .group => { g with bars := Store.set g.bars n b }
  | _ => g

/-- The group with the arrival flags of the issuing path at a barrier changed (R203). -/
def flagsSet (s : State) (l : BarLevel) (n : Nat) (f : Option Nat → Option Nat) (g : Group) : Group := g.setFlags s.cur.path l n f

/-- A barrier after an arrival of some weight (R201, R204): the count is what the instruction names, or the member total; none is
BARCOUNT. The last arrival completes the phase, at the clk now, which is remembered as long as a release may take (R211). -/
def arrivalOf (b : Barrier) (total named weight now : Nat) : Option Barrier :=
  let count := if named = 0 then total else named
  if count > total ∨ (b.count ≠ 0 ∧ b.count ≠ count) ∨ b.arrived + weight > count then none
  else if b.arrived + weight = count then
    some { phase := (b.phase + 1) % 2 ^ 32, count := 0, arrived := 0, dones := (b.phase, now) :: b.dones.filter fun d => now < d.2 + 450 }
  else some { b with count := count, arrived := b.arrived + weight }

/-- The issuing path with the first clk at which it issues again after the release of a barrier that it has completed (R211). -/
def releasedAfter (s : State) (l : BarLevel) (g : Group) : Group :=
  g.modPath s.cur.path fun q => { q with issueFrom := max q.issueFrom (s.cyc + l.release) }

/-- An arrival, by BAR, which then waits, or by BARA. An arrival of this phase that the path still holds is waited for first. -/
def Arrives (i : Instr) (s : State) (a : Info → Nat) (l : BarLevel) (n : Nat) (waits : Bool) : Prop :=
  Runs i s fun e =>
    let b := s.barrier s.g l n
    let o := s.operands e
    (o.stage = 2 → Sets i s e (flagsSet s l n (clearFlag o.arg))) ∧
    (o.stage ≠ 2 →
      let member (k : Kernel) : Bool := (s.g.contributes s.cur.path).all fun x => k.isMember l n s.g x.idx
      (s.kernel? s.g.kernel = none → exec i s = .next (s.trapGroup 0x10)) ∧
      ∀ k, s.kernel? s.g.kernel = some k →
        (member k = false → exec i s = .next (s.trapGroup 0x10)) ∧
        (member k = true → b.phase ∈ s.g.arrivalFlags s.cur.path l n → Waits i s (.phase l n b.phase)) ∧
        (member k = true → b.phase ∉ s.g.arrivalFlags s.cur.path l n →
          let next := arrivalOf b (k.members l n) (a e) (s.g.weight s.cur.path l) s.cyc
          (allPerformed s = false → s.g.linkLost = true → exec i s = lossReported s) ∧
          (allPerformed s = false → s.g.linkLost = false → AwaitsAccesses i s waits) ∧
          (allPerformed s = true → next = none → exec i s = .next (s.trapGroup 0x0F)) ∧
          ∀ b', allPerformed s = true → next = some b' →
            let arrived (g : Group) : Group := flagsSet s l n (fun _ => some b.phase) (barSet l n b' g)
            (s.g.linkLost = true → exec i s = lossReported s) ∧
            (s.g.linkLost = false → waits = false → SetsWith i s e arrived fun s => s.setBarrier s.g l n b') ∧
            (s.g.linkLost = false → waits = true → b'.phase ≠ b.phase →
              SetsWith i s e (fun g => releasedAfter s l (flagsSet s l n (clearFlag b.phase) (arrived g))) fun s => s.setBarrier s.g l n b') ∧
            (s.g.linkLost = false → waits = true → b'.phase = b.phase → ∃ w : Wait, w.why = .phase l n b.phase ∧ w.stage = 2 ∧
              w.arg = b.phase ∧ w.keep = s.keep ∧ exec i s =
                .next (((s.setBarrier s.g l n b').modG (flagsSet s l n fun _ => some b.phase)).modP fun q =>
                  { q with answer := none, wait := some w }))))

/-! ### Accesses to memory (R169 to R171, R177, R217) -/

/-- An access by a peer link that has not acted at its target covers an address's line: an access to the line comes after it (R356). -/
def peerPending (s : State) (a : Nat) : Bool :=
  (s.mm.flights.any fun f => f.lanes.any fun x => x.actsOn [a / 128]) || s.mm.stores.any fun y => y.lanes.any fun x => x.actsOn [a / 128]

/-- An update-only copy covers an address, or an access by a peer link that has not acted: an access to it brings that about first (R217,
R356). -/
def copied (s : State) (a : Nat) : Bool :=
  (s.mm.partials.any fun p => p.parts.any fun x =>
    128 * p.line + x.1 ≤ a && a < 128 * p.line + x.1 + ((EType.ofCode p.etype).getD .u64).elemBytes) || peerPending s a

/-- The memory subsystem without what accesses use. -/
def memoryRest (mm : MemSys) : MemSys :=
  { mm with cells := [], seen := [], flights := [], stores := [], partials := [], predictor := [], owners := [], code := [], buckets := [], prefetches := [] }

/-- The device without what accesses use: memory, free choices, the agenda, the ports' flits, and superseded buckets. -/
def accessRest (s : State) : State :=
  { deviceRest s with mm := memoryRest s.mm, free := 0, stamp := 0, agenda := [], ports := [], oldBuckets := [] }

/-- The frame of an instruction that accesses memory; its clauses about memory stand beside it. -/
structure AccessFrame (s t : State) (e : Info) (upd : Group → Group) (dst : Option Opnd) : Prop extends
    GroupFrame s t e upd dst [] where
  ages : AgesKept s t e
  caches : CachesKept s t e dst
  others : ∀ u, u ≠ s.cur.unit → t.grp u = s.grp u
  device : accessRest t = accessRest s

/-- The accesses of some lanes, in ascending order: the state that they leave, and what each comes to. One follows the other in
the state that it finds; perform makes the effect of one that does not trap. -/
def accesses (e : Info) (s : State) (k : Access) (va : Nat → Word) (size align : EType → Nat) (unal : Nat → Bool)
    (perform : State → Nat → List (Nat × Nat) → State) (lanes : List Nat) : State × List (Nat × LaneAcc) :=
  lanes.foldl (fun q l =>
    match q.1.resolve s.g l (va l) (size (etypeAt e s l)) (align (etypeAt e s l)) k (unal l) with
    | (u, .ok parts mts held) => (perform u l parts, q.2 ++ [(l, .ok parts mts held)])
    | (u, .trap cause status fault) => (u, q.2 ++ [(l, .trap cause status fault)])) (s.consume e, [])

/-- Whether an access does not trap. -/
def admitted (x : Nat × LaneAcc) : Bool :=
  match x.2 with
  | .ok _ _ _ => true
  | .trap _ _ _ => false

/-- The parts of the accesses that do not trap. -/
def partsOf (acc : List (Nat × LaneAcc)) : List (Nat × Nat) := acc.flatMap fun x =>
  match x.2 with
  | .ok parts _ _ => parts
  | .trap _ _ _ => []

/-- The records of the accesses that trap, for the lanes that each serves. -/
def accessRecords (e : Info) (s : State) (dest : Nat) (serves : Nat → List Nat) (acc : List (Nat × LaneAcc)) : List TrapRec :=
  acc.flatMap fun x =>
    match x.2 with
    | .ok _ _ _ => []
    | .trap cause status fault =>
      (serves x.1).map fun k => s.laneRec k cause dest status fault (argA e s k) (argB e s k) (argC e s k) 0

/-- The same for an instruction that has taken nothing before its effects. -/
abbrev Ends (i : Instr) (s m : State) (recs : List TrapRec) : Prop := EndsFrom i s s m recs

/-- The bytes that an access covers, in the order of its bytes. -/
def addressesOf (parts : List (Nat × Nat)) : List Nat := parts.flatMap fun p => (List.range p.2).map fun n => p.1 + n

/-- The bytes that a store's lane writes, in the order of its bytes: address and byte. A part that no port can carry is lost (R358). -/
def laneBytes (e : Info) (s : State) (l : Nat) (parts : List (Nat × Nat)) : List (Nat × Byte) :=
  let places := parts.flatMap fun p => (List.range p.2).map fun n => (p.1 + n, s.reach p.1 != .lost)
  ((places.zip (leBytes (argC e s l).toNat (etypeAt e s l).bytes)).filter (·.1.2)).map fun b => (b.1.1, b.2)

/-- A lane's access goes to a peer by a port: what it writes there it writes later (R356). -/
def toPeer (s : State) (parts : List (Nat × Nat)) : Bool := parts.any fun p => peerBase ≤ p.1 && s.reach p.1 != .lost

/-- The bytes that a store's lanes write with the instruction, in ascending lane order. -/
def storedBytes (e : Info) (s : State) (acc : List (Nat × LaneAcc)) : List (Nat × Byte) := acc.flatMap fun x =>
  match x.2 with
  | .trap _ _ _ => []
  | .ok parts _ _ => if toPeer s parts then [] else laneBytes e s x.1 parts

/-- A lane's address of a load or store. -/
def addressOf (e : Info) (s : State) (l : Nat) : Word := argA e s l + argB e s l

/-- The lines that an instruction's accesses name, by the lanes that make one (R170). -/
def linesNamed (e : Info) (s : State) (lanes : List Nat) (va : Nat → Word) : Nat :=
  namedLines (lanes.map fun l => (va l, (etypeAt e s l).bytes))

/-- A memory instruction finds fewer free request entries of its core than the lines that it names and stalls in place, or acts as P says
(R182, R219; that it waits for all of them is the model's choice, log 72). -/
def TakesRequests (i : Instr) (s : State) (n : Nat) (P : Prop) : Prop :=
  (4096 < s.requestsOf s.g.core + n → Stalls i s (.requestRoom n)) ∧ (s.requestsOf s.g.core + n ≤ 4096 → P)

/-- A load; strong ones are always aligned, and one access serves every lane of an LDC or of an s destination (R169, R171). The
destination awaits its data, which the agenda brings; each lane's datum is the image of its bytes. -/
def LoadYields (i : Instr) (s : State) (d : Opnd) (strict single : Bool) : Prop :=
  Runs i s fun e =>
    let one := single || d.isS
    let serves (l : Nat) : List Nat := if one then LaneMask.lanes (acts e s) else [l]
    let q := accesses e s .read (addressOf e s) EType.bytes EType.bytes (fun l => !strict && modeUnal (modeAt e s l))
      (fun u _ parts => (u.readParts s.g.part parts).1)
      (if one then [LaneMask.lowest (acts e s)] else LaneMask.lanes (acts e s))
    (acts e s = 0 → Sets i s e id) ∧
    let lanes := if one then [LaneMask.lowest (acts e s)] else LaneMask.lanes (acts e s)
    (acts e s ≠ 0 → TakesRequests i s (linesNamed e s lanes (addressOf e s)) (∃ m, Ends i s m (accessRecords e s d.code serves q.2) ∧ AccessFrame s m e id (some d) ∧
      (∀ a, copied s a = false → m.mm.byte a = s.mm.byte a) ∧
      ∀ r, d.reg? = some r → ∃ f : Flight, m.mm.flights = s.mm.flights ++ [f] ∧ f.unit = s.g.unit ∧ f.serial = s.g.serial ∧ f.reg = r ∧
        m.g.regState r = .pending f.token ∧ (m.agenda.any fun x => x.ev == .longLatencyComplete f.token) = true ∧
        (∀ l, (m.g.regVal r).at l = (s.g.regVal r).at l) ∧
        ∀ l parts mt held, (l, LaneAcc.ok parts mt held) ∈ q.2 → (∀ a ∈ addressesOf parts, copied s a = false) → ∀ k ∈ serves l,
          (f.lanes.find? fun x => x.lane == k).map (·.value) =
            some ((etypeAt e s l).image (leNat ((addressesOf parts).map s.mm.byte)))))

/-- An atomic or a reduction, by its opcode: the accesses, elements and values of its lanes are those of a chain of lanes, each in the
state that the one before it leaves (R213); one access serves every lane of an s destination. -/
def atomicChain (e : Info) (s : State) (opcode dest : Nat) (one : Bool) : Updates :=
  (s.operands e).atomicLanes opcode dest one (s.consume e)

/-- The value that a lane of an atomic returns, of those that the updates return by lane. -/
def returned (vs : List (Nat × Word)) (one : Bool) (l : Nat) : Word := ((vs.find? fun v => v.1 == l || one).map (·.2)).getD 0

/-- A single active lane accesses a place in HBM of which no update-only copy stands: its address and memory type. A packed pair's
place holds two elements. -/
def loneElement (e : Info) (s : State) (l pa : Nat) (mt : Nat) : Prop :=
  acts e s = BitVec.ofNat 32 (2 ^ l) ∧ l < 32 ∧
  (∃ held, ((s.consume e).resolve s.g l (argA e s l) (etypeAt e s l).bytes (etypeAt e s l).elemBytes .atomic false).2 =
    .ok [(pa, (etypeAt e s l).bytes)] [mt] held) ∧
  s.reach pa = .direct ∧ pa < hbmEnd ∧ s.mm.partials = []

/-- An operation handed to an engine (R184, R189). Without an active lane nothing happens; while the counter is 64 or the queue is
full the path stalls; else the operation is queued with its operands as read, the class's counter and sequence number go up, and
the handle register awaits its completion word. -/
def Accepts (i : Instr) (s : State) (d : Opnd) (cls opcode : Nat) (args : Info → List Word) : Prop :=
  Runs i s fun e =>
    let full : Bool := Store.getOr s.g.cnt cls 0 ≥ 64 || s.engineFull s.g cls
    (acts e s = 0 → Sets i s e id) ∧
    (acts e s ≠ 0 → full = true → Stalls i s (.engineRoom cls)) ∧
    (acts e s ≠ 0 → full = false → ∃ (t : State) (op : EngineOp), exec i s = .next t ∧ t.ops = s.ops ++ [op] ∧
      op.unit = s.g.unit ∧ op.serial = s.g.serial ∧ op.core = s.g.core ∧ op.cls = cls ∧ op.opcode = opcode ∧ op.args = args e ∧
      op.seq = Store.getOr s.g.seq cls 0 ∧ op.dst = d.reg? ∧ op.desc = none ∧ op.done = 0 ∧ op.status = 0 ∧ op.cancel = false ∧
      op.space = s.wideSpace s.g (acts e s) ∧ op.mode = s.g.uniformMode s.cur.path ∧
      (∀ r, d.reg? = some r → t.g.regState r = .pending op.token ∧ ∀ l, (t.g.regVal r).at l = (s.g.regVal r).at l) ∧
      (cls = 0 → (t.agenda.any fun x => x.ev == .late op.token) = true) ∧
      AgesKept s t e ∧ CachesKept s t e (some d) ∧
      GroupFrame s t e (fun g => { g with cnt := Store.set g.cnt cls (Store.getOr g.cnt cls 0 + 1)
                                          seq := Store.set g.seq cls ((Store.getOr g.seq cls 0 + 1) % 2 ^ 16) }) (some d) [] ∧
      (∀ u, u ≠ s.cur.unit → t.grp u = s.grp u) ∧ accessRest { t with ops := [] } = accessRest { s with ops := [] } ∧
      ∀ x, copied s x = false → t.mm.byte x = s.mm.byte x)

/-- A store (R169, R170): every byte takes the value of the highest-numbered lane that names it, and every other byte stays. A
lost store is left for a release to report (R358), and a lane that stores at a peer acts there later (R356; log 8). -/
def StoreEffect (s m : State) (e : Info) (acc : List (Nat × LaneAcc)) : Prop :=
  AccessFrame s m e (fun g => if (partsOf acc).any (fun p => s.reach p.1 == .lost) then { g with linkLost := true } else g) none ∧
  (∀ a, copied s a = false → m.mm.byte a = (((storedBytes e s acc).reverse.find? fun b => b.1 == a).map (·.2)).getD (s.mm.byte a)) ∧
  (acc.any admitted = true → m.performed s.g s.cur.path = false) ∧
  ∀ l parts mt held, (l, LaneAcc.ok parts mt held) ∈ acc → toPeer s parts = true →
    ∃ y ∈ m.mm.stores, y.unit = s.g.unit ∧ y.serial = s.g.serial ∧ ∃ z ∈ y.lanes, z.lane = l ∧ ∃ ws,
      z.act = some (.write (s.agent (s.laneUnit s.g l)) ws) ∧
      (ws.flatMap fun w => w.2.zipIdx.map fun b => (w.1 + b.2, b.1)) = laneBytes e s l parts

/-- The accesses of a store's lanes: each is admitted in the state that the one before it leaves, and the bytes are written once all have
been (R170). -/
def storeAccesses (e : Info) (s : State) (strict : Bool) : List (Nat × LaneAcc) :=
  (accesses e s .write (addressOf e s) EType.bytes EType.bytes (fun l => !strict && modeUnal (modeAt e s l))
    (fun u _ parts => parts.foldl (fun u p => u.spendToken s.g.part p.1) u) (LaneMask.lanes (acts e s))).2

/-! ### Events -/

/-- An event answers a next state, of which P holds. -/
def Happens (i : Instr) (s : State) (P : State → Prop) : Prop := ∃ t, exec i s = .next t ∧ P t

/-- Of the device only one group has changed. -/
structure OnlyGroup (s t : State) (u : Nat) : Prop where
  others : ∀ v, v ≠ u → t.grp v = s.grp v
  device : deviceRest t = deviceRest s
  clock : t.cyc = s.cyc

/-- A group's age latches are invalid. -/
def AgesGoneOf (g : Group) : Prop := ∀ j, g.ageValid.getD j false = false

/-- A group's upper levels are invalid (R65, R66). -/
def UpperGoneOf (g : Group) : Prop := AgesGoneOf g ∧ ∀ n, Store.getOr g.cacheValid n 0 = 0

/-- Every lane of a group is retired, as far as the group is still there. -/
def LanesGone (t : State) (u : Nat) : Prop := t.hasGrp u = true → ∀ x ∈ (t.grp u).slices, x.idx < 8 → x.run = 0 ∧ x.gone = 15

/-- A group's registers, predicates, operand cache and tiles stay. -/
def FilesKept (g h : Group) : Prop :=
  h.gregs = g.gregs ∧ h.sregs = g.sregs ∧ h.preds = g.preds ∧ h.caches = g.caches ∧ h.tiles = g.tiles

end Sys2Proof.Safety
end

