-- ==== Sys2Proof/Certificates/Slice0/Obligations.lean ====
section
/-!
DEFINITION. Obligations.lean: the statements about the device.
-/
open Sys2Proof Sys2Proof.Machine Sys2Proof.Safety

/-! ### Integer, logic and bit-field instructions -/

/-- R48, R148, R149: the ranges of the integer types, to which SAT clamps, and the typed integer instructions with an exact result,
with their frame. -/
def Obligations.IntegerResults : Prop :=
  (let range (t : EType) (lo hi : Int) : Prop := leastOf t = lo ∧ greatestOf t = hi
   range .i8 (-128) 127 ∧ range .u8 0 255 ∧ range .i16 (-32768) 32767 ∧ range .u16 0 65535 ∧
   range .i32 (-2147483648) 2147483647 ∧ range .u32 0 4294967295 ∧
   range .i64 (-9223372036854775808) 9223372036854775807 ∧ range .u64 0 18446744073709551615) ∧
  ∀ (d a b : Opnd) (s : State), Issuing s →
    IntegerYields (.iadd d a b) s d true (fun _ x y _ => x + y) ∧
    IntegerYields (.isub d a b) s d true (fun _ x y _ => x - y) ∧
    IntegerYields (.imul d a b) s d true (fun _ x y _ => x * y) ∧
    IntegerYields (.imulh d a b) s d false (fun w x y _ => (x * y) / 2 ^ w) ∧
    IntegerYields (.imad d a b) s d true (fun _ x y c => x * y + c) ∧
    IntegerYields (.imin d a b) s d false (fun _ x y _ => min x y) ∧
    IntegerYields (.imax d a b) s d false (fun _ x y _ => max x y) ∧
    IntegerYields (.iabs d a) s d true (fun _ x _ _ => (x.natAbs : Int)) ∧
    IntegerYields (.ineg d a) s d true (fun _ x _ _ => -x)

/-- R148, R149: LEA adds b elements of ETYPE to a, modulo 2^64; IMULW writes the product at twice the width. -/
def Obligations.WideResults : Prop :=
  ∀ (d a b : Opnd) (s : State), Issuing s →
    Runs (.lea d a b) s (fun e => Yields (.lea d a b) s e d fun l =>
      argA e s l + argB e s l * BitVec.ofNat 64 (etypeAt e s l).bytes) ∧
    Runs (.imulw d a b) s (fun e => Yields (.imulw d a b) s e d fun l =>
      let t := etypeAt e s l
      intWord (2 * t.width) t.signed (intArg t (argA e s l) * intArg t (argB e s l)))

/-- R150: IDIV and IREM divide toward zero; a zero divisor gives the stated value, or a DIVZERO lane trap under DZT with status 0
and that value for repair. -/
def Obligations.Divisions : Prop :=
  ∀ (d a b : Opnd) (s : State), Issuing s →
    Runs (.idiv d a b) s (fun e => PerLane (.idiv d a b) s e d fun l =>
      let t := etypeAt e s l
      let m := modeAt e s l
      let x := intArg t (argA e s l)
      let y := intArg t (argB e s l)
      let fit := intResult t (modeSat m)
      let atZero := if x > 0 then greatestOf t else if x < 0 then leastOf t else 0
      if y = 0 then (if modeDzt m then .trap 0x01 0 (fit atZero) 0 else .val (fit atZero)) else .val (fit (x.tdiv y))) ∧
    Runs (.irem d a b) s (fun e => PerLane (.irem d a b) s e d fun l =>
      let t := etypeAt e s l
      let x := intArg t (argA e s l)
      let y := intArg t (argB e s l)
      let fit := intResult t false
      if y = 0 then (if modeDzt (modeAt e s l) then .trap 0x01 0 (fit x) 0 else .val (fit x)) else .val (fit (x - y * x.tdiv y)))

/-- R148, R154: the raw instructions work on all 64 bits; SEL chooses by the guard predicate in every run lane, whatever GE holds; and
the words that R154 gives. Into an s register SEL writes the choice of the lowest active lane, which is the model's (log 57). -/
def Obligations.LogicResults : Prop :=
  decode 0x3F626061 = .ok (.sel (.greg 50) (.greg 48) (.greg 49)) ∧ decode 0x2B43600D = .ok (.icmp .ult 3 (.greg 48) .lit) ∧
  ∀ (d a b : Opnd) (s : State), Issuing s →
    Runs (.and d a b) s (fun e => Yields (.and d a b) s e d fun l => argA e s l &&& argB e s l) ∧
    Runs (.or d a b) s (fun e => Yields (.or d a b) s e d fun l => argA e s l ||| argB e s l) ∧
    Runs (.xor d a b) s (fun e => Yields (.xor d a b) s e d fun l => argA e s l ^^^ argB e s l) ∧
    Runs (.andn d a b) s (fun e => Yields (.andn d a b) s e d fun l => argA e s l &&& ~~~(argB e s l)) ∧
    Runs (.not d a) s (fun e => Yields (.not d a) s e d fun l => ~~~(argA e s l)) ∧
    Runs (.sel d a b) s (fun e => acts e s = s.g.live s.cur.path ∧ Yields (.sel d a b) s e d fun l =>
      let m := modeAt e s l
      if xor ((s.g.pred (modeGP m)).getLsbD l) (modeGN m) then argA e s l else argB e s l)

/-- R148, R151: shifts, rotates, reversal and bit fields, bit by bit. -/
def Obligations.ShiftsAndFields : Prop :=
  ∀ (d a b : Opnd) (s : State), Issuing s →
    BitsYield (.shl d a b) s d (fun t x n _ => extended t fun k => decide (n.toNat ≤ k) && x.getLsbD (k - n.toNat)) ∧
    BitsYield (.shr d a b) s d (fun t x n _ => extended t fun k => decide (k + n.toNat < t.width) && x.getLsbD (k + n.toNat)) ∧
    BitsYield (.sar d a b) s d (fun t x n _ => extended t fun k => x.getLsbD (min (k + n.toNat) (t.width - 1))) ∧
    BitsYield (.rotl d a b) s d (fun t x n _ => extended t fun k => x.getLsbD ((k + t.width - n.toNat % t.width) % t.width)) ∧
    BitsYield (.brev d a) s d (fun t x _ _ => extended t fun k => x.getLsbD (t.width - 1 - k)) ∧
    BitsYield (.bfx d a b) s d (fun t x n _ k =>
      let lo := n.toNat % 64
      let len := min (n.toNat / 2 ^ 8 % 2 ^ 7) (64 - lo)
      if k < len then x.getLsbD (lo + k) else t.signed && decide (0 < len) && x.getLsbD (lo + len - 1)) ∧
    BitsYield (.bfi d a b) s d (fun _ x n c k =>
      let lo := n.toNat % 64
      let len := min (n.toNat / 2 ^ 8 % 2 ^ 7) (64 - lo)
      if lo ≤ k ∧ k < lo + len then x.getLsbD (k - lo) else c.getLsbD k)

/-- R148: POPC, CLZ and CTZ write their counts over the low w bits as U64. -/
def Obligations.BitCounts : Prop :=
  ∀ (d a : Opnd) (s : State), Issuing s →
    Runs (.popc d a) s (fun e => Yields (.popc d a) s e d fun l =>
      word ((List.range (etypeAt e s l).width).filter fun k => (argA e s l).getLsbD k).length) ∧
    Runs (.clz d a) s (fun e => ∃ n : Nat → Nat, Yields (.clz d a) s e d (fun l => word (n l)) ∧
      ∀ l, l < 32 → (acts e s).getLsbD l = true →
        let w := (etypeAt e s l).width
        n l ≤ w ∧ (∀ k, k < n l → (argA e s l).getLsbD (w - 1 - k) = false) ∧
        (n l < w → (argA e s l).getLsbD (w - 1 - n l) = true)) ∧
    Runs (.ctz d a) s (fun e => ∃ n : Nat → Nat, Yields (.ctz d a) s e d (fun l => word (n l)) ∧
      ∀ l, l < 32 → (acts e s).getLsbD l = true →
        let w := (etypeAt e s l).width
        n l ≤ w ∧ (∀ k, k < n l → (argA e s l).getLsbD k = false) ∧ (n l < w → (argA e s l).getLsbD (n l) = true))

/-! ### Floating point, conversions and log numbers -/

/-- R155, R156, R159: the arithmetic instructions round the exact value once, per element; an enabled flag traps FPEXC.
Where the spec leaves the way open, the model chooses: log 10. -/
def Obligations.FloatResults : Prop :=
  ∀ (d a b : Opnd) (s : State), Issuing s →
    FloatYields (.fadd d a b) s d (fun x z r a b _ => x.finish z r (a.add r b)) ∧
    FloatYields (.fsub d a b) s d (fun x z r a b _ => x.finish z r (a.add r b.negate)) ∧
    FloatYields (.fmul d a b) s d (fun x z r a b _ => x.finish z r (a.mul b)) ∧
    FloatYields (.ffma d a b) s d (fun x z r a b c => fusedMulAdd x z r a b c) ∧
    FloatYields (.ffms d a b) s d (fun x z r a b c => fusedMulAdd x z r a b c.negate) ∧
    FloatYields (.fdiv d a b) s d (fun x z r a b _ => x.div z r a b) ∧
    FloatYields (.fsqrt d a) s d (fun x z r a _ _ => x.sqrt z r a) ∧
    FloatYields (.frcp d a) s d (fun x z r a _ _ => x.div z r (.num false 1 0) a) ∧
    FloatYields (.frsq d a) s d (fun x z r a _ _ => x.rsqrt z r a) ∧
    FloatYields (.fexp2 d a) s d (fun x z r a _ _ => x.exp2 z r a) ∧
    FloatYields (.flog2 d a) s d (fun x z r a _ _ => x.log2 z r a) ∧
    Runs (.fscale d a b) s (fun e => PerLane (.fscale d a b) s e d fun l =>
      let m := modeAt e s l
      floatOutcome m (perElement m (argA e s l) (argA e s l) (argC e s l) fun x u _ _ =>
        x.scale (modeFtz m) (modeRnd m) (x.operand (modeFtz m) u) (intArg .i32 (argB e s l)))) ∧
    Runs (.fdot2 d a b) s (fun e => PerLane (.fdot2 d a b) s e d fun l =>
      let m := modeAt e s l
      let z := modeFtz m
      match (etypeAt e s l).kind with
      | .packed x =>
        let half (v : Word) (k : Nat) : Val := x.operand z (v.toNat / 2 ^ (x.width * k) % 2 ^ x.width)
        floatOutcome m (Fmt.fp32.finish z (modeRnd m) (dot2 (modeRnd m) (half (argA e s l) 0) (half (argB e s l) 0)
          (half (argA e s l) 1) (half (argB e s l) 1) (Fmt.fp32.operand z (argC e s l).toNat)))
      | _ => .val 0)

/-- R157: FMIN and FMAX choose an operand's bits, FABS and FNEG change the sign bit, FRND rounds to an integral value by its imm8,
FCLASS writes a class mask. -/
def Obligations.FloatBitResults : Prop :=
  ∀ (d a b : Opnd) (i : BitVec 8) (s : State), Issuing s →
    ElementYields (.fmin d a b) s d (fun x _ a b => x.minMax false a b) ∧
    ElementYields (.fmax d a b) s d (fun x _ a b => x.minMax true a b) ∧
    ElementYields (.fabs d a) s d (fun x _ a _ => { bits := a % 2 ^ (x.ebits + x.fbits) }) ∧
    ElementYields (.fneg d a) s d (fun x _ a _ => { bits := (a + 2 ^ (x.ebits + x.fbits)) % 2 ^ (x.ebits + x.fbits + 1) }) ∧
    ElementYields (.frnd d a i) s d (fun x r a _ => x.rint (if i = 5 then r else Rnd.ofCode i.toNat) a (x.unpack a)) ∧
    Runs (.fclass d a) s (fun e => Yields (.fclass d a) s e d fun l => word (classMask (modeAt e s l) (argA e s l).toNat))

/-- R158, R53: CVT and CVTS convert once under RND, LADD and LMUL compute one LNS8 code.
Where the spec leaves the way open, the model chooses: log 68. -/
def Obligations.Conversions : Prop :=
  ∀ (d a b : Opnd) (k : BitVec 8) (s : State), Issuing s →
    Runs (.cvt d a k) s (fun e => PerLane (.cvt d a k) s e d fun l =>
      let m := modeAt e s l
      let z := modeFtz m
      let dst := (EType.ofCode k.toNat).getD .u64
      match (etypeAt e s l).kind, dst.kind with
      | .packed x, .packed y =>
        let half (n : Nat) : FRes :=
          let v := x.operand z ((argA e s l).toNat / 2 ^ (x.width * n) % 2 ^ x.width)
          (y.roundVal z (modeRnd m) v).raise v.isSNan
        floatOutcome m { bits := (half 0).bits + 2 ^ y.width * (half 1).bits, flags := (half 0).flags.join (half 1).flags }
      | _, _ => floatOutcome m (convert (etypeAt e s l) dst z (modeSat m) (modeRnd m) (argA e s l).toNat)) ∧
    Runs (.cvts d a b) s (fun e => PerLane (.cvts d a b) s e d fun l =>
      let m := modeAt e s l
      let dst := (s.laneSlotType m (if e.uniform then LaneMask.lowest (acts e s) else l)).getD .u64
      let v := scaledVal ((etypeAt e s l).value (modeFtz m) (argA e s l).toNat) (Scale.ofCode (argB e s l).toNat)
      floatOutcome m ((dst.ofVal (modeFtz m) (modeRnd m) v.1).raise v.2)) ∧
    Runs (.ladd d a b) s (fun e => PerLane (.ladd d a b) s e d fun l =>
      floatOutcome (modeAt e s l) (lnsAdd (modeRnd (modeAt e s l)) (Lns.ofCode ((argA e s l).toNat % 256))
        (Lns.ofCode ((argB e s l).toNat % 256)))) ∧
    Runs (.lmul d a b) s (fun e => PerLane (.lmul d a b) s e d fun l =>
      floatOutcome (modeAt e s l) (lnsMul (modeRnd (modeAt e s l)) (Lns.ofCode ((argA e s l).toNat % 256))
        (Lns.ofCode ((argB e s l).toNat % 256))))

/-- R152, R153: ICMP writes the condition of the operands, signed as ETYPE is, and unsigned for codes 8 to 11; FCMP writes the
condition in each lane that raises no enabled flag. A lane that raises an enabled one traps FPEXC, whose record's status marks a predicate
destination and whose repair is the condition. -/
def Obligations.Comparisons : Prop :=
  (∀ (c : Cond) (p : Fin 8) (a b : Opnd) (s : State), Issuing s →
     Runs (.icmp c p a b) s (fun e => Decides (.icmp c p a b) s e p fun l =>
       let t := etypeAt e s l
       let x := intArg t (argA e s l)
       let y := intArg t (argB e s l)
       let u := (argA e s l).toNat % 2 ^ t.width
       let v := (argB e s l).toNat % 2 ^ t.width
       match c with
       | .eq => decide (x = y)
       | .ne => decide (x ≠ y)
       | .lt => decide (x < y)
       | .le => decide (x ≤ y)
       | .gt => decide (x > y)
       | .ge => decide (x ≥ y)
       | .ult => decide (u < v)
       | .ule => decide (u ≤ v)
       | .ugt => decide (u > v)
       | .uge => decide (u ≥ v)
       | .always => true
       | _ => false)) ∧
  (∀ (c : Cond) (p : Fin 8) (a b : Opnd) (s : State), Issuing s →
     Runs (.fcmp c p a b) s (fun e =>
       let x (l : Nat) : Val := cmpValue (etypeAt e s l) (modeFtz (modeAt e s l)) (argA e s l).toNat
       let y (l : Nat) : Val := cmpValue (etypeAt e s l) (modeFtz (modeAt e s l)) (argB e s l).toNat
       let uno (l : Nat) : Bool := (x l).isNan || (y l).isNan
       let k (l : Nat) : Int := (x l).cmp (y l)
       let holds (l : Nat) : Bool :=
         match c with
         | .eq => !uno l && decide (k l = 0)
         | .ne => uno l || decide (k l ≠ 0)
         | .lt => !uno l && decide (k l < 0)
         | .le => !uno l && decide (k l ≤ 0)
         | .gt => !uno l && decide (k l > 0)
         | .ge => !uno l && decide (k l ≥ 0)
         | .ord => !uno l
         | .uno => uno l
         | .ult => uno l || decide (k l < 0)
         | .ule => uno l || decide (k l ≤ 0)
         | .ugt => uno l || decide (k l > 0)
         | .uge => uno l || decide (k l ≥ 0)
         | .ueq => uno l || decide (k l = 0)
         | .one => !uno l && decide (k l ≠ 0)
         | .always => true
         | .never => false
       let invalid (l : Nat) : Bool := (x l).isSNan || (y l).isSNan || ([Cond.lt, .le, .gt, .ge].contains c && uno l)
       let f (l : Nat) : LaneRes :=
         if invalid l && decide (modeFpx (modeAt e s l) % 2 = 1) then .trap 0x02 17 (word (holds l).toNat) 0 else .val (word (holds l).toNat)
       ((∀ l, trapsIn e s f l = false) → Decides (.fcmp c p a b) s e p holds) ∧
       ∀ r rs, recordsOf e s (c.code * 8 + p.val) f = r :: rs →
         (s.g.kind = .curator → exec (.fcmp c p a b) s = .next (s.trapGroup 0x02)) ∧
         (s.g.kind ≠ .curator → ∃ m, exec (.fcmp c p a b) s = .next (m.detachLanes s.cur.unit s.cur.path (r :: rs) s.cyc) ∧
           (∀ l, l < 32 → (m.g.pred p).getLsbD l = if (soundLanes e s f).getLsbD l then holds l else (s.g.pred p).getLsbD l) ∧
           AgesKept s m e ∧ Stepped s m e id none [p.val])))

/-! ### Lanes, predicates and registers -/

/-- R161: a shuffle gives each active lane the value of its source lane, or its own where that lane is outside Active(). -/
def Obligations.Shuffles : Prop :=
  ∀ (d a b : Opnd) (n : Fin 32) (s : State), Issuing s →
    let moves (i : Instr) (src : Info → Nat → Option Nat) : Prop := Runs i s fun e => Yields i s e d fun l =>
      match src e l with
      | some m => if (acts e s).getLsbD m then argA e s m else argA e s l
      | none => argA e s l
    moves (.shfl d a b) (fun e l => some ((argB e s l).toNat % 32)) ∧
    moves (.shflu d a n) (fun _ l => if n ≤ l then some (l - n) else none) ∧
    moves (.shfld d a n) (fun _ l => if l + n < 32 then some (l + n) else none) ∧
    moves (.shflx d a n) (fun _ l => some (l ^^^ n))

/-- R161: BALLOT and MATCH give masks of lanes, RDLANE the value of one lane of a g register, active or not, and WRLANE writes one active
lane and pushes the register's contents in every active lane. Where the spec leaves the way open, the model chooses: log 80. -/
def Obligations.LaneReads : Prop :=
  ∀ (d a b : Opnd) (n : Bool) (q : Fin 8) (r : Fin 208) (s : State), Issuing s →
    Runs (.ballot d n q) s (fun e => ∃ v : Word, Yields (.ballot d n q) s e d (fun _ => v) ∧ ∀ k, k < 64 →
      v.getLsbD k = ((acts e s).getLsbD k && xor ((s.g.pred q).getLsbD k) n)) ∧
    Runs (.matchL d a) s (fun e => ∃ v : Nat → Word, Yields (.matchL d a) s e d v ∧ ∀ l, l < 32 → ∀ k, k < 64 →
      (v l).getLsbD k = ((acts e s).getLsbD k &&
        decide ((argA e s k).toNat % 2 ^ (etypeAt e s l).width = (argA e s l).toNat % 2 ^ (etypeAt e s l).width))) ∧
    Runs (.rdlane d a b) s (fun e => Yields (.rdlane d a b) s e d fun _ => argA e s ((argB e s 0).toNat % 32)) ∧
    Runs (.wrlane (.greg r) a b) s (fun e => ∃ t, exec (.wrlane (.greg r) a b) s = .next t ∧
      let m := (argB e s 0).toNat % 32
      Written s t e (.greg r) (argA e s) (maskOf fun l => decide (l = m) && (acts e s).getLsbD l) ∧
      Pushed s t e (t.g.regVal (0x30 + r)).at (acts e s) ∧ Stepped s t e id (some (.greg r)) [])

/-- R161: the predicate instructions write their predicate in the lanes of Active(). A predicate field names a predicate, inverted
where its n is set. -/
def Obligations.PredicateResults : Prop :=
  ∀ (k : Fin 16) (p q r : Fin 8) (n m : Bool) (a : Opnd) (bit : Fin 64) (s : State), Issuing s →
    let x (l : Nat) : Bool := xor ((s.g.pred q).getLsbD l) n
    let y (l : Nat) : Bool := xor ((s.g.pred r).getLsbD l) m
    Runs (.vote k p n q) s (fun e => Decides (.vote k p n q) s e p fun _ =>
      let lanes := LaneMask.lanes (acts e s)
      match k.val with
      | 0 => lanes.all x
      | 1 => lanes.any x
      | 2 => lanes.all x || !lanes.any x
      | _ => !lanes.any x) ∧
    Runs (.pand p n q m r) s (fun e => Decides (.pand p n q m r) s e p fun l => x l && y l) ∧
    Runs (.por p n q m r) s (fun e => Decides (.por p n q m r) s e p fun l => x l || y l) ∧
    Runs (.pxor p n q m r) s (fun e => Decides (.pxor p n q m r) s e p fun l => xor (x l) (y l)) ∧
    Runs (.pnot p n q) s (fun e => Decides (.pnot p n q) s e p fun l => !x l) ∧
    Runs (.pmov p a) s (fun e => Decides (.pmov p a) s e p fun l => (argA e s 0).getLsbD l) ∧
    Runs (.pset p a bit) s (fun e => Decides (.pset p a bit) s e p fun l => (argA e s l).getLsbD bit)

/-- R78, R75: moves and reads of shape records, format slots, register states and special registers. MOVU does not push. -/
def Obligations.Moves : Prop :=
  ∀ (d a : Opnd) (h f : Fin 8) (sel : BitVec 8) (s : State), Issuing s →
    Runs (.mov d a) s (fun e => Yields (.mov d a) s e d (argA e s)) ∧
    Runs (.movu d a) s (fun e => ∃ t, exec (.movu d a) s = .next t ∧ Written s t e d (argA e s) (acts e s) ∧ AgesKept s t e ∧
      Stepped s t e id (some d) []) ∧
    Runs (.shapeq d h) s (fun e => Yields (.shapeq d h) s e d fun _ => Store.getOr s.g.shapes h 0) ∧
    (s.g.kind = .user → Runs (.fslot d f) s (fun e => Yields (.fslot d f) s e d fun _ => word (Store.getOr s.g.fslots f 0))) ∧
    (s.g.kind = .curator → Runs (.fslot d f) s (fun e => Yields (.fslot d f) s e d fun _ => 0)) ∧
    (∀ r, a.reg? = some r → Runs (.testf d a) s (fun e => Yields (.testf d a) s e d fun _ =>
      match s.g.regState r with
      | .dead => 0
      | .full => 2
      | _ => 1)) ∧
    Runs (.rdsr d sel) s (fun e => ∀ v, s.readSr s.g sel.toNat = some v → Yields (.rdsr d sel) s e d fun _ => v)

/-- R75, R368: what the selectors of RDSR name: of a handler group the base of its folio and the number of its bound records (log 35), and of
a curator the entries of its core's mailbox that no group has taken, its firmware version, and 0 for the write-only %sreq. A selector that no
row names makes the instruction illegal. -/
def Obligations.SpecialRegisters : Prop :=
  ∀ s : State,
    let g := s.g
    let reads (sel : Nat) : Option Word := s.readSr g sel
    reads 0x00 = some (word s.cyc) ∧ reads 0x01 = some (word g.gid) ∧ reads 0x02 = some (word g.bid) ∧
    reads 0x03 = some (word g.cid) ∧ reads 0x04 = some (word (g.unit / 64)) ∧ reads 0x05 = some (word (g.unit % 64)) ∧
    reads 0x06 = some (word g.ctx) ∧ reads 0x07 = some (word g.part) ∧ reads 0x08 = some (word g.alloc) ∧
    reads 0x10 = some g.tpc ∧ reads 0x11 = some (word g.tcause) ∧ reads 0x12 = some g.uipc ∧ reads 0x14 = some g.cbase ∧
    reads 0x15 = some (word g.csize) ∧ reads 0x40 = some (Store.getOr s.sgh (g.unit / 64) 0) ∧
    (∀ n, n < 32 → reads (0x48 + n) = some (Store.getOr (s.part g.part).system n 0)) ∧
    reads 0x09 = some (word s.devno) ∧ reads 0x13 = some (word (s.part g.part).done) ∧
    reads 0x20 = some (if g.kind = .handler then 0xFFFD000000000000 else 0) ∧ reads 0x21 = some (word g.bound.length) ∧
    reads 0x41 = some (word ((s.mailbox (g.unit / 64)).filter fun m => !m.taken).length) ∧ reads 0x42 = some (word g.fw) ∧
    reads 0x43 = some 0 ∧
    (∀ n, n < 256 → (reads n = none ↔ n ∉ [0x10, 0x11, 0x12, 0x13, 0x14, 0x15, 0x20, 0x21, 0x40, 0x41, 0x42, 0x43] ∧ 0x09 < n ∧
      ¬(0x48 ≤ n ∧ n ≤ 0x67))) ∧
    ∀ n d e, reads n = none → entryOf (.rdsr d (BitVec.ofNat 8 n)) s = some e → n < 256 → lawful e s = false

/-- R66, R69, R78: KILL, SETE and SETF change the state of the register that they name and leave its contents; CINV clears the valid
bits of the slot that it names, or of every slot for z, in every lane. -/
def Obligations.RegisterStates : Prop :=
  (∀ (a : Opnd) (r : Nat) (s : State), Issuing s → a.reg? = some r →
     let becomes (i : Instr) (st : RegState) : Prop := Runs i s fun e => ∃ t, exec i s = .next t ∧ t.g.regState r = st ∧
       (∀ l, (t.g.regVal r).at l = (s.g.regVal r).at l) ∧ AgesKept s t e ∧ Stepped s t e id (some a) []
     becomes (.kill a) .dead ∧
     becomes (.sete a) (match s.g.regState r with
       | .pending k => .pending k
       | _ => .opened) ∧
     becomes (.setf a) (match s.g.regState r with
       | .dead => .full
       | st => st)) ∧
  (∀ (a : Opnd) (s : State), Issuing s →
     Runs (.cinv a) s fun e => ∃ t, exec (.cinv a) s = .next t ∧ AgesKept s t e ∧
       (∀ n : Fin 8, (∀ l, (Store.getOr t.g.caches n []).at l = (Store.getOr s.g.caches n []).at l) ∧
         Store.getOr t.g.cacheValid n 0 = if a = .cache n ∨ a = .zero then 0
           else if clears e s then 0 else Store.getOr s.g.cacheValid n 0) ∧
       GroupFrame s t e id none [] ∧ DeviceFrame s t id ∧ ∀ x, t.mm.byte x = s.mm.byte x)

/-- R73, R74, R77, R78: MODE and MODEF write the mode register of every slice of the path that has a run lane, MODEF the field that its
imm8 names; SHAPE writes a shape record. A value that R73 or R74 forbids, one that does not fit its field, and an imm8 above 11 raise
ILLEGAL, which changes no mode register. -/
def Obligations.ModeAndShape : Prop :=
  ∀ (a : Opnd) (i : BitVec 8) (h : Fin 8) (s : State), Issuing s →
    let modes (f : Word32 → Word32) (g : Group) : Group :=
      { g with slices := g.slices.map fun x => if x.inPath s.cur.path && x.run != 0 then { x with mode := f x.mode } else x }
    Runs (.mode a) s (fun e =>
      let v : Word32 := (argA e s 0).setWidth 32
      if bitsOf v.toNat 31 27 = 0 ∧ bitsOf v.toNat 15 13 < 6 ∧ bitsOf v.toNat 12 10 < 5 ∧ bitsOf v.toNat 9 5 < 16 ∧ bitsOf v.toNat 9 5 ≠ 7
      then Sets (.mode a) s e (modes fun _ => v) else exec (.mode a) s = .next (s.trapGroup 0x09)) ∧
    Runs (.modef a i) s (fun e =>
      let v := (argA e s 0).toNat
      -- GP, GN, GE, ETYPE, RND, SCOPE, SAT, FTZ, DZT, UNAL, FPX and FS: lowest bit and width
      let field := [(0, 3), (3, 1), (4, 1), (5, 5), (10, 3), (13, 3), (16, 1), (17, 1), (18, 1), (19, 1), (20, 4), (24, 3)].getD i.toNat (0, 0)
      let lo := field.1
      let w := field.2
      if v < 2 ^ w ∧ (i = 3 → v < 16 ∧ v ≠ 7) ∧ (i = 4 → v < 5) ∧ (i = 5 → v < 6) then
        ∃ f : Word32 → Word32, Sets (.modef a i) s e (modes f) ∧ ∀ m k, k < 32 →
          (f m).getLsbD k = if lo ≤ k ∧ k < lo + w then v.testBit (k - lo) else m.getLsbD k
      else exec (.modef a i) s = .next (s.trapGroup 0x09)) ∧
    (11 < i.toNat → exec (.modef a i) s = .next (s.trapGroup 0x09)) ∧
    (s.g.kind ≠ .handler → s.g.hdl.length < 2 → ∀ u entry, s.usableEntry s.g = (u, some entry) →
      (s.trapGroup 0x09).g.slices.map (·.mode) = s.g.slices.map (·.mode)) ∧
    Runs (.shape h a) s (fun e =>
      let v := argA e s 0
      if bitsOf v.toNat 63 62 = 0 ∧ bitsOf v.toNat 61 60 ≠ 3 then
        Sets (.shape h a) s e fun g => { g with shapes := Store.set g.shapes h v }
      else exec (.shape h a) s = .next (s.trapGroup 0x09))

/-- R5, R75, R78, R366, R368: WRSR writes the group's trap and call-stack registers, the core's %sgh, the packet that a curator posts, and
the partition's system entries, whose reserved bits raise ILLEGAL. -/
def Obligations.SpecialWrites : Prop :=
  ∀ (a : Opnd) (sel : BitVec 8) (s : State), Issuing s →
    Runs (.wrsr a sel) s fun e =>
      let i : Instr := .wrsr a sel
      let v := argA e s 0
      (sel = 0x10 → Sets i s e fun g => { g with tpc := v }) ∧
      (sel = 0x12 → Sets i s e fun g => { g with uipc := v }) ∧
      (sel = 0x14 → if v.toNat % 4096 = 0 then Sets i s e fun g => { g with cbase := v } else exec i s = .next (s.trapGroup 0x09)) ∧
      (sel = 0x15 → if v.toNat % 2 ^ 32 ≠ 0 ∧ v.toNat % 2 ^ 32 % 256 = 0 then
          Sets i s e fun g => { g with csize := v.toNat % 2 ^ 32 } else exec i s = .next (s.trapGroup 0x09)) ∧
      (sel = 0x40 → ∃ t, exec i s = .next t ∧ AgesKept s t e ∧ CachesKept s t e none ∧ GroupFrame s t e id none [] ∧
        DeviceFrame s t (fun s => { s with sgh := Store.set s.sgh (s.g.unit / 64) v })) ∧
      (sel = 0x43 → if v.toNat % 64 = 0 then SetsWith i s e id (fun s => (s.spend e.cost).post s.g v.toNat)
        else exec i s = .next (s.trapGroup 0x09)) ∧
      ∀ n, n < 32 → sel.toNat = 0x48 + n → if bitsOf v.toNat 4 2 ≠ 0 then exec i s = .next (s.trapGroup 0x09)
        else ∃ t, exec i s = .next t ∧ AgesKept s t e ∧ CachesKept s t e none ∧ GroupFrame s t e id none [] ∧
          DeviceFrame s t (fun s => s.modPart s.g.part fun p => { p with system := Store.set p.system n v })

/-! ### Control flow -/

/-- R126, R135: BRA transfers every lane of Active(), BR the lanes whose predicate is 1, inverted by n. A slice runs its taken lanes
first and defers its fall-through lanes; without a taken lane it falls through to the next bundle. -/
def Obligations.Branches : Prop :=
  ∀ (d : BitVec 24) (k : BitVec 20) (n : Bool) (p : Fin 8) (s : State), Issuing s →
    let goes (i : Instr) (taken : Info → LaneMask) (target : Word) : Prop := Runs i s fun e => ∃ t, exec i s = .next t ∧
      EachSlice s t (Moved s (taken e) target) ∧ (taken e = 0 → AgesKept s t e) ∧ (taken e ≠ 0 → AgesGone t) ∧
      ControlFrame s t e none State.tick
    goes (.bra d) (acts · s) (nextBundle s.cur.pc + d.signExtend 64 * 32) ∧
    goes (.br n p k) (fun e => maskOf fun l => (acts e s).getLsbD l && xor ((s.g.pred p).getLsbD l) n)
      (nextBundle s.cur.pc + k.signExtend 64 * 32)

/-- R31, R126, R135, R136: a target that is not aligned raises BADTARGET, with no effect. Where every lane passes the checks of R31,
BRX goes to each lane's own target; CALLX does, pushes the address of the next bundle on the return stack of every calling slice
where no spill is needed, and writes that address to its destination and pushes it. -/
def Obligations.IndexedTransfers : Prop :=
  ∀ (d a : Opnd) (s : State), Issuing s →
    let next := nextBundle s.cur.pc
    Runs (.brx a) s (fun e =>
      ((∃ l, (acts e s).getLsbD l = true ∧ (argA e s l).toNat % 32 ≠ 0) → exec (.brx a) s = .next (s.trapGroup 0x0B)) ∧
      ∀ m, (s.operands e).checkTargets (s.consume e) 0x0C = .inl (m, acts e s) → ∃ t, exec (.brx a) s = .next t ∧
        EachSlice s t (Parted s (acts e s) (argA e s)) ∧ (acts e s ≠ 0 → AgesGone t) ∧
        ControlFrame s t e none fun _ => m.tick) ∧
    Runs (.callx d a) s (fun e =>
      ((∃ l, (acts e s).getLsbD l = true ∧ (argA e s l).toNat % 32 ≠ 0) → exec (.callx d a) s = .next (s.trapGroup 0x0B)) ∧
      ∀ m, (s.operands e).checkTargets (s.consume e) d.code = .inl (m, acts e s) →
        (∀ x ∈ s.g.slices, x.ret.length < 16 ∧ x.retDepth < 65535) → ∃ t, exec (.callx d a) s = .next t ∧
        EachSlice s t (fun x y => Parted s (acts e s) (argA e s)
          (if x.inPath s.cur.path && x.part (acts e s) != 0 then { x with ret := next :: x.ret, fillFault := false } else x) y) ∧
        (t.g.ages.getD 0 []).at (LaneMask.lowest (acts e s)) = (if acts e s = 0 then 0 else next) ∧
        t.g.ageValid.getD 0 false = true ∧
        (∀ r : Fin 208, d = .greg r → ∀ l, l < 32 →
          (t.g.regVal (0x30 + r)).at l = if (acts e s).getLsbD l then next else (s.g.regVal (0x30 + r)).at l) ∧
        (∀ r : Fin 32, d = .sreg r → ∀ l, l < 32 →
          (t.g.regVal (0x10 + r)).at l = if acts e s ≠ 0 then next else (s.g.regVal (0x10 + r)).at l) ∧
        (∀ c : Fin 8, d = .cache c → Store.getOr t.g.cacheValid c 0 = if clears e s then 0 else Store.getOr s.g.cacheValid c 0 ||| acts e s) ∧
        ControlFrame s t e (some d) fun _ => m.tick)

/-- R133, R136: CALL pushes the address of the next bundle on the return stack of every slice with a calling lane, where no spill
is needed, and transfers; where a spill would make the two kinds of spilled block overlap, it raises SPILL. A stack that a cut has left
amid a block spills up to the end of that block (log 58). -/
def Obligations.Calls : Prop :=
  ∀ (d : BitVec 24) (s : State), Issuing s →
    Runs (.call d) s fun e =>
      let calls (x : Slice) : Bool := x.inPath s.cur.path && x.part (acts e s) != 0
      ((∀ x ∈ s.g.slices, x.ret.length < 16 ∧ x.retDepth < 65535) → ∃ t, exec (.call d) s = .next t ∧
        EachSlice s t (fun x y => Moved s (acts e s) (nextBundle s.cur.pc + d.signExtend 64 * 32)
          (if calls x then { x with ret := nextBundle s.cur.pc :: x.ret, fillFault := false } else x) y) ∧
        (acts e s = 0 → AgesKept s t e) ∧ (acts e s ≠ 0 → AgesGone t) ∧ ControlFrame s t e none State.tick) ∧
      (s.g.slices.map (·.idx) = sliceIds → calls (s.g.slice 0) = true → (s.g.slice 0).ret.length = 16 →
        8 * ((s.g.slice 0).retSpilled / 8 * 8 + 8) + 32 * (s.g.slice 0).rcvSpilled > s.g.csize →
        exec (.call d) s = .next (s.trapGroup 0x13))

/-- R15, R137: a return that only some live lanes of a slice would make raises RETDIVERGE, a RET without an entry RETEMPTY, a RET to a
malformed code address and a RETX to an address that is not aligned BADTARGET. Otherwise each slice with a lane in Active() goes to its own top entry (RET) or to the
common address (RETX) and pops its stack, the others fall through, and the consequences of lanes having moved follow.
Where the spec leaves the way open, the model chooses: log 56. -/
def Obligations.Returns : Prop :=
  ∀ (a : Opnd) (s : State), Issuing s →
    let returns (e : Info) (x : Slice) : Bool := x.inPath s.cur.path && x.part (acts e s) != 0
    let diverges (e : Info) : Prop := ∃ x ∈ s.g.slices, returns e x = true ∧ x.part (acts e s) &&& x.run ≠ x.run
    let goes (i : Instr) (e : Info) (pc : Slice → Word) : Prop := ∃ m, exec i s = .next (m.settle s.cur.unit s.cyc) ∧
      EachSlice s m (fun x y =>
        { y with pc := 0, ret := [], path := 0, fillFault := false } = { x with pc := 0, ret := [], path := 0, fillFault := false } ∧
        y.fillFault = (x.fillFault && !returns e x) ∧
        y.pc = (if x.inPath s.cur.path then if returns e x then pc x else nextBundle s.cur.pc else x.pc) ∧
        y.ret = if returns e x then x.ret.drop 1 else x.ret) ∧
      (acts e s ≠ 0 → AgesGone m) ∧ ControlFrame s m e none State.tick
    Runs .ret s (fun e =>
      (diverges e → exec .ret s = .next (s.trapGroup 0x12)) ∧
      (¬diverges e → (∃ x ∈ s.g.slices, returns e x = true ∧ x.ret = [] ∧ x.retSpilled = 0) → exec .ret s = .next (s.trapGroup 0x11)) ∧
      (¬diverges e → (∀ x ∈ s.g.slices, returns e x = true → x.ret ≠ []) →
        ((∃ x ∈ s.g.slices, returns e x = true ∧ (x.ret.headD 0).toNat % 32 ≥ 6) → exec .ret s = .next (s.trapGroup 0x0B)) ∧
        ((∀ x ∈ s.g.slices, returns e x = true → (x.ret.headD 0).toNat % 32 < 6) → goes .ret e fun x => x.ret.headD 0))) ∧
    Runs (.retx a) s (fun e =>
      let target := argA e s (LaneMask.lowest (acts e s))
      let parted : Prop := ∃ l, (acts e s).getLsbD l = true ∧ argA e s l ≠ target
      (diverges e ∨ parted → exec (.retx a) s = .next (s.trapGroup 0x12)) ∧
      (¬diverges e → ¬parted → acts e s ≠ 0 → target.toNat % 32 ≠ 0 → exec (.retx a) s = .next (s.trapGroup 0x0B)) ∧
      (¬diverges e → ¬parted → (acts e s = 0 ∨ target.toNat % 32 = 0) → goes (.retx a) e fun _ => target))

/-- R128, R138, R139: RCVP pushes an entry with the next instance tag on every slice of the path that has a run lane, where no
spill is needed; REGANG brings the path's lanes to the rendezvous of their level and code address; EXIT retires the lanes of
Active(), and the consequences of R127 and R129 follow.
Where the spec leaves the way open, the model chooses: log 56. -/
def Obligations.Reconvergence : Prop :=
  ∀ (d : BitVec 24) (s : State), Issuing s →
    Runs (.rcvp d) s (fun e => (∀ x ∈ s.g.slices, x.rcv.length < 16) → ∃ t, exec (.rcvp d) s = .next t ∧
      EachSlice s t (fun x y => y = sliceAfter s (if x.inPath s.cur.path && x.run != 0 then
        { x with rcv := { rpc := nextBundle s.cur.pc + d.signExtend 64 * 32, tag := word s.g.inst, member := x.run, mode := x.mode
                          retDepth := x.retDepth } :: x.rcv, fillFault := false } else x)) ∧
      t.g.inst = s.g.inst + 1 ∧ AgesKept s t e ∧ ControlFrame s t e none id) ∧
    Runs .regang s (fun e => ∃ m, exec .regang s = .next ((m.settle s.cur.unit s.cyc).unpark s.cur.unit) ∧
      EachSlice s m (fun x y => y = if x.inPath s.cur.path then
        { x with run := 0, rdv := x.rdv ++ [{ pc := s.cur.pc, next := nextSlot s, depth := x.rcvDepth, tag := x.topTag, mask := x.run
                                              keep := s.keep }] } else x) ∧
      RegistersKept s m e none [] ∧ DeviceFrame s m id ∧ m.g.ages = s.g.ages ∧ m.g.ageValid = s.g.ageValid ∧
      m.g.caches = s.g.caches ∧ m.g.cacheValid = s.g.cacheValid ∧ ∀ x, m.mm.byte x = s.mm.byte x) ∧
    Runs .exit s (fun e => ∃ m, exec .exit s = .next ((m.settle s.cur.unit s.cyc).reap s.cur.unit) ∧
      EachSlice s m (fun x y => y.pc = (if x.inPath s.cur.path then nextBundle s.cur.pc else x.pc) ∧
        y.run = x.run &&& ~~~(x.part (acts e s)) ∧ y.detached = x.detached &&& ~~~(x.part (acts e s)) ∧
        y.gone = x.gone ||| x.part (acts e s) ∧ y.mode = x.mode ∧ y.ret = x.ret) ∧
      ControlFrame s m e none id)

/-- R18, R139, R140: NOP only goes on to the next slot; YIELD makes the group choose another path, and with KEEP = 0 offers its
active place; SLEEP whose value %cyc has reached does not wait, and otherwise the path waits for that clk. -/
def Obligations.Pauses : Prop :=
  ∀ (a : Opnd) (s : State), Issuing s →
    Runs .nop s (fun e => Sets .nop s e id) ∧
    Runs .yield s (fun e => Sets .yield s e fun g =>
      { g with yielding := !s.keep, paths := g.paths.map fun q => if q.id = s.cur.path then { q with streak := 64 } else q }) ∧
    Runs (.sleep a) s (fun e =>
      ((argA e s 0).toNat ≤ s.cyc % 2 ^ 64 → Sets (.sleep a) s e fun g => { g with wake := none }) ∧
      ((argA e s 0).toNat > s.cyc % 2 ^ 64 → ∃ t, exec (.sleep a) s = .next t ∧ t.g.wake = some (argA e s 0) ∧
        (t.g.path? s.cur.path).map (fun q => q.wait.map (·.why)) = (s.g.path? s.cur.path).map (fun _ => some (.clock (argA e s 0))) ∧
        (∀ r l, (t.g.regVal r).at l = (s.g.regVal r).at l) ∧ (∀ r, t.g.regState r = s.g.regState r) ∧ t.g.slices = s.g.slices ∧
        ∀ x, t.mm.byte x = s.mm.byte x))

/-- R141, R39: TRAP detaches every lane of Active() with cause SWTRAP, its code as status and field D as destination; BRKPT takes
the group to STOPPED after its own slot, with no other effect. -/
def Obligations.SoftwareTraps : Prop :=
  ∀ (d a : Opnd) (c : BitVec 8) (s : State), Issuing s →
    Runs (.trap d a c) s (fun e =>
      let recs := (LaneMask.lanes (acts e s)).map fun l => s.laneRec l 0x16 d.code c.toNat 0 (argA e s l) 0 0 0
      (acts e s = 0 → Sets (.trap d a c) s e id) ∧
      (acts e s ≠ 0 → s.g.kind = .curator → exec (.trap d a c) s = .next (s.trapGroup 0x16)) ∧
      (acts e s ≠ 0 → s.g.kind ≠ .curator → ∃ m, exec (.trap d a c) s = .next (m.detachLanes s.cur.unit s.cur.path recs s.cyc) ∧
        AgesKept s m e ∧ Stepped s m e id none [])) ∧
    Runs .brkpt s (fun e => Sets .brkpt s e fun g => { g with st := .stopped (g.st == .active) })

/-- R142, R144, R329: UINTR gives 1 where no such group is placed in the grid, 2 where the vector is above 255, and otherwise 0 with the
vector pending at the target. UIRET outside a group-handler run is illegal; within one it ends the innermost run, and the path continues at
%tpc or %uipc by the run's kind, with the age latches invalid. Where the spec leaves the way open, the model chooses: logs 9, 21, 71. -/
def Obligations.UserInterrupts : Prop :=
  (∀ (d a b : Opnd) (s : State), Issuing s → Runs (.uintr d a b) s fun e =>
     let isTarget (x : Group) : Bool := x.kind == .user && x.kernel == s.g.kernel && x.gid == (argA e s 0).toNat
     (s.g.kind ≠ .user ∨ s.groups.any isTarget = false → Yields (.uintr d a b) s e d fun _ => 1) ∧
     ∀ x, s.g.kind = .user → s.groups.find? isTarget = some x →
       ((argB e s 0).toNat > 255 → Yields (.uintr d a b) s e d fun _ => 2) ∧
       ((argB e s 0).toNat ≤ 255 → s.g.linkLost = false → ∃ t, exec (.uintr d a b) s = .next t ∧
         Written s t e d (fun _ => 0) (acts e s) ∧ Pushed s t e (fun _ => 0) (acts e s) ∧ RegistersKept s t e (some d) [] ∧
         (∀ v, (t.grp x.unit).ints.any (fun y => y.vec == v) =
           ((s.grp x.unit).ints.any (fun y => y.vec == v) || v == (argB e s 0).toNat)) ∧
         (∀ u, u ≠ s.cur.unit → u ≠ x.unit → t.grp u = s.grp u) ∧ ∀ p, t.mm.byte p = s.mm.byte p)) ∧
  (∀ s : State, Issuing s → Runs .uiret s fun e =>
     (s.g.hdl = [] → exec .uiret s = .next (s.trapGroup 0x09)) ∧
     ∀ f r, s.g.hdl = f :: r →
       let target := if f.kind = .gtrap then s.g.tpc else s.g.uipc
       (target.toNat % 32 ≥ 6 → exec .uiret s = .next (s.trapGroup 0x0B)) ∧
       (target.toNat % 32 < 6 → ∃ m, exec .uiret s = .next (m.settle s.cur.unit s.cyc) ∧ m.g.hdl = r ∧ AgesGone m ∧
         m.g.slices = s.g.slices.map (fun x =>
           let y : Slice := if r = [] then { x with held := false } else x
           if x.inPath s.cur.path then { y with pc := target, fillFault := false } else y) ∧
         (∀ q ∈ m.g.paths, q.id = s.cur.path → q.issueFrom = s.cyc + if f.kind = .gtrap then 6 else 1) ∧
         (r = [] → ∀ q ∈ m.g.paths, q.id ≠ s.cur.path → q.held = false) ∧ RegistersKept s m e none [] ∧
         CachesKept s m e none ∧ DeviceFrame s m State.tick))

/-! ### Memory -/

/-- R169, R170, R171, R179: LD, LDX, LDA and LDC. A lane whose access traps is detached; the other lanes' data are on their way
to the destination, which is EMPTY and pending. While a line that it names may find no request entry it stalls.
Where the spec leaves the way open, the model chooses: logs 8, 13, 20, 61, 62, 72. -/
def Obligations.Loads : Prop :=
  ∀ (d a b : Opnd) (s : State), Issuing s →
    LoadYields (.ld d a b) s d false false ∧ LoadYields (.ldx d a b) s d true false ∧
    LoadYields (.lda d a b) s d true false ∧ LoadYields (.ldc d a b) s d false true

/-- R169, R170, R171, R176, R358: ST, STX and STL store field D's value. With a lost store that no release has reported, STL
raises LINKLOST instead; it comes after what its path has on its way by peer links.
Where the spec leaves the way open, the model chooses: logs 8, 20, 21, 61, 62, 72, 83. -/
def Obligations.Stores : Prop :=
  ∀ (d a b : Opnd) (s : State), Issuing s →
    let stores (i : Instr) (strict release : Bool) : Prop := Runs i s fun e =>
      let acc := storeAccesses e s strict
      (acts e s = 0 → Sets i s e id) ∧
      let links : Bool := s.linksDone s.g s.cur.path
      (acts e s ≠ 0 → release = true → links = false → Stalls i s .links) ∧
      (acts e s ≠ 0 → (release = false ∨ links = true) → TakesRequests i s (linesNamed e s (LaneMask.lanes (acts e s)) (addressOf e s)) (
        (release = true ∧ s.g.linkLost = true → exec i s = lossReported s) ∧
        (release = false ∨ s.g.linkLost = false →
          ∃ m, Ends i s m (accessRecords e s 0x0C (fun l => [l]) acc) ∧ StoreEffect s m e acc)))
    stores (.st d a b) false false ∧ stores (.stx d a b) true false ∧ stores (.stl d a b) true true

/-- R84, R167, R169: LDP and STP act on the block's scratchpad at offset a + b. A misaligned access traps unless UNAL is 1, and
one outside the block's scratchpad, or in a bank that does not admit the group, is a protection fault. While a bank is being zeroed
they wait (log 46). -/
def Obligations.Scratchpad : Prop :=
  ∀ (d a b : Opnd) (s : State), Issuing s →
    let trapped (e : Info) (k : Nat) (l : Nat) : Option LaneRes :=
      let off := addressOf e s l
      let n := (etypeAt e s l).bytes
      if off.toNat % n ≠ 0 ∧ modeUnal (modeAt e s l) = false then some (.trap 0x03 k 0 off)
      else if s.scratchOk s.g off.toNat n then none else some (.trap 0x05 (32 + k) 0 off)
    let busy (e : Info) : Nat :=
      (LaneMask.lanes (acts e s)).foldl (fun n l => max n (s.scratchBusy s.g (addressOf e s l).toNat (etypeAt e s l).bytes)) 0
    Runs (.ldp d a b) s (fun e =>
      (busy e > s.cyc → Stalls (.ldp d a b) s (.clock (word (busy e)))) ∧
      (busy e ≤ s.cyc → PerLane (.ldp d a b) s e d fun l => (trapped e 0 l).getD
        (.val ((etypeAt e s l).image (leNat (s.readScratch s.g (addressOf e s l).toNat (etypeAt e s l).bytes)))))) ∧
    Runs (.stp d a b) s fun e =>
      let f (l : Nat) : LaneRes := (trapped e 1 l).getD (.val 0)
      (busy e > s.cyc → Stalls (.stp d a b) s (.clock (word (busy e)))) ∧ (busy e ≤ s.cyc → ∃ m, Ends (.stp d a b) s m (recordsOf e s 0x0C f) ∧ AgesKept s m e ∧ CachesKept s m e none ∧ GroupFrame s m e id none [] ∧
        (∀ x, m.mm.byte x = s.mm.byte x) ∧
        DeviceFrame s m fun s => (LaneMask.lanes (soundLanes e s f)).foldl (fun u l =>
          u.writeScratch s.g (addressOf e s l).toNat (leBytes (argC e s l).toNat (etypeAt e s l).bytes)) s)

/-- R177, R180, R181, R182, R217, R358: FENCE completes once every earlier access of its path is performed, and otherwise waits; PF and the
cache evictions of CCTL change nothing that a program can read, and the eviction of every line combines the update-only copies of the core;
the code-cache operations are a release, and complete when they are answered. A lost store is reported instead. Where the spec leaves the
way open, the model chooses: logs 9, 21, 23, 72. -/
def Obligations.Ordering : Prop :=
  ∀ (a b : Opnd) (o : Fin 4) (s : State), Issuing s →
    let wide : Bool := s.g.widestScope s.cur.path ≥ 3
    Runs .fence s (fun e => Releases .fence s true (Sets .fence s e id)) ∧
    let quiet (i : Instr) (e : Info) (P : State → Prop) : Prop := ∃ t, exec i s = .next t ∧ AccessFrame s t e id none ∧ P t ∧
      ∀ x, copied s x = false → t.mm.byte x = s.mm.byte x
    Runs (.pf a b) s (fun e =>
      TakesRequests (.pf a b) s (namedLines ((LaneMask.lanes (acts e s)).map fun l => (addressOf e s l, 1))) (quiet (.pf a b) e fun _ => True)) ∧
    Runs (.cctl a o) s fun e =>
      let i : Instr := .cctl a o
      let answered : Bool := (s.operands e).stage = 2 && s.p.answer.isSome
      (o.val = 2 → quiet i e fun _ => True) ∧
      (o.val = 3 → quiet i e fun t => ∀ x ∈ t.mm.partials, ¬(x.core = s.g.core ∧ x.agent.part = s.g.part ∧ x.world = s.g.world)) ∧
      (o.val < 2 → answered = true → Sets i s e (answerTaken s)) ∧
      (o.val < 2 → answered = false → wide = true → s.g.linkLost = true → exec i s = lossReported s) ∧
      (o.val < 2 → answered = false → (wide = false ∨ s.g.linkLost = false) → ReleasesQuietly i s true
        (Asks i s s.stamp fun u => (u.schedule 600 (.codeInvalidationDone s.stamp)).tick))

/-! ### Atomics -/

/-- R212, R213, R216: AADD, AFADD, AMIN, AMAX, AAND, AOR, AXOR, AXCH and ACAS. A lane whose access traps is detached; a register
destination becomes EMPTY and pending, and the old values are on their way to it; no byte outside the elements changes. For a single
lane each element takes the new value that the opcode gives, and the old contents are the lane's result.
Where the spec leaves the way open, the model chooses: logs 8, 13, 20, 72. -/
def Obligations.Atomics : Prop :=
  ∀ (d a b : Opnd) (s : State), Issuing s →
    let atomics (i : Instr) (opcode : Nat) (new : EType → Word32 → Nat → Nat → Nat → Nat) : Prop := Runs i s fun e =>
      let r := atomicChain e s opcode d.code d.isS
      (acts e s = 0 → Sets i s e id) ∧
      let p := r.perform s.g
      (acts e s ≠ 0 → TakesRequests i s (linesNamed e s (if d.isS then [LaneMask.lowest (acts e s)] else LaneMask.lanes (acts e s)) (argA e s)) (
        ∃ m, Ends i s m r.recs ∧ AccessFrame s m e id (some d) ∧
        (∀ x, m.mm.byte x = p.1.mm.byte x) ∧
        (∀ x, copied s x = false → x ∉ addressesOf r.parts → m.mm.byte x = s.mm.byte x) ∧
        (∀ n, d.reg? = some n → ∃ f : Flight, m.mm.flights = s.mm.flights ++ [f] ∧ f.unit = s.g.unit ∧ f.serial = s.g.serial ∧
          f.reg = n ∧ f.lanes = r.lanes.map (fun x => { x with value := returned p.2.1 d.isS x.lane }) ∧ m.g.regState n = .pending f.token ∧
          (m.agenda.any fun x => x.ev == .longLatencyComplete f.token) = true) ∧
        (d.reg? = none → r.lanes ≠ [] → m.performed s.g s.cur.path = false) ∧
        ∀ l pa mt, loneElement e s l pa mt →
          let t := etypeAt e s l
          let n := t.elemBytes
          let w := 2 ^ (8 * n)
          (∀ j, j < t.bytes / n → m.mm.num (pa + n * j) n =
            new t (modeAt e s l) (s.mm.num (pa + n * j) n) ((argB e s l).toNat / w ^ j % w) ((argC e s l).toNat / w ^ j % w) % w) ∧
          p.2.1 = [(l, t.image (s.mm.num pa t.bytes))]))
    atomics (.aadd d a b) 0x90 (fun _ _ m v _ => m + v) ∧
    atomics (.afadd d a b) 0x91 (fun t x m v _ => floatAdd t (modeRnd x) (modeFtz x) m v) ∧
    atomics (.amin d a b) 0x92 (fun t _ m v _ => elemMinMax t false m v) ∧
    atomics (.amax d a b) 0x93 (fun t _ m v _ => elemMinMax t true m v) ∧
    atomics (.aand d a b) 0x94 (fun _ _ m v _ => m &&& v) ∧ atomics (.aor d a b) 0x95 (fun _ _ m v _ => m ||| v) ∧
    atomics (.axor d a b) 0x96 (fun _ _ m v _ => m ^^^ v) ∧ atomics (.axch d a b) 0x97 (fun _ _ _ v _ => v) ∧
    atomics (.acas d a b) 0x98 (fun _ _ m v c => if m = c then v else m)

/-- R212, R213, R217, R358: REDADD, REDFADD, REDMIN and REDMAX return nothing, and no byte outside the elements changes. For a single
lane, what a read of each element then gives is the value that the opcode makes of what it gave before; a lost reduction is left for
a release to report.
Where the spec leaves the way open, the model chooses: logs 8, 13, 20, 72. -/
def Obligations.Reductions : Prop :=
  ∀ (a b : Opnd) (s : State), Issuing s →
    let reduces (i : Instr) (opcode : Nat) (new : EType → Word32 → Nat → Nat → Nat) : Prop := Runs i s fun e =>
      let r := atomicChain e s opcode 0x0C false
      (acts e s = 0 → Sets i s e id) ∧
      (acts e s ≠ 0 → TakesRequests i s (linesNamed e s (LaneMask.lanes (acts e s)) (argA e s)) (∃ m, Ends i s m r.recs ∧
        AccessFrame s m e (fun g => if r.lanes.any (·.lost) then { g with linkLost := true } else g) none ∧
        (∀ x, copied s x = false → x ∉ addressesOf r.parts → m.mm.byte x = s.mm.byte x) ∧
        (r.lanes ≠ [] → m.performed s.g s.cur.path = false) ∧
        ∀ l pa mt, loneElement e s l pa mt →
          let t := etypeAt e s l
          let n := t.elemBytes
          let w := 2 ^ (8 * n)
          ∀ j, j < t.bytes / n → m.readNum (pa + n * j) n =
            new t (modeAt e s l) (s.mm.num (pa + n * j) n) ((argB e s l).toNat / w ^ j % w) % w))
    reduces (.redadd a b) 0x99 (fun _ _ m v => m + v) ∧
    reduces (.redfadd a b) 0x9A (fun t x m v => floatAdd t (modeRnd x) (modeFtz x) m v) ∧
    reduces (.redmin a b) 0x9B (fun t _ m v => elemMinMax t false m v) ∧
    reduces (.redmax a b) 0x9C (fun t _ m v => elemMinMax t true m v)

/-! ### Asynchronous operations -/

/-- R184, R188, R189, R242 to R244, R294, R297, R360: CPY, CPY2, GTHR, SCTR, COLL, CSLD, MXGEMM, QUANT, PROBE and RMUL are accepted
by their engines with their operands as read at issue.
Where the spec leaves the way open, the model chooses: logs 31, 52. -/
def Obligations.EngineAcceptance : Prop :=
  ∀ (d a b : Opnd) (o k : Fin 16) (s : State), Issuing s →
    let sum (e : Info) : Word := argA e s 0 + argB e s 0
    Accepts (.cpy d a b) s d 0 0xA0 (fun e => (sBlock a 2).map (fun r => (s.g.regVal r).at 0) ++ [argB e s 0]) ∧
    Accepts (.cpy2 d a b) s d 0 0xA1 (fun e => [sum e]) ∧
    Accepts (.gthr d a b) s d 1 0xA2 (fun e => [sum e]) ∧ Accepts (.sctr d a b) s d 1 0xA3 (fun e => [sum e]) ∧
    Accepts (.coll d a o k) s d 4 0xAA (fun e => [argA e s 0, word (16 * o.val + k.val)]) ∧
    Accepts (.csld d a b) s d 2 0xC6 (fun e => [sum e]) ∧ Accepts (.mxgemm d a b) s d 2 0xC9 (fun e => [sum e]) ∧
    Accepts (.quant d a b) s d 2 0xCA (fun e => [argA e s 0, argB e s 0]) ∧
    Accepts (.probe d a b) s d 3 0xD2 (fun e =>
      let t := s.probeBinding b
      let inside := ((s.g.pathSlices s.cur.path).filter fun x => x.run != 0).all fun x => x.depth != 0
      [argB e s 0, t.desc, t.lm1, if t.valid then 1 else 0, word (acts e s).toNat, if inside then 1 else 0] ++
        ((s.operands e).block a t.half).flatMap fun v => laneIds.map v.at) ∧
    Accepts (.rmul d a b) s d 3 0xD6 fun e => [sum e, word (acts e s).toNat] ++ [0, 1, 2, 3].map fun n => (s.g.hfReg n).word

/-- R195 to R198: WAITC waits while the counter is above the value, or traps where it waits on a late copy; RDCNT gives the counter. HTEST,
HSTAT, HPROM and HCANC look at the operation that their handle register resolves to; HCANC cancels it, but for a COLL. Where the spec
leaves the way open, the model chooses: logs 52, 82. -/
def Obligations.CountersAndHandles : Prop :=
  (∀ (d a : Opnd) (c : Fin 8) (s : State), Issuing s →
     Runs (.waitc a c) s (fun e =>
       let n := min (argA e s 0).toNat 64
       let late := if c.val = 0 then (s.lateBlocks s.g n).head? else none
       (Store.getOr s.g.cnt c.val 0 ≤ n → Sets (.waitc a c) s e id) ∧
       (Store.getOr s.g.cnt c.val 0 > n → late = none → Waits (.waitc a c) s (.count c.val n)) ∧
       ∀ token, Store.getOr s.g.cnt c.val 0 > n → late = some token →
         exec (.waitc a c) s = .next ((s.modG fun g => { g with late := g.late.filter (· != token) }).trapGroup 0x0D)) ∧
     Runs (.rdcnt d c) s fun e => Yields (.rdcnt d c) s e d fun _ => word (Store.getOr s.g.cnt c.val 0)) ∧
  (∀ (d a : Opnd) (s : State), Issuing s →
     let r := s.resolveOp a
     Runs (.htest d a) s (fun e => Yields (.htest d a) s e d fun _ => if r.isSome then 0 else 1) ∧
     Runs (.hstat d a) s (fun e => Yields (.hstat d a) s e d fun _ =>
       match r with
       | some op => word (op.gid % 2 ^ 32 * 2 ^ 32 + op.seq * 2 ^ 16 + op.cls * 2 ^ 13)
       | none => if (argA e s 0).toNat % 256 = 0 then argA e s 0 + 0xFF else argA e s 0) ∧
     Runs (.hprom d a) s (fun e => Yields (.hprom d a) s e d fun _ =>
       match r with
       | some op => if op.cls = 0 then op.promise else 0xFFFFFFFFFFFFFFFF
       | none => 0xFFFFFFFFFFFFFFFF) ∧
     Runs (.hcanc d a) s fun e =>
       (r = none → Yields (.hcanc d a) s e d fun _ => 1) ∧
       ∀ op, r = some op →
         (op.cls = 4 → Yields (.hcanc d a) s e d fun _ => 2) ∧
         (op.cls ≠ 4 → YieldsWith (.hcanc d a) s e d (fun _ => 0) id fun s =>
           { s with ops := s.ops.map fun x => if x.token = op.token then { x with cancel := true } else x }))

/-! ### Barriers -/

/-- R201 to R208: BAR and BARA arrive at a barrier of a level; a path that is no member raises BARMEMBER, and a count that does not
agree BARCOUNT. BAR waits for the phase, which the last arrival completes; it goes on some clk later (R211). BARW waits for the phase in
which the path has arrived, and once it has waited clears the flags of that phase; BARQ gives the barrier's status.
Where the spec leaves the way open, the model chooses: logs 21, 26. -/
def Obligations.Barriers : Prop :=
  ∀ (d a : Opnd) (l : Fin 4) (n : Fin 16) (s : State), Issuing s →
    let lv := BarLevel.ofCode l.val
    let b := s.barrier s.g lv n.val
    Arrives (.bar a l n) s (fun e => (argA e s 0).toNat) lv n.val true ∧
    Arrives (.bara a l n) s (fun e => (argA e s 0).toNat) lv n.val false ∧
    Runs (.barw l n) s (fun e =>
      let o := s.operands e
      (o.stage = 1 → Sets (.barw l n) s e (flagsSet s lv n.val (clearFlag o.arg))) ∧
      (o.stage ≠ 1 → b.phase ∈ s.g.arrivalFlags s.cur.path lv n.val → Waits (.barw l n) s (.phase lv n.val b.phase)) ∧
      (o.stage ≠ 1 → b.phase ∉ s.g.arrivalFlags s.cur.path lv n.val → Sets (.barw l n) s e (flagsSet s lv n.val fun _ => none))) ∧
    Runs (.barq d l n) s fun e =>
      let own : Bool := match lv with
        | .group => ((s.g.pathSlices s.cur.path).head?.bind fun x => Store.get? x.flags n.val) == some b.phase
        | _ => (s.g.arrivalFlags s.cur.path lv n.val).contains b.phase
      Yields (.barq d l n) s e d fun _ =>
        word ((if b.count ≠ 0 then 2 ^ 49 else 0) + (if own then 2 ^ 48 else 0) + b.phase % 65536 * 2 ^ 32 + b.arrived)

/-! ### Grace periods -/

/-- R273, R275, R276, R279, R298: RSB and RSE count read-side sections of the path's slices that run, between 0 and 15; RSE lets the
grace controllers see the slices. TFENCE completes once every access is performed and every version that it awaits is dropped.
GPWAIT waits for a grace period, the fresh target or an earlier one that it names, which it demands; GPSEQ demands the fresh target
and gives it; DFREE queues an entry stamped with the fresh target, and waits for room. A wait inside a read-side section would
never end, and raises GPNEST (0x1A), as does RSB at depth 15 and RSE at depth 0. The model's choice (DEDUCED, log 21; R358 against R280): of
the releases among these, TFENCE may report LINKLOST at every SCOPE, and GPWAIT and DFREE never do. -/
def Obligations.GracePeriods : Prop :=
  (∀ s : State, Issuing s →
     let runs (x : Slice) : Bool := x.inPath s.cur.path && x.run != 0
     let deeper (f : Nat → Nat) (g : Group) : Group :=
       { g with slices := g.slices.map fun x => if runs x then { x with depth := f x.depth } else x }
     Runs .rsb s (fun e =>
       ((s.g.slices.any fun x => runs x && x.depth ≥ 15) = true → exec .rsb s = .next (s.trapGroup 0x1A)) ∧
       ((s.g.slices.any fun x => runs x && x.depth ≥ 15) = false → ∃ t, exec .rsb s = .next t ∧ AgesKept s t e ∧
         Stepped s t e (deeper (· + 1)) none [])) ∧
     Runs .rse s (fun e =>
       ((s.g.slices.any fun x => runs x && x.depth == 0) = true → exec .rse s = .next (s.trapGroup 0x1A)) ∧
       ((s.g.slices.any fun x => runs x && x.depth == 0) = false → ∃ m, exec .rse s = .next m.sweep ∧ AgesKept s m e ∧
         Stepped s m e (deeper (· - 1)) none [])) ∧
     Runs .tfence s fun e =>
       (s.g.linkLost = false → allPerformed s = true → s.dropped s.g s.cur.path (s.g.widestScope s.cur.path) = true →
         ∃ t, exec .tfence s = .next t ∧ AgesKept s t e ∧ Stepped s t e id none []) ∧
       Releases .tfence s true
       (let scope := s.g.widestScope s.cur.path
        (s.dropped s.g s.cur.path scope = true → Sets .tfence s e id) ∧
        (s.dropped s.g s.cur.path scope = false → ∃ m, exec .tfence s = .next m ∧
          (m.g.path? s.cur.path).map (fun q => q.wait.map (·.why)) = (s.g.path? s.cur.path).map (fun _ => some .tables) ∧
          (∀ r l, (m.g.regVal r).at l = (s.g.regVal r).at l) ∧ (∀ u, u ≠ s.cur.unit → m.grp u = s.grp u) ∧
          ∀ x, m.mm.byte x = s.mm.byte x))) ∧
  (∀ (d a b : Opnd) (s : State), Issuing s →
     let p := s.part s.g.part
     let fresh := if p.running then p.done + 2 else p.done + 1
     let demanded (e : Info) (n : Nat) (s : State) : State := (s.spend e.cost).demandGrace s.g.part n
     Runs (.gpwait a) s (fun e =>
       let n := if a = .zero then fresh else min (argA e s 0).toNat fresh
       ((s.operands e).stage = 2 → ∃ t, exec (.gpwait a) s = .next t ∧ AgesKept s t e ∧ Stepped s t e id none []) ∧
       ((s.operands e).stage ≠ 2 → s.inSection = false → s.boundDepth = false → allPerformed s = true → n ≤ p.done →
         ∃ t, exec (.gpwait a) s = .next t ∧ AgesKept s t e ∧ GroupFrame s t e id none [] ∧ CachesKept s t e none ∧
           DeviceFrame s t (demanded e n)) ∧
       ((s.operands e).stage ≠ 2 →
         ((s.inSection || s.boundDepth) = true → exec (.gpwait a) s = .next (s.trapGroup 0x1A)) ∧
         ((s.inSection || s.boundDepth) = false → ReleasesQuietly (.gpwait a) s true
           ((n ≤ p.done → SetsWith (.gpwait a) s e id (demanded e n)) ∧
            (n > p.done → WaitsWith (.gpwait a) s (.grace n) fun u => u.demandGrace s.g.part n))))) ∧
     Runs (.gpseq d) s (fun e => ∃ t, exec (.gpseq d) s = .next t ∧ Written s t e d (fun _ => word fresh) (acts e s) ∧
       PushedFrom s t e d (fun _ => word fresh) (acts e s) ∧ GroupFrame s t e id (some d) [] ∧ CachesKept s t e (some d) ∧
       DeviceFrame s t (demanded e fresh)) ∧
     Runs (.dfree a b) s fun e =>
       let full : Bool := p.frees.length + p.ready.length ≥ 4096
       let queued (s : State) : State := demanded e fresh (s.modPart s.g.part fun p =>
         { p with frees := p.frees ++ [{ addr := argA e s 0, size := argB e s 0, stamp := fresh, ctx := s.g.ctx }] })
       (full = false → allPerformed s = true → ∃ t, exec (.dfree a b) s = .next t ∧ AgesKept s t e ∧ GroupFrame s t e id none [] ∧
         CachesKept s t e none ∧ DeviceFrame s t queued) ∧
       ReleasesQuietly (.dfree a b) s true
         ((full = true → s.inSection = true → exec (.dfree a b) s = .next (s.trapGroup 0x1A)) ∧
          (full = true → s.inSection = false → Waits (.dfree a b) s .freeRoom) ∧
          (full = false → SetsWith (.dfree a b) s e id queued)))

/-! ### Device queues -/

/-- R259 to R263: QPUSH, QPOP and QTRY. A push whose context has the right is a release; the request goes to the queue's home, and its
answer ends the wait. QPUSH then gives the status; QPOP the packet in lanes 0 to 7 and the status in lane 8; QTRY the predicate that says
whether it was served, and a popped packet. Where the spec leaves the way open, the model chooses: logs 9, 21, 29. -/
def Obligations.QueueInstructions : Prop :=
  ∀ (d a b : Opnd) (k : Fin 16) (p : Fin 8) (s : State), Issuing s →
    let answer (e : Info) : Option (List Word) := if (s.operands e).stage = 2 then s.p.answer else none
    let status (v : List Word) : Nat := (v.headD 0).toNat
    let packet (v : List Word) (l : Nat) : Word := if l < 8 then v.getD (l + 1) 0 else word (status v)
    let words (v : Nat → Word) : List Word := [v 0, v 1, v 2, v 3, v 4, v 5, v 6, v 7]
    let asks (i : Instr) (e : Info) (kind : QKind) (pk : List Word) : Prop :=
      let q := (argA e s 0).toNat
      let right := s.queueStatus s.g.ctx q kind = 0
      let home := galleryOf s.g.core
      let sent : Prop := Asks i s s.stamp fun u =>
        let row := queueLatency [home, queueHome q]
        let travel := if kind = QKind.push then row / 2 else row
        let r : QReq := { token := s.stamp, queue := q, unit := s.g.unit, serial := s.g.serial, ctx := s.g.ctx, kind := kind, packet := pk
                          due := s.cyc + travel }
        let v : State := { u.tick with qreqs := s.qreqs ++ [r] }
        v.schedule travel (.queueRequestServe q)
      (¬right → Asks i s s.stamp fun u => u.tick.answerQueue s.stamp 1 [] (queueLatency [home, queueHome (q % 4096)])) ∧
      (right → kind.isPush = true → ReleasesQuietly i s true sent) ∧ (right → kind.isPush = false → sent)
    Runs (.qpush d a b) s (fun e =>
      (answer e = none → asks (.qpush d a b) e .push (words (argB e s))) ∧
      ∀ v, answer e = some v → ∃ t, exec (.qpush d a b) s = .next t ∧ Written s t e d (fun _ => word (status v)) (acts e s) ∧
        Pushed s t e (fun _ => word (status v)) (acts e s) ∧ Stepped s t e (answerTaken s) (some d) []) ∧
    Runs (.qpop d a) s (fun e =>
      (answer e = none → asks (.qpop d a) e .pop []) ∧
      ∀ v, answer e = some v → v.length ≤ 9 → ∃ t, exec (.qpop d a) s = .next t ∧
        Written s t e d (packet v) (if status v = 0 then 0x1FF else 0x100) ∧
        Pushed s t e (fun l => (t.g.readOpnd t.g.modeOf { op := d } 0).at l) 0x1FF ∧ Stepped s t e (answerTaken s) (some d) []) ∧
    Runs (.qtry k p a b) s fun e =>
      let push := k.val = 1
      (answer e = none → asks (.qtry k p a b) e (if push then .tryPush else .tryPop) (if push then words (argB e s) else [])) ∧
      ∀ v, answer e = some v → v.length ≤ 9 → ∃ t, exec (.qtry k p a b) s = .next t ∧ AgesKept s t e ∧
        (∀ l, l < 32 → (t.g.pred p).getLsbD l = if (acts e s).getLsbD l then decide (status v = 0) else (s.g.pred p).getLsbD l) ∧
        (¬push → status v = 0 → Written s t e b (packet v) 0x1FF) ∧
        Stepped s t e (answerTaken s) (if push ∨ status v ≠ 0 then none else some b) [p]

/-! ### Matrix units -/

/-- R229 to R239: MMA, MMAS and MMAL. A step that its shape check refuses raises BADSHAPE; outside a gang it is accepted by the quadrant's
unit, and stalls while two steps are accepted or a macro-operation holds its tiles. In a gang the member arrives at the leader's latch and
waits there; a gang that is broken, or whose members disagree, raises BADGANG. Where the spec leaves the way open, the model chooses: logs
9, 27, 28. -/
def Obligations.MatrixSteps : Prop :=
  ∀ (h k : Fin 8) (t : Fin 4) (a b : Opnd) (s : State), Issuing s →
    let steps (i : Instr) (opcode : Nat) : Prop := Runs i s fun e =>
      let o := s.operands e
      let x := o.stepOf opcode k.val h.val t.val (s.blockOfStep opcode k a)
      let room : Bool := (s.acceptedSteps s.g).length < 2 && !s.tilesBusy s.g x.slots
      let answered : Bool := o.stage = 1 && s.p.answer.isSome
      let leads : Bool := gangMember s.g.gang 0 = s.g.slot
      let latch := gangMember s.g.gang 0
      let broken : Bool := leads == decide (a = .zero) || !s.g.hdl.isEmpty ||
        (s.latch s.g.core latch).any (fun r => r.gang != s.g.gang) || s.gangBroken s.g s.g.gang
      let refused : Bool := decide (a = .zero) || !x.shapeOk
      (answered = true → Sets i s e (answerTaken s)) ∧
      (answered = false → gangCount s.g.gang = 0 →
        (a = .zero → exec i s = .next (s.trapGroup 0x17)) ∧
        (a ≠ .zero → x.shapeOk = false → exec i s = .next (s.trapGroup 0x0C)) ∧
        (refused = false → acts e s = 0 → Sets i s e id) ∧
        (refused = false → acts e s ≠ 0 → room = true →
          SetsWith i s e id fun s => ((s.spend e.cost).acceptStep s.cyc s.g.quadrant x).tick) ∧
        (refused = false → acts e s ≠ 0 → room = false → Stalls i s (.stepRoom x.slots))) ∧
      (answered = false → gangCount s.g.gang ≠ 0 →
        (broken = true → exec i s = .next (s.trapGroup 0x17)) ∧
        (broken = false → room = false → Stalls i s (.stepRoom x.slots)) ∧
        (broken = false → room = true → ∃ w : Wait, w.why = .gang ∧ w.arg = s.stamp ∧ w.keep = s.keep ∧
          let arrived : State := { (s.modP fun q => { q with answer := none, wait := some w }).tick with
            gangs := s.gangs ++ [{ core := s.g.core, leader := latch, path := s.cur.path, token := s.stamp, gang := s.g.gang, clk := s.cyc
                                   isLeader := leads, step := x }] }
          let members := ((s.latch s.g.core latch).map (·.step.unit) ++ [s.g.unit]).eraseDups
          exec i s = .next (if members.length = gangCount s.g.gang then
            arrived.scheduleAt (s.cyc + 4) (.gangStepAccept s.g.core) else arrived)))
    steps (.mma h k t a b) 0xC0 ∧ steps (.mmas h k t a b) 0xC1 ∧ steps (.mmal h k t a b) 0xC2

/-- R236, R237, R241, R246: ACCZ, ACCRD and ACCWR act on a tile that no accepted step and no macro-operation uses, and stall until then;
GANG takes a legal gang word; MXHINT's count takes effect 32 clk later; MXSTAT gives the flags once the unit is idle for the group, with
selector 1 clearing them, the unit's state, or the gang word. Where the spec leaves the way open, the model chooses: logs 9, 28. -/
def Obligations.MatrixControl : Prop :=
  ∀ (d a b : Opnd) (w : Bool) (t sel : Fin 4) (s : State), Issuing s →
    let slots : List Nat := if w then [t.val, t.val + 1] else [t.val]
    let busy : Bool := s.stepsOn s.g slots || s.tilesBusy s.g slots
    let column (e : Info) : Nat := (argB e s 0).toNat % (if w then 32 else 16)
    let tiles : Tiles := s.g.tiles
    let idle : Bool := (s.acceptedSteps s.g).isEmpty && !s.ops.any fun o => o.serial == s.g.serial && o.opcode == 0xCA
    let unit := s.mxUnit s.g.quadrant
    Runs (.accz w t) s (fun e =>
      (busy = true → Stalls (.accz w t) s (.tiles slots)) ∧
      (busy = false → Sets (.accz w t) s e fun g => { g with tiles := slots.foldl (fun m n => Store.set m n []) g.tiles })) ∧
    Runs (.accrd d w t b) s (fun e =>
      (busy = true → Stalls (.accrd d w t b) s (.tiles slots)) ∧
      (busy = false → Yields (.accrd d w t b) s e d fun l =>
        if w then word (tiles.get64 t.val l (column e))
        else word ((tiles.word t.val l (2 * column e + 1)).toNat * 2 ^ 32 + (tiles.word t.val l (2 * column e)).toNat))) ∧
    Runs (.accwr w t a b) s (fun e =>
      (busy = true → Stalls (.accwr w t a b) s (.tiles slots)) ∧
      (busy = false → Sets (.accwr w t a b) s e fun g =>
        { g with tiles := (LaneMask.lanes (acts e s)).foldl (fun (m : Tiles) l =>
            if w then m.set64 t.val l (column e) (argA e s l).toNat
            else (m.setWord t.val l (2 * column e) ((argA e s l).setWidth 32)).setWord t.val l (2 * column e + 1)
              ((argA e s l >>> 32).setWidth 32)) g.tiles })) ∧
    Runs (.gang a) s (fun e => if gangOk (argA e s 0) s.g.slot then Sets (.gang a) s e fun g => { g with gang := argA e s 0 }
      else exec (.gang a) s = .next (s.trapGroup 0x17)) ∧
    Runs (.mxhint a) s (fun e => SetsWith (.mxhint a) s e id fun s =>
      (s.spend e.cost).scheduleAt (s.cyc + 32) (.hintEffect s.cur.unit (min (argA e s 0).toNat 65535))) ∧
    Runs (.mxstat d sel) s fun e =>
      let i : Instr := .mxstat d sel
      (sel = 2 → Yields i s e d fun _ =>
        word (unit.code + 8 * unit.levelAt s.cyc + 256 * (s.acceptedSteps s.g).length + 65536 * unit.hint)) ∧
      (sel = 3 → Yields i s e d fun _ => s.g.gang) ∧
      (sel.val < 2 → idle = false → Stalls i s .matrixIdle) ∧
      (sel = 0 → idle = true → Yields i s e d fun _ => word s.g.mxFlags) ∧
      (sel = 1 → idle = true → YieldsWith i s e d (fun _ => word s.g.mxFlags) (fun g => { g with mxFlags := 0 }) id)

/-! ### Retrieval tables -/

/-- R288 to R293, R295, R296: HFAM, TSTAT, TINS, TDEL, REHASH and HASH ask the table's unit, or the quadrant's unit for a projection, and
complete with the answer; a lane for which the answer names a fault is detached. HFAM binds a hash-family register where the descriptor is
valid, and with z unbinds it. Where the spec leaves the way open, the model chooses: logs 9, 30. -/
def Obligations.TableInstructions : Prop :=
  ∀ (d a b : Opnd) (n : Fin 4) (sel : Fin 16) (s : State), Issuing s →
    let bound := s.g.hfReg n.val
    let trapped (i : Instr) (e : Info) (c : Nat) : Prop := exec i s = .next ((s.takeTable (s.operands e).arg).trapGroup c)
    let taken (f : Group → Group) (g : Group) : Group := f (answerTaken s g)
    let updates (i : Instr) (kind : TKind) : Prop := Runs i s fun e =>
      let named := rowHf (argB e s (LaneMask.lowest (acts e s)))
      let t := s.g.hfReg named
      let block := (s.operands e).block a t.half
      let lanes : List TLane := ((LaneMask.lanes (acts e s)).filter fun l => (argB e s l).toNat < 2 ^ 34 && rowHf (argB e s l) == named).map
        fun l => { lane := l, row := rowId (argB e s l), cur := (List.range 16).map (codeOf block 0 l)
                   succ := (List.range 16).map (codeOf block t.half l) }
      let home := (s.operands e).homeOf t.desc
      (acts e s = 0 → Yields i s e d fun _ => 0) ∧
      (acts e s ≠ 0 →
        (homeAnswer e s = none → t.valid = false → AnsweredHere i s (List.replicate 32 0x500000000)) ∧
        (homeAnswer e s = none → t.valid = true → AsksHome i s { homeRequest e s kind t.desc t.lm1.toNat home with lanes := lanes }
          (tableTrip (galleryOf s.g.core) home / 2)) ∧
        ∀ r, homeAnswer e s = some r → match r.trap with
          | some c => trapped i e c
          | none => AnswerYields i s e d (answerOutcome r fun l => r.vals.getD l 0x500000000))
    Runs (.hfam d a n) s (fun e =>
      let i : Instr := .hfam d a n
      (a = .zero → YieldsWith i s e d (fun _ => 1) (fun g => { g with hf := Store.set g.hf n.val {} }) id) ∧
      (a ≠ .zero → homeAnswer e s = none → AsksHome i s (homeRequest e s .hfam (argA e s 0) 0 0) 50) ∧
      ∀ r, a ≠ .zero → homeAnswer e s = some r → YieldsWith i s e d (fun _ => r.vals.headD 3)
        (taken fun g => if r.vals.headD 3 = 0 then
          { g with hf := Store.set g.hf n.val { desc := argA e s 0 / 128 * 128, lm1 := r.vals.getD 1 0, valid := true } } else g)
        (answerUsed e)) ∧
    Runs (.tstat d sel n) s (fun e =>
      let i : Instr := .tstat d sel n
      (sel = 4 → Yields i s e d fun _ => bound.word) ∧
      (sel ≠ 4 → homeAnswer e s = none → bound.valid = true → AsksHome i s (homeRequest e s .tstat bound.desc 0 sel.val) 50) ∧
      (sel ≠ 4 → homeAnswer e s = none → bound.valid = false → AnsweredHere i s [0]) ∧
      ∀ r, sel ≠ 4 → homeAnswer e s = some r → YieldsWith i s e d (fun _ => r.vals.headD 0) (taken id) (answerUsed e)) ∧
    updates (.tins d a b) .tins ∧ updates (.tdel d a b) .tdel ∧
    Runs (.rehash d a b) s (fun e =>
      let i : Instr := .rehash d a b
      let t := s.g.hfIndex (argB e s 0).toNat
      let home := (s.operands e).homeOf t.desc
      (homeAnswer e s = none → t.valid = false → AnsweredHere i s [0x500000000]) ∧
      (homeAnswer e s = none → t.valid = true →
        AsksHome i s { homeRequest e s .rehash t.desc t.lm1.toNat home with steps := (argA e s 0).toNat }
          (tableTrip (galleryOf s.g.core) home / 2)) ∧
      ∀ r, homeAnswer e s = some r → AnswerYields i s e d fun _ => match r.faults with
        | (_, cause, status, fault) :: _ => .trap cause status 0 fault
        | [] => .val (r.vals.headD 0)) ∧
    Runs (.hash d a b) s fun e =>
      let i : Instr := .hash d a b
      let t := s.hashBinding b
      let regs := codeBlock d (s.hashHalf b)
      (homeAnswer e s = none → Asks i s s.stamp fun u =>
        let op : EngineOp :=
          { token := s.stamp, unit := s.g.unit, serial := s.g.serial, core := s.g.core, gid := s.g.gid, cls := 5, seq := 0
            opcode := 0xD1, space := s.wideSpace s.g (acts e s), kernel := s.g.kernel, part := s.g.part, world := s.g.world
            args := [t.desc, t.lm1, if t.valid then 1 else 0] ++ laneIds.map (argA e s), fslots := s.wideSlots s.g (acts e s)
            work := [(acts e s).toNat] }
        let v : State := { u.tick with ops := s.ops ++ [op] }
        v.schedule 8 (.macroStep s.stamp)) ∧
      ∀ r, homeAnswer e s = some r → match r.trap with
        | some c => trapped i e c
        | none =>
          let f := answerOutcome r fun l => r.vals.getD l 0
          ∃ m, EndsFrom i s (s.takeTable (s.operands e).arg) m (recordsOf e s d.code f) ∧
            (∀ j, j < regs.length → ∀ l, l < 32 → (m.g.regVal (regs.getD j 0)).at l =
              if (soundLanes e s f).getLsbD l then r.vals.getD (32 * j + l) 0 else (s.g.regVal (regs.getD j 0)).at l) ∧
            (∀ x l, 0x10 ≤ x → x ∉ regs → (m.g.regVal x).at l = (s.g.regVal x).at l) ∧
            (∀ q, m.g.pred q = s.g.pred q) ∧ Pushed s m e (outcomeValue f) (soundLanes e s f) ∧ CachesKept s m e none ∧
            DeviceFrame s m (answerUsed e)

/-! ### Handlers, service requests and curators -/

/-- R330 to R332: HRET resumes or kills the thread that each active lane is bound to, and retires the active lanes; HKILL retires the
threads with a fatal record. XRD reads and XWR writes a register of the origin lane, after the origin's quadrant has answered; a name that
is no register of the origin raises ILLEGAL or BADREG. Where the spec leaves the way open, the model chooses: logs 9, 21, 53, 75. -/
def Obligations.HandlerInstructions : Prop :=
  ∀ (d a b : Opnd) (s : State), Issuing s →
    let lanes (e : Info) : List Nat := LaneMask.lanes (acts e s)
    Runs (.hret a) s (fun e =>
      let recs : List (Nat × Nat × TrapRec) := (lanes e).filterMap fun l => (s.boundRec s.g l).map fun r => (l, (argA e s l).toNat, r)
      ((∃ l ∈ lanes e, (argA e s l).toNat > 2) → exec (.hret a) s = .next (s.trapGroup 0x09)) ∧
      ((∀ l ∈ lanes e, (argA e s l).toNat ≤ 2) → (∃ x ∈ recs, x.2.1 < 2 ∧ codeOk x.2.2.pc = false) →
        exec (.hret a) s = .next (s.trapGroup 0x0B)) ∧
      ((∀ l ∈ lanes e, (argA e s l).toNat ≤ 2) → (∀ x ∈ recs, x.2.1 < 2 → codeOk x.2.2.pc = true) → s.g.linkLost = true →
        exec (.hret a) s = lossReported s) ∧
      -- HRET completes
      ((∀ l ∈ lanes e, (argA e s l).toNat ≤ 2) → (∀ x ∈ recs, x.2.1 < 2 → codeOk x.2.2.pc = true) → s.g.linkLost = false →
        let read := (lanes e).foldl (fun u l => (u.readBound s.g l).1) (s.consume e)
        let released := recs.foldl (fun u x => threadReleased s x.1 x.2.1 x.2.2 u) read
        ∃ m : State, exec (.hret a) s = .next (((m.fileWaiting s.g.part).settle s.cur.unit s.cyc).reap s.cur.unit) ∧ deviceRest m = deviceRest released ∧
          (∀ u, u ≠ s.cur.unit → m.grp u = released.grp u) ∧
          m.g.slices = released.g.slices.map fun x =>
            let x := if x.inPath s.cur.path then { x with pc := nextBundle s.cur.pc } else x
            x.retire (x.part (acts e s)))) ∧
    Runs .hkill s (fun e =>
      let killed := ((lanes e).foldl (fun u l => threadKilled s l u) (s.consume e)).fileWaiting s.g.part
      ∃ t, exec .hkill s = .next t ∧ deviceRest t = deviceRest killed ∧ (∀ u, u ≠ s.cur.unit → t.grp u = killed.grp u) ∧
        ∀ r l, (t.g.regVal r).at l = (killed.g.regVal r).at l) ∧
    Runs (.xrd d a b) s (fun e =>
      let o := s.operands e
      ((argB e s 0).toNat > 1 → exec (.xrd d a b) s = .next (s.trapGroup 0x09)) ∧
      ((argB e s 0).toNat ≤ 1 →
        (∀ c, o.originTrap? = some c → exec (.xrd d a b) s = .next (s.trapGroup c)) ∧
        (o.originTrap? = none → o.stage = 0 → ∃ delay, Asks (.xrd d a b) s s.stamp fun u => (u.schedule delay (.originQuadrantAnswer s.stamp)).tick) ∧
        -- XRD completes
        (o.originTrap? = none → o.stage ≠ 0 →
          let v (l : Nat) : Word := match o.origins.find? fun x => x.1 == l with
            | none => 0
            | some (_, og, r) =>
              let reg := (argA e s l).toNat
              if argB e s 0 = 0 then (og.regVal reg).at r.lane
              else match og.regState reg with
                | .dead => 0
                | .full => 2
                | _ => 1
          ∃ t, exec (.xrd d a b) s = .next t ∧ Written s t e d v (acts e s) ∧ PushedFrom s t e d v (acts e s) ∧
            Stepped s t e id (some d) []))) ∧
    Runs (.xwr a b) s fun e =>
      let o := s.operands e
      let waits : Bool := o.origins.any fun x => (x.2.1.regState (argA e s x.1).toNat).isPending
      let written := o.origins.foldl (fun u x => u.modGrp x.2.1.unit fun g =>
        g.writeReg (argA e s x.1).toNat (Lanes.uniform (argB e s x.1)) (BitVec.ofNat 32 (2 ^ x.2.2.lane))) s
      (∀ c, o.originTrap? = some c → exec (.xwr a b) s = .next (s.trapGroup c)) ∧
      (o.originTrap? = none → (o.stage = 0 ∨ waits = true) →
        ∃ delay, Asks (.xwr a b) s s.stamp fun u => (u.schedule delay (.originQuadrantAnswer s.stamp)).tick) ∧
      -- XWR completes
      (o.originTrap? = none → o.stage ≠ 0 → waits = false → (∀ x ∈ o.origins, x.2.1.unit ≠ s.cur.unit) →
        ∃ t, exec (.xwr a b) s = .next t ∧ AgesKept s t e ∧ GroupFrame s t e id none [] ∧ CachesKept s t e none ∧
          deviceRest t = deviceRest s ∧ ∀ u, u ≠ s.cur.unit → t.grp u = written.grp u)

/-- R363 to R366: SVC stalls while its core's mailbox is full, is a release, and leaves a request record with its handle pending.
MBXGET takes the oldest entry that no group has taken, into lanes 0 to 8, and waits while there is none; MBXPUT replies to a taken
entry by its tag, as a release, or says that there is none.
Where the spec leaves the way open, the model chooses: log 36. -/
def Obligations.Mailboxes : Prop :=
  ∀ (d a b : Opnd) (imm : BitVec 8) (s : State), Issuing s →
    let core := s.g.core
    Runs (.svc d a imm) s (fun e =>
      let i : Instr := .svc d a imm
      let ops : List Word := match a with
        | .sreg k => [0, 1, 2, 3, 4, 5].map fun n => s.g.sval (k.val + n)
        | _ => []
      ((s.mailbox core).length ≥ 16 → Stalls i s .mailRoom) ∧
      ((s.mailbox core).length < 16 → Releases i s false (∃ t m, exec i s = .next t ∧ t.mail = Store.set s.mail core (s.mailbox core ++ [m]) ∧
        m.words = mailWords s.g imm.toNat ops ∧ m.code = imm.toNat % 32 ∧ m.version = imm.toNat / 32 ∧ m.taken = false ∧
        m.unit = s.g.unit ∧ m.serial = s.g.serial ∧ m.dst = d.reg? ∧ m.index < 16 ∧
        (∀ r, d.reg? = some r → t.g.regState r = .pending m.token ∧ ∀ l, (t.g.regVal r).at l = (s.g.regVal r).at l) ∧
        AgesKept s t e ∧ CachesKept s t e (some d) ∧ GroupFrame s t e id (some d) [] ∧ (∀ u, u ≠ s.cur.unit → t.grp u = s.grp u) ∧
        accessRest { t with mail := [] } = accessRest { s with mail := [] } ∧ t.mm = s.mm))) ∧
    Runs (.mbxget d) s (fun e =>
      let i : Instr := .mbxget d
      let now := s.mustSwitch core
      let switched : Bool := now || (s.operands e).arg == 1
      let after (u : State) : State := if now then u.switchCurator core else u
      ((after s).unserved core = [] → ∃ w : Wait, w.why = .mailbox ∧ w.keep = s.keep ∧ (w.arg = 1 ↔ switched = true) ∧
        exec i s = .next (after (s.modP fun q => { q with answer := none, wait := some w }))) ∧
      -- An entry of the device's own that the switch answers retires a group
      let plain : Prop := now = true → ∀ m ∈ s.unserved core, m.code ≠ 0x1F
      (¬plain → ∃ t, exec i s = .next t) ∧
      ∀ m r, plain → (after s).unserved core = m :: r → m.words.length ≤ 8 → ∃ t, exec i s = .next (if switched then t.enterImage else t) ∧
        let v (l : Nat) : Word := if l = 8 then word ((after s).mailTag core m.index) else m.words.getD l 0
        Written s t e d v 0x1FF ∧ Pushed s t e v 0x1FF ∧ CachesKept s t e (some d) ∧
        (∀ r l, d.reg? ≠ some r → (t.g.regVal r).at l = ((after s).g.regVal r).at l) ∧ (∀ p, t.g.pred p = s.g.pred p) ∧
        (∀ u, u ≠ s.cur.unit → t.grp u = (after s).grp u) ∧
        t.mail = Store.set (after s).mail core (((after s).mailbox core).map fun x => if x.index = m.index then { x with taken := true } else x) ∧
        t.mm.cells = s.mm.cells) ∧
    Runs (.mbxput d a b) s fun e =>
      let i : Instr := .mbxput d a b
      let entry := (s.mailbox core).find? fun m => m.taken && s.mailTag core m.index == (argA e s 0).toNat
      (entry = none → Yields i s e d fun _ => 1) ∧
      ∀ m, entry = some m → Releases i s false
        (let replied := (s.consume e).replyMail core m.index (argB e s 0)
         ∃ t, exec i s = .next t ∧ deviceRest t = deviceRest replied ∧ (∀ u, u ≠ s.cur.unit → t.grp u = replied.grp u) ∧
           (replied.hasGrp s.cur.unit = true → (∀ g ∈ s.groups, g.serial = m.serial → g.unit ≠ s.cur.unit) → Written s t e d (fun _ => 0) (acts e s)))

/-- R89, R91, R103, R373: CTXLD and CTXST hand a request record to the die's engine and complete with its status; TLBI refuses a
target outside its partition, is a release, and completes when the invalidation is acknowledged; PMSET sets the core's tolerance and
gives the old one, or with selector 1 gives the power state.
Where the spec leaves the way open, the model chooses: logs 37, 43, 44. -/
def Obligations.CuratorInstructions : Prop :=
  ∀ (d a b : Opnd) (k : Fin 8) (sel : Bool) (s : State), Issuing s →
    let answered (i : Instr) (e : Info) (v : List Word) : Prop := ∃ t, exec i s = .next t ∧
      Written s t e d (fun _ => v.headD 0) (acts e s) ∧ Pushed s t e (fun _ => v.headD 0) (acts e s) ∧
      Stepped s t e (answerTaken s) (some d) []
    let contexts (i : Instr) (load : Bool) : Prop := Runs i s fun e =>
      let o := s.operands e
      (∀ v, o.stage = 1 → s.p.answer = some v → answered i e v) ∧
      (o.stage ≠ 1 ∨ s.p.answer = none → Asks i s s.stamp fun u =>
        let x : CtxOp := { token := s.stamp, die := dieOf s.g.core, op := 0, ctx := (argA e s 0).toNat, record := (argB e s 0).toNat
                           image := 0, limit := 0, part := s.g.part, load := load }
        let v : State := { u.tick with ctxOps := s.ctxOps ++ [x] }
        v.schedule 400 (.requestRecordChecked s.stamp))
    contexts (.ctxld d a b) true ∧ contexts (.ctxst d a b) false ∧
    Runs (.tlbi d a k) s (fun e =>
      let i : Instr := .tlbi d a k
      let id : Nat := match a with
        | .sreg n => (s.g.sval (n.val + 1)).toNat
        | _ => 0
      let x : Inval := { token := s.stamp, kind := k.val, addr := argA e s 0, id := if k.val ≤ 2 then id % 2 ^ 32 else id % 2 ^ 16
                         part := s.g.part, since := 0 }
      let o := s.operands e
      (∀ v, o.stage = 2 → s.p.answer = some v → answered i e v) ∧
      (o.stage = 2 → s.p.answer = none → Waits i s .answer) ∧
      (o.stage ≠ 2 → s.invalAllowed x = false → Yields i s e d fun _ => 1) ∧
      -- A release of the whole group's accesses
      (o.stage ≠ 2 → s.invalAllowed x = true →
        (s.g.linkLost = true → exec i s = lossReported s) ∧
        (s.g.linkLost = false → s.allPerformed s.g = false → Waits i s .allPerformed) ∧
        (s.g.linkLost = false → s.allPerformed s.g = true → Asks i s s.stamp fun u => u.tick.acceptInval x))) ∧
    Runs (.pmset d a sel) s fun e =>
      let i : Instr := .pmset d a sel
      (sel = true → Yields i s e d fun _ => word s.mgmt.power) ∧
      (sel = false → YieldsWith i s e d (fun _ => word (Store.getOr s.mgmt.tolerances s.g.core 0)) id fun s =>
        State.wantPower { s.spend e.cost with
          mgmt := { s.mgmt with tolerances := Store.set s.mgmt.tolerances s.g.core ((argA e s 0).toNat % 2 ^ 32) } })

/-! ### Issue, traps and records -/

/-- R24, R35, R36, R37, R67, R69, R70, R358: what an instruction checks before it acts, in their order, and the trap that each check
raises; a register that is EMPTY and not marked makes it wait. A reserved opcode is ILLEGAL. -/
def Obligations.IssueChecks : Prop :=
  (∀ (i : Instr) (s : State) (e : Info), entryOf i s = some e →
    (permitted e s = false → exec i s = .next (s.trapGroup 0x0A)) ∧
    (permitted e s = true → lawful e s = false → exec i s = .next (s.trapGroup 0x09)) ∧
    (permitted e s = true → lawful e s = true → inAllocation e s = false → exec i s = .next (s.trapGroup 0x15)) ∧
    (permitted e s = true → lawful e s = true → inAllocation e s = true →
      (firstIssue s = true → upperValid e s = false → exec i s = .next (s.trapGroup 0x08)) ∧
      ((firstIssue s = true → upperValid e s = true) → hasRead s = false →
        (noneDead e s = false → exec i s = .next (s.trapGroup 0x07)) ∧
        (noneDead e s = true → noneLost e s = false → exec i s = .next (s.trapGroup 0x1B))) ∧
      (readable e s = true →
        let trapped := firstIssue s && (e.trapping s.cur.ctl).any fun r => (s.g.regState r).isEmpty
        let awaited := awaitedSources e s ++ awaitedDests e s
        (trapped = true → exec i s = .next (s.trapGroup 0x06)) ∧
        (trapped = false → awaited ≠ [] → s.g.stranded (awaitedSources e s) = false → awaited.any s.g.lateReg = false →
          AwaitsRegisters i s (awaitedSources e s) (awaitedDests e s))))) ∧
  ∀ (w : BitVec 32) (s : State), exec (.reservedOpcode w) s = .next (s.trapGroup 0x09)

/-- R315, R326, R327, R329: a group trap saves the code address and the cause, deepens the handler depth and holds the other paths; the
path goes on at the group handler entry. With an unusable entry, at depth 2 or in a handler group every lane of the group is retired.
The fields of a lane's trap record, and their places in its 64 bytes; a record of a handler lane that is bound names the origin's
context and the next level.
Where the spec leaves the way open, the model chooses: log 53. -/
def Obligations.TrapTaking : Prop :=
  (∀ (s : State) (c : Nat), Issuing s →
     let t := s.trapGroup c
     (s.g.kind ≠ .handler → s.g.hdl.length < 2 → ∀ u entry, s.usableEntry s.g = (u, some entry) →
       t.g.tpc = s.cur.pc ∧ t.g.tcause = c ∧ t.g.hdl.map (·.kind) = .gtrap :: s.g.hdl.map (·.kind) ∧
       t.g.slices = s.g.slices.map (fun x =>
         if x.inPath s.cur.path then { x with pc := entry, held := false } else { x with held := true }) ∧
       (∀ q ∈ t.g.paths, q.held = decide (q.id ≠ s.cur.path)) ∧ t.g.paths.map (·.id) = s.g.paths.map (·.id) ∧
       t.g.cur = s.cur.path ∧ AgesGone t ∧ t.g.gregs = s.g.gregs ∧ t.g.sregs = s.g.sregs ∧ t.g.preds = s.g.preds ∧
       t.g.caches = s.g.caches ∧ t.g.tiles = s.g.tiles ∧ (∀ v, v ≠ s.cur.unit → t.grp v = s.grp v) ∧ t.mm = u.mm) ∧
     (s.g.kind = .handler ∨ s.g.hdl.length ≥ 2 ∨ (s.usableEntry s.g).2 = none →
       t.hasGrp s.cur.unit = true → ∀ x ∈ t.g.slices, x.idx < 8 → x.run = 0 ∧ x.gone = 15)) ∧
  ((∀ r : TrapRec, r.level < 3 → r.reason < 8 →
     let f := fieldOf r.toBytes
     r.toBytes.length = 64 ∧ f 0 4 = r.ctx % 2 ^ 32 ∧ f 4 2 = r.core % 2 ^ 16 ∧ f 6 1 = r.slot % 256 ∧ f 7 1 = r.lane % 256 ∧
     f 8 1 = r.cause % 256 ∧ f 9 1 % 4 = r.level ∧ f 9 1 / 4 % 4 = 0 ∧ f 9 1 / 16 % 8 = r.reason ∧ f 9 1 / 128 = r.fatal.toNat ∧
     f 10 1 = r.dest % 256 ∧ f 11 1 = r.status % 256 ∧ f 12 4 = r.instr.toNat ∧ f 16 8 = r.pc.toNat ∧ f 24 8 = r.fault.toNat ∧
     f 32 8 = r.a.toNat ∧ f 40 8 = r.b.toNat ∧ f 48 8 = r.c.toNat ∧ f 56 8 = r.repair.toNat) ∧
   ∀ (s : State) (l cause dest status : Nat) (fault a b c repair : Word),
     let r := s.laneRec l cause dest status fault a b c repair
     r.core = s.g.core ∧ r.slot = s.g.slot ∧ r.lane = l ∧ r.cause = cause ∧ r.dest = dest ∧ r.status = status ∧ r.fatal = false ∧
     r.reason = 0 ∧ r.instr = s.cur.instr ∧ r.pc = s.cur.pc ∧ r.fault = fault ∧ r.a = a ∧ r.b = b ∧ r.c = c ∧ r.repair = repair ∧
     (s.g.kind ≠ .handler → r.ctx = s.g.ctx ∧ r.level = 0) ∧
     ∀ o, s.g.kind = .handler → s.recOf? s.g l = some o → r.ctx = o.ctx ∧ r.level = o.level + 1)

/-! ### Encoding -/

/-- R20 to R24, R33, R34: every instruction of the opcode map has a word, and decoding the word of a well-formed one gives it back, with
every operand at every value of its field. -/
def Obligations.DecodeEncode : Prop :=
  (∀ i s e, entryOf i s = some e → encode i / 2 ^ 24 = e.opcode ∧ encode i < 2 ^ 32 ∧ encode i ≠ noWord) ∧
  (∀ i : Instr, i.wf = true → encode i ≠ noWord → decode (encode i) = .ok i) ∧
  decode noWord = .ok (.reservedOpcode 0xFFFFFFFF)

/-- R20, R33: a word stands for one instruction only; decoding and encoding it again gives the word. -/
def Obligations.EncodeDecode : Prop := ∀ (w : Nat) (i : Instr), w < 2 ^ 32 → decode w = .ok i → encode i = w

/-- R20, R24, R33, R34: words written out from the encoding decode to the instructions they stand for. -/
def Obligations.DecodesWords : Prop :=
  -- NOP; BRA −1 in format J; BR !p3, −2 in format JP
  decode 0x00000000 = .ok .nop ∧ decode 0x01FFFFFF = .ok (.bra (-1)) ∧ decode 0x02BFFFFE = .ok (.br true 3 (-2)) ∧
  -- IADD g0, s1, #; FCMP.lt p5, g1, z; MOV c2, a1
  decode 0x2030110D = .ok (.iadd (.greg 0) (.sreg 1) .lit) ∧ decode 0x4F15310C = .ok (.fcmp .lt 5 (.greg 1) .zero) ∧
  decode 0x70060100 = .ok (.mov (.cache 2) (.age 1)) ∧
  -- MOV with a bit in its unused field B; the reserved opcode 0xFF
  decode 0x70060101 = .error (.unusedField 0x70) ∧ decode 0xFF000000 = .ok (.reservedOpcode 0xFF000000)

/-! ### Steps -/

/-- R17, R18, R32, R37, R38, R39, R116, R142, R373: a step takes the first due event; outside PS0 nothing else happens. In PS0 a step with
nothing due first takes notice of what each clk shows of the groups (State.observe), and then takes the group whose turn it is: it delivers
a user interrupt, or issues the slot of the chosen path's bundle, fetched where the path enters it, as the instruction that its word
decodes to. A word that is no instruction raises PRIV or ILLEGAL. Where the spec leaves the way open, the model chooses: logs 9, 11, 44,
71. -/
def Obligations.StepRunsDecoded : Prop :=
  (∀ (s u : State) (ev : Instr), s.powered = true → s.dueEvent = some (ev, u) → step s = exec ev u) ∧
  (∀ s : State, s.powered = true → s.dueEvent = none →
    let v := s.observe
    (s.mgmt.power ≠ 0 → step s = .next ((if v.powerHolds v.mgmt.power then v else v.wakePower).spend 1)) ∧
    (s.mgmt.power = 0 → (∀ ev, v.dueExchange = some ev → step s = exec ev v) ∧
      (v.dueExchange = none → v.issuer = none → step s = .next (v.spend 1)))) ∧
  ∀ (s v : State) (g : Group), s.powered = true → s.mgmt.power = 0 → s.dueEvent = none → v = s.observe → v.dueExchange = none →
    v.issuer = some g →
    (v.deliverable g = true → step s = exec (.userInterruptDelivery g.unit) v) ∧
    ∀ p, v.deliverable g = false → v.choose g = some p →
      let inBundle (v : State) (b : Bundle) (r : Res) : Prop :=
        let h := v.grp g.unit
        (h.pathArrives (h.path p) = true → r = exec (.arrival g.unit p) v) ∧
        (h.pathArrives (h.path p) = false → b.nextSlot (slotOf (h.pathPc p)) = none → r = .next (v.passBundle g.unit p b)) ∧
        (h.pathArrives (h.path p) = false → ∀ j, b.nextSlot (slotOf (h.pathPc p)) = some j →
          let c := (v.select g.unit p).setCur g.unit p b j
          let stops : Bool := b.ctl j / 256 % 2 == 1 && v.stopArmed h && !(h.path p).brkOk
          (stops = true → r = .next (((v.setCur g.unit p b j).modP fun q => { q with brkOk := true }).stopGroup g.unit)) ∧
          (stops = false →
            (∀ i, decode (b.word j).toNat = .ok i → r = exec i c) ∧
            ∀ op, decode (b.word j).toNat = .error (.unusedField op) →
              let sr := (op = 0x18 ∨ op = 0x19) ∧ srPriv c.g ((b.word j).toNat % 256) = true
              (privileged op > c.g.level ∨ sr → r = .next (c.trapGroup 0x0A)) ∧
              (¬(privileged op > c.g.level ∨ sr) → r = .next (c.trapGroup 0x09))))
      (∀ b, ((v.grp g.unit).path p).buf = some b → inBundle v b (step s)) ∧
      (((v.grp g.unit).path p).buf = none → ∀ t, exec (.bundleFetch g.unit p) v = .next t →
        (∀ b, ((t.grp g.unit).path p).buf = some b → inBundle t b (step s)) ∧
        (((t.grp g.unit).path p).buf = none → step s = .next t))

/-- R10, R12, R282, R357, R364, R370, R373: what the spec says of the device after reset. The model's choices: both images have been verified
(log 74), the shipped firmware's group of each curator slot is held as one that waits for it (log 64), and memory has its canonical form
(log 5). -/
def Obligations.ResetState : Prop :=
  let r := State.reset
  r.cyc = 0 ∧ r.devno = 0 ∧ (∀ p, (r.part p).done = 0) ∧ (∀ n, Store.getOr r.mailGen n 0 = 0) ∧ r.mgmt.hostTolerance = 0 ∧
  r.mgmt.power = 0 ∧ r.mgmt.booted = true ∧ (∀ core, core < 192 → (r.grp (64 * core + 63)).byFirmware = true) ∧
  (∀ g ∈ r.groups, g.kind = .curator ∧ g.slot = 63 ∧ g.core < 192) ∧ r.ctxs = [] ∧ r.kernels = [] ∧ r.ops = [] ∧ r.mm.wf

/-- Log 5: every step keeps the canonical form of the memory, in which equal memories are equal data. -/
def Obligations.StepKeepsMemoryForm : Prop := Kept fun s => s.mm.wf

/-! ### Events of issue and scheduling -/

/-- R15, R19, R32, R38, R71, R100, R116, R117, R123, R129, R140, R142, R143: a path fetches its bundle, which the bundle check may charge
or translation may fault; it arrives at its reconvergence point; groups exchange places in the active set, by choice or when overdue; a
pending group's registers turn drowsy, a group parks, a sleeping one wakes; and a user interrupt is delivered.
Where the spec leaves the way open, the model chooses: logs 9, 11, 23, 56, 59, 71, 76, 85. -/
def Obligations.SchedulingEvents : Prop :=
  ∀ (s : State) (u p q : Nat),
    let g := s.grp u
    -- BUNDLE_FETCH
    (g.pathSlices p ≠ [] → s.hasGrp u = true →
      (∀ v b, s.fetchAt g (bundleOf (g.pathPc p)) = (v, .inl b) →
        (b.charged = none → Happens (.bundleFetch u p) s fun t => OnlyGroup v t u ∧
          t.grp u = { g with paths := g.paths.map fun x => if x.id = p then { x with buf := some b } else x }) ∧
        ∀ n, b.charged = some n → exec (.bundleFetch u p) s =
          .next (State.trapGroup { v with cur := { unit := u, path := p, pc := bundleOf (g.pathPc p) + BitVec.ofNat 64 n } } 0x09)) ∧
      ∀ v kind stage, s.fetchAt g (bundleOf (g.pathPc p)) = (v, .inr (kind, stage)) → ∃ recs : List TrapRec,
        exec (.bundleFetch u p) s = .next (State.detachLanes { v with cur := { unit := u, path := p, pc := g.pathPc p } } u p recs) ∧
        recs.map (·.lane) = LaneMask.lanes (g.live p) ∧
        ∀ r ∈ recs, r.cause = faultCause kind ∧ r.status = faultStatus kind stage .fetch ∧ r.dest = 0x0C ∧ r.pc = g.pathPc p ∧
          r.fault = bundleOf (g.pathPc p) ∧ r.instr = 0 ∧ r.a = 0 ∧ r.b = 0 ∧ r.c = 0 ∧ r.repair = 0) ∧
    -- ARRIVAL
    (s.hasGrp u = true → ∃ m, exec (.arrival u p) s = .next ((m.settle u).unpark u) ∧ OnlyGroup s m u ∧ FilesKept g (m.grp u) ∧
      (m.grp u).slices = g.slices.map fun x =>
        if g.pathArrives (g.path p) = true ∧ x.inPath p = true then
          match x.rcv with
          | [] => x
          | e :: r => { x with rcv := { e with arrived := e.arrived ||| x.run } :: r, run := 0 }
        else x) ∧
    -- EXCHANGE, FORCED_EXCHANGE
    (s.exchangeDue q = false → exec (.exchange q) s = .next s) ∧
    (s.forced q = none → exec (.forcedExchange q) s = .next s) ∧
    (∀ i, s.incoming q = some i →
      let enters (t : State) : Prop :=
        (t.grp i.unit).st = .active ∧ (t.grp i.unit).setSince = s.cyc ∧ (t.grp i.unit).drowsy = false ∧
        (t.grp i.unit).issueFrom = max (s.grp i.unit).issueFrom (s.cyc + 8 + (if (s.grp i.unit).drowsy then 24 else 0)) ∧ FilesKept (s.grp i.unit) (t.grp i.unit)
      let leaves (t : State) (o : Group) : Prop :=
        (t.grp o.unit).st = .pending ∧ (t.grp o.unit).setSince = s.cyc ∧ UpperGoneOf (t.grp o.unit) ∧
        (∀ y ∈ (t.grp o.unit).paths, y.buf = none) ∧ (({ clk := s.cyc + 4097, ev := .registersDrowsy o.unit } : Due) ∈ t.agenda) ∧
        (t.grp o.unit).gregs = (s.grp o.unit).gregs ∧ (t.grp o.unit).sregs = (s.grp o.unit).sregs
      let swapped (t : State) (o : Group) : Prop :=
        enters t ∧ leaves t o ∧ (∀ v, v ≠ i.unit → v ≠ o.unit → t.grp v = s.grp v) ∧ t.mm = s.mm
      (s.exchangeDue q = true → (s.actives q).length < 8 → Happens (.exchange q) s fun t => enters t ∧ OnlyGroup s t i.unit) ∧
      ∀ o, o.unit ≠ i.unit →
        (s.exchangeDue q = true → (s.actives q).length ≥ 8 → s.outgoing q = some o → Happens (.exchange q) s fun t => swapped t o) ∧
        (s.forced q = some o → Happens (.forcedExchange q) s fun t => swapped t o)) ∧
    -- REGISTERS_DROWSY, GROUP_PARK, SLEEP_WAKE
    (s.hasGrp u = true →
      (Happens (.registersDrowsy u) s fun t => OnlyGroup s t u ∧ FilesKept g (t.grp u) ∧ (t.grp u).st = g.st ∧
        (t.grp u).drowsy = (g.drowsy || (g.st == .pending && decide (g.setSince + 4096 < s.cyc)))) ∧
      (Happens (.groupPark u) s fun t => OnlyGroup s t u ∧ FilesKept g (t.grp u) ∧
        (t.grp u).st = if (∃ c, g.absentSince = some c ∧ c + 64 ≤ s.cyc) ∧ g.awaitsAbsent = true ∧ (g.st = .active ∨ g.st = .pending)
          then .parked else g.st) ∧
      (¬(g.st = .sleeping ∧ s.ready g = true) → s.mgmt.power ≠ 1 → exec (.sleepWake u) s = .next s) ∧
      (g.st = .sleeping ∧ s.ready g = true → Happens (.sleepWake u) s fun t => FilesKept g (t.grp u) ∧ (t.grp u).st = .pending ∧
        (t.grp u).setSince = s.cyc ∧ (∀ v, v ≠ u → t.grp v = s.grp v) ∧ t.mm = s.mm)) ∧
    -- USER_INTERRUPT_DELIVERY
    (s.deliverable g = false → exec (.userInterruptDelivery u) s = .next s) ∧
    (s.hasGrp u = true → s.deliverable g = true → (∃ x ∈ g.paths, g.takes x = true ∧ (s.pathAble g x = true ∨ x.wait ≠ none)) →
      ((s.usableEntry g).2 = none → Happens (.userInterruptDelivery u) s fun t => LanesGone t u) ∧
      ∀ e, (s.usableEntry g).2 = some e → Happens (.userInterruptDelivery u) s fun t => ∃ w ∈ g.ints, ∃ x ∈ g.paths,
        w.due ≤ s.cyc ∧ (∀ y ∈ g.ints, y.due ≤ s.cyc → w.vec ≤ y.vec) ∧ g.takes x = true ∧
        (t.grp u).uipc = g.pathPc x.id ∧ (t.grp u).tpc = word w.vec ∧ (t.grp u).tcause = 0x19 ∧
        (t.grp u).hdl.map (·.kind) = .delivery :: g.hdl.map (·.kind) ∧ (t.grp u).ints = g.ints.filter (fun y => y.vec != w.vec) ∧
        (t.grp u).slices = g.slices.map (fun y =>
          if y.inPath x.id then { y with pc := e, held := false } else { y with held := true }) ∧
        (∀ y ∈ (t.grp u).paths, y.id ≠ x.id → y.held = true) ∧ (t.grp u).cur = x.id ∧ AgesGoneOf (t.grp u) ∧
        FilesKept g (t.grp u) ∧ ∀ v, v ≠ u → t.grp v = s.grp v)

/-! ### Events of memory and translation -/

/-- R38, R69, R97, R102, R177, R181, R215, R254, R358, R391: the data of a long-latency producer arrive, or are lost; an access is
performed; the old bundles of a CCTL are done with; a page walk fills the translation caches; a predictor entry falls quiet. An
invalidation drops what matches, is acknowledged only when nothing unsettled holds a match, and aborts what still does after 65,536 clk.
Where the spec leaves the way open, the model chooses: logs 8, 9, 19, 20, 23, 37, 42, 61, 63, 73. -/
def Obligations.MemoryEvents : Prop :=
  ∀ (s : State) (token u : Nat),
    -- LONG_LATENCY_COMPLETE
    (∀ f, s.mm.flights.find? (fun f => f.token == token) = some f →
      -- A port that it needs retrains, or its quadrant is being zeroed
      let busy := Store.getOr s.mm.quadBusy (quadOf f.unit) 0
      (s.stuck f.links = true → exec (.longLatencyComplete token) s = .next s) ∧
      (s.stuck f.links = false → s.cyc < busy →
        exec (.longLatencyComplete token) s = .next (s.scheduleAt busy (.longLatencyComplete token)))) ∧
    (∀ f₀ f, s.mm.flights.find? (fun f => f.token == token) = some f₀ → s.stuck f₀.links = false →
      Store.getOr s.mm.quadBusy (quadOf f₀.unit) 0 ≤ s.cyc →
      -- What its lanes still do at a peer is done, and gives the values of an atomic
      let served := (f₀.lanes.filter fun x => !x.lost).foldl State.serveLane s
      served.mm.flights.find? (fun f => f.token == token) = some f → s.hasGrp f.unit = true → (s.grp f.unit).serial = f.serial →
      0x10 ≤ f.reg → (s.grp f.unit).regState f.reg = .pending f.token →
      let old (r l : Nat) : Word := ((s.grp f.unit).regVal r).at l
      ∃ m : State, exec (.longLatencyComplete token) s = .next (m.reap f.unit) ∧
        m.mm = { served.mm with flights := served.mm.flights.filter fun x => x.token != token } ∧ (∀ v, v ≠ f.unit → m.grp v = s.grp v) ∧
        (∀ r l, 0x10 ≤ r → r ≠ f.reg →
          ((m.grp f.unit).regVal r).at l = old r l ∧ (m.grp f.unit).regState r = (s.grp f.unit).regState r) ∧
        (f.lanes.any (·.lost) = true →
          (m.grp f.unit).regState f.reg = .lost ∧ ∀ l, ((m.grp f.unit).regVal f.reg).at l = old f.reg l) ∧
        (f.lanes.any (·.lost) = false → (m.grp f.unit).regState f.reg = .full ∧
          (0x30 ≤ f.reg → ∀ l, l < 32 → ((m.grp f.unit).regVal f.reg).at l =
            ((f.lanes.find? fun x => x.lane == l).map (·.value)).getD (old f.reg l)) ∧
          (f.reg < 0x30 → ∀ v, f.lanes ≠ [] → (∀ x ∈ f.lanes, x.lane < 32 ∧ x.value = v) →
            ∀ l, l < 32 → ((m.grp f.unit).regVal f.reg).at l = v))) ∧
    (s.mm.flights.find? (fun f => f.token == token) = none → exec (.longLatencyComplete token) s = .next s) ∧
    -- ACCESS_PERFORMED
    (let fetched : State := { s with mm := { s.mm with prefetches := s.mm.prefetches.filter fun x => x.token != token } }
     (s.mm.stores.find? (fun x => x.token == token) = none → exec (.accessPerformed token) s = .next fetched) ∧
     ∀ x, s.mm.stores.find? (fun x => x.token == token) = some x →
      (s.stuck x.ports = true → exec (.accessPerformed token) s = .next fetched) ∧
      (s.stuck x.ports = false →
        let served := x.lanes.foldl State.serveLane fetched
        ∃ m : State, exec (.accessPerformed token) s = .next (m.reapOf x.serial) ∧ m.groups = s.groups ∧
          m.mm = { served.mm with stores := served.mm.stores.filter fun y => y.token != token })) ∧
    -- CODE_INVALIDATION_DONE
    (let waits (x : Path) : Bool := match x.wait with
       | some w => w.stage == 2 && w.arg == token && w.why == .answer
       | none => false
     ∀ g x, s.groups.find? (fun g => g.paths.any waits) = some g → g.paths.find? waits = some x → g.kind ≠ .handler →
       let scope := g.widestScope x.id
       let sp := s.groupSpace g
       let agent := s.agent g.unit
       let done (v : State) (hits : OldBundle → Prop) : Prop := Happens (.codeInvalidationDone token) s fun t =>
         (∀ y ∈ (t.grp g.unit).paths, y.id = x.id → y.answer = some []) ∧ (∀ w, w ≠ g.unit → t.grp w = s.grp w) ∧
         (∀ a, t.mm.byte a = v.mm.byte a) ∧
         ∀ o ∈ t.mm.code, hits o → agent.covers scope o.agent = true →
           ∀ h : Group, h.ctx = sp.ctx → agent.covers scope h.agent = true → h.xfer > v.stamp → o.live h = false
       (x.wait.bind (·.a) = none → done s fun _ => True) ∧
       ∀ va v pa ipa mt size, x.wait.bind (·.a) = some va →
         s.translate sp (va.at 0) .fetch = (v, .ok pa ipa mt size) → done v fun o => o.pa / 128 = pa / 128) ∧
    -- PAGE_WALK_COMPLETE
    (∀ va kind, Happens (.pageWalkComplete u va kind) s fun t => t.groups = s.groups ∧ t.cyc = s.cyc ∧
      (∀ e ∈ s.mm.seen, e ∈ t.mm.seen) ∧ ∀ a, copied s a = false → t.mm.byte a = s.mm.byte a) ∧
    -- PREDICTOR_QUIET
    (∀ core line, Happens (.predictorQuiet core line) s fun t => { t with mm := s.mm } = s ∧
      { t.mm with predictor := s.mm.predictor } = s.mm ∧ t.mm.predictor = s.mm.predictor.map fun e =>
        if e.core = core ∧ e.line = line ∧ e.quiet ≥ 64 then { e with state := .near0, quiet := 0 } else e) ∧
    -- INVAL
    (∀ pkt (ctx : BitVec 32) (kind : BitVec 8) (addr : BitVec 64) (id : BitVec 32),
      let i : Instr := .inval pkt ctx kind addr id
      let part := s.packetPart pkt
      let lives : Bool := s.ctxs.any fun c => c.id == id.toNat && c.st != .destroyed && c.st != .migrated
      let target : Inval := { token := s.stamp, kind := kind.toNat, addr := addr, id := id.toNat, part := part, since := s.cyc, packet := some pkt }
      (s.ctxStatus pkt ctx.toNat ≠ 0 → exec i s = .next (s.completePacket pkt (s.ctxStatus pkt ctx.toNat))) ∧
      (s.ctxStatus pkt ctx.toNat = 0 →
        (kind.toNat ≤ 2 → lives = false → exec i s = .next (s.completePacket pkt 5)) ∧
        ((kind.toNat ≤ 2 → lives = true) →
          (s.invalAllowed target = false → exec i s = .next (s.completePacket pkt 7)) ∧
          (s.invalAllowed target = true → Happens i s fun t => t.invals = s.invals ++ [target] ∧ t.groups = s.groups ∧
            (({ clk := s.cyc + 600, ev := .invalidationAck s.stamp } : Due) ∈ t.agenda) ∧
            (({ clk := s.cyc + 65536, ev := .invalidationTimeout s.stamp } : Due) ∈ t.agenda) ∧
            ∀ e ∈ t.mm.seen, e.part = part →
              (kind = 1 → e.stage2 = true ∨ e.ctx ≠ id.toNat) ∧
              (kind = 2 → e.stage2 = false → e.ctx = id.toNat → e.base ≤ addr.toNat % 2 ^ 48 → addr.toNat % 2 ^ 48 < e.base + e.size →
                (addr.toNat % 2 ^ 48 / 4096 * 4096, 4096) ∈ e.cleared) ∧
              (kind = 3 → e.dom ≠ id.toNat) ∧
              (kind = 4 → e.stage2 = true → e.dom = id.toNat → e.base ≤ addr.toNat → addr.toNat < e.base + e.size →
                (addr.toNat / 4096 * 4096, 4096) ∈ e.cleared))))) ∧
    -- INVALIDATION_ACK, INVALIDATION_TIMEOUT
    ∀ i, s.invals.find? (fun i => i.token == token) = some i →
      let left : State := { s with invals := s.invals.filter fun x => x.token != token }
      (s.unsettled i = true → exec (.invalidationAck token) s = .next (s.schedule 64 (.invalidationAck token))) ∧
      (s.unsettled i = false →
        (∀ k, i.packet = some k → exec (.invalidationAck token) s = .next (left.completePacket k 1)) ∧
        (i.packet = none → exec (.invalidationAck token) s = .next (left.answerToken token [if i.aborted then 2 else 0]))) ∧
      (i.since + 65536 > s.cyc ∨ s.unsettled i = false → exec (.invalidationTimeout token) s = .next s) ∧
      (i.since + 65536 ≤ s.cyc → s.unsettled i = true →
        -- A lane is aborted by its fault address; one whose store, reduction or atomic has been performed is not, and is settled
        let aborts (write : Bool) (held : List Held) (x : FlightLane) : Prop := (write = true → x.act ≠ none) ∧ i.faultAt? held x ≠ none
        let some_ : Prop := (∃ f ∈ s.mm.flights, ∃ x ∈ f.lanes, aborts f.atomic f.held x) ∨
          (∃ y ∈ s.mm.stores, ∃ x ∈ y.lanes, aborts true y.held x) ∨ ∃ o ∈ s.ops, o.status = 0 ∧ (o.held.any fun h => i.matchesHeld h.2) = true
        Happens (.invalidationTimeout token) s fun t =>
          (∀ f ∈ t.mm.flights, f.held.any i.matchesHeld = false) ∧ (∀ y ∈ t.mm.stores, y.held.any i.matchesHeld = false) ∧
          (∀ o ∈ t.ops, o.status = 0 → (o.held.any fun h => i.matchesHeld h.2) = false) ∧
          (some_ → ∀ x ∈ t.invals, x.token = token → x.aborted = true) ∧ (¬some_ → t.invals = s.invals))

/-! ### Events of the engines and of the matrix unit -/

/-- R184, R190, R193, R194, R196, R198, R235, R238, R240, R241, R245: an operation does its next unit, ends, and completes in its class's
order with its word, its register and its counter; one that is late is raised. A matrix step ends on its tiles; the unit's states and hint
count change; a complete rendezvous has its steps accepted, and a broken one traps. Where the spec leaves the way open, the model chooses:
logs 2, 9, 24, 28, 31, 32, 52, 78, 82. -/
def Obligations.EngineEvents : Prop :=
  ∀ (s : State) (token quad : Nat),
    (s.ops.find? (fun x => x.token == token) = none → exec (.engineOpComplete token) s = .next s ∧ exec (.macroStep token) s = .next s ∧
      exec (.late token) s = .next s) ∧
    (∀ op, s.ops.find? (fun x => x.token == token) = some op →
      let g := s.grp op.unit
      -- ENGINE_OP_COMPLETE
      let first : Prop := (s.classOps op.serial op.cls).head?.map (·.token) = some token
      (op.status = 0 ∨ ¬first → exec (.engineOpComplete token) s = .next s) ∧
      (op.status ≠ 0 → first → ∃ m : State, exec (.engineOpComplete token) s = .next (m.reap op.unit) ∧
        m.ops = s.ops.filter (fun x => x.token != token) ∧ m.mm = s.mm ∧ (∀ v, v ≠ op.unit → m.grp v = s.grp v) ∧
        (s.hasGrp op.unit = true → g.serial = op.serial →
          Store.getOr (m.grp op.unit).cnt op.cls 0 = Store.getOr g.cnt op.cls 0 - 1 ∧
          (∀ r l, 0x10 ≤ r → op.dst ≠ some r →
            ((m.grp op.unit).regVal r).at l = (g.regVal r).at l ∧ (m.grp op.unit).regState r = g.regState r) ∧
          ∀ r, op.dst = some r → 0x10 ≤ r → g.regState r = .pending token → (m.grp op.unit).regState r = .full ∧
            ∀ l, l < 32 → ((m.grp op.unit).regVal r).at l = word (op.done * 2 ^ 32 + op.seq * 2 ^ 16 + op.cls * 2 ^ 13 + op.status))) ∧
      -- MACRO_STEP
      (op.cls = 5 → s.hashLive op = false →
        exec (.macroStep token) s =
          .next (((State.unitFreed { s with ops := s.ops.filter fun x => x.token != token } op)).reap op.unit)) ∧
      (op.cls = 5 → s.hashLive op = true →
        let zeroing : Bool := (laneIds.any fun l => (BitVec.ofNat 32 (op.work.getD 0 0) : LaneMask).getLsbD l &&
          (op.args.getD (3 + l) 0).toNat / 2 ^ 48 == 0xFFFE) && s.cyc < s.blockBusy g
        let runs : Bool := (s.mxUnit (quadOf op.unit)).seq.any fun e => e.1 == token && s.cyc < e.2
        let answered (v : State) (a : TAnswer) : Prop := Happens (.macroStep token) s fun t =>
          t.ops = v.ops.filter (fun x => x.token != token) ∧ t.tanswers = v.tanswers ++ [a] ∧ t.groups = (v.answerToken token []).groups
        let left (v : State) (n : Nat) : Prop := exec (.macroStep token) s =
          .next ((v.modOp token fun x => { x with work := op.work.take 1 ++ [n] }).schedule 0 (.macroStep token))
        (op.work[1]? = none → zeroing = true → exec (.macroStep token) s = .next (s.wantMacro 8 token)) ∧
        (op.work[1]? = none → zeroing = false → ∀ u a v n, s.hashAnswer op = (u, a) → u.hashSteps op = (v, n) →
          if a.vals = [] ∨ n = 0 then answered v a else left v n) ∧
        (∀ n, op.work[1]? = some n → runs = true → exec (.macroStep token) s = .next s) ∧
        ∀ n v, op.work[1]? = some n → runs = false →
          (s.seqTurn op 8 = (v, .wait) → exec (.macroStep token) s = .next (v.wantMacro 8 token)) ∧
          (∀ k, s.seqTurn op 8 = (v, .begun k) → exec (.macroStep token) s = .next (v.schedule k (.macroStep token))) ∧
          (s.seqTurn op 8 = (v, .over) → (n ≤ 1 → answered (v.hashAnswer op).1 (v.hashAnswer op).2) ∧ (1 < n → left v (n - 1)))) ∧
      (op.cls ≠ 5 →
        let turn : Prop := (s.headOp op).map (·.token) = some token ∧ s.midStep op = false
        let stops : Bool := op.cancel && !(s.mxUnit (quadOf op.unit)).runs op
        let ended (t : State) (done status : Nat) : Prop := ∀ x ∈ t.ops, x.token = token → x.done = done ∧ x.status = status
        let goesOn (v : State) (done : Nat → Nat) : Prop := Happens (.macroStep token) s fun t => t.mm = v.mm ∧ t.groups = v.groups ∧
          (∀ x ∈ t.ops, x.token = token → ∃ y ∈ v.ops, y.token = token ∧ x.done = done y.done) ∧
          ∃ c, ({ clk := c, ev := .macroStep token } : Due) ∈ t.agenda
        (op.status ≠ 0 ∨ ¬turn → exec (.macroStep token) s = .next s) ∧
        (op.status = 0 → turn →
          (stops = true → ∀ v done, s.stoppedAt op = (v, done) →
            Happens (.macroStep token) s fun t => ended t done 0x02 ∧ t.mm = v.mm ∧ t.groups = v.groups) ∧
          (stops = false → ∀ v done,
            let w := s.modOp token fun x => { x with held := [] }
            (∀ st, st ≠ bankWait → w.opUnit op = (v, .fin done st) → Happens (.macroStep token) s fun t => ended t done st ∧ t.mm = v.mm ∧
              t.groups = v.groups) ∧
            (w.opUnit op = (v, .fin done bankWait) → goesOn v fun _ => done) ∧ (w.opUnit op = (v, .wait) → goesOn v id) ∧
            ∀ after, w.opUnit op = (v, .more done after) → goesOn v fun _ => done))) ∧
      -- A step of the sequencer on the matrix unit
      (let quad := quadOf op.unit
       let u := s.mxUnit quad
       ∀ k,
        (∀ tok stop, u.seq = some (tok, stop) → s.seqTurn op k =
          if tok = token ∧ stop ≤ s.cyc then ((s.setMx quad { u with since := stop, seq := none }).startStep quad stop, .over) else (s, .wait)) ∧
        (u.seq = none → u.steps ≠ [] → s.seqTurn op k = (s, .wait)) ∧
        (u.seq = none → u.steps = [] →
          (u.st = .cold ∨ u.st = .rampdown → s.seqTurn op k = (s.rampUp quad s.cyc, .wait)) ∧
          (u.st = .rampup → s.seqTurn op k = (s, .wait)) ∧
          (u.st = .busy ∨ u.st = .held → ∃ v : State, s.seqTurn op k = (v, .begun k) ∧ v.mxUnit quad =
            { u with st := .busy, since := s.cyc, hint := u.hint - 1, seq := some (token, s.cyc + k) }))) ∧
      -- The requests of a copy or gather operation that are on their way
      (op.cls ≤ 1 →
        let flying := op.flying.filter fun e => s.cyc < e.2.2
        let o : EngineOp := { op with flying := flying }
        let v := s.modOp token fun x => { x with flying := flying }
        (∀ u r, op.lost = u :: r → s.opUnit op = v.cutShort o (r.foldl min u)) ∧
        (∀ u p clk r, op.lost = [] → flying = (u, p, clk) :: r → u + 2048 ≤ op.done → s.opUnit op = (v, .more op.done (clk - s.cyc))) ∧
        (op.lost = [] → (∀ e ∈ flying.head?, op.done < e.1 + 2048) → ∀ w r, v.moveStep o = (w, r) →
          let last := ((w.ops.filter fun x => x.token == token).flatMap fun x => x.flying.map (·.2.2)).foldl max 0
          (∀ n, r = .fin n 0x08 → s.opUnit op = w.cutShort { o with done := n } n) ∧
          (∀ n, r = .fin n 0x01 → s.opUnit op = (w, if w.cyc < last then .more n (last - w.cyc) else .fin n 0x01)) ∧
          ((∀ n, r ≠ .fin n 0x08 ∧ r ≠ .fin n 0x01) → s.opUnit op = (w, r)))) ∧
      -- A unit of CPY
      (op.cls = 0 → op.opcode = 0xA0 →
        let n := (op.args.getD 2 0).toNat
        let src := op.args.getD 0 0 + word op.done
        let dst := op.args.getD 1 0 + word op.done
        let k := min (min 128 (n - op.done)) (min (4096 - src.toNat % 4096) (4096 - dst.toNat % 4096))
        (n > 16777215 → s.moveStep op = (s, .fin 0 0x04)) ∧
        (n ≤ 16777215 → op.done ≥ n → s.moveStep op = (s, .fin n 0x01)) ∧
        (n ≤ 16777215 → op.done < n →
          let j := min k (min (128 - src.toNat % 128) (128 - dst.toNat % 128))
          let went (m : Nat) : UnitRes := if m ≥ n then .fin n 0x01 else .more m 1
          (∀ v m, s.cpyBytes op src dst k = (v, .inl m) → s.moveStep op = (v, went m)) ∧
          (∀ v st, s.cpyBytes op src dst k = (v, .inr st) →
            (j = k → s.moveStep op = (v, .fin op.done st)) ∧
            (j < k → (∀ w m, v.cpyBytes op src dst j = (w, .inl m) → s.moveStep op = (w, went m)) ∧
              ∀ w st', v.cpyBytes op src dst j = (w, .inr st') → s.moveStep op = (w, .fin op.done st')))) ∧
        ∀ k,
          (∀ v st, s.engRead op 0 src k = (v, .inr st) → s.cpyBytes op src dst k = (v, .inr st)) ∧
          ∀ v b, s.engRead op 0 src k = (v, .inl b) →
            (∀ w st, v.engWrite op 1 dst b = (w, some st) → s.cpyBytes op src dst k = (w, .inr st)) ∧
            ∀ w, v.engWrite op 1 dst b = (w, none) → s.cpyBytes op src dst k = (w, .inl (op.done + k))) ∧
      -- LATE
      (let on (q : Path) : Bool := !q.held && match q.wait.map (·.why) with
         | some (Why.regs srcs dsts) => (srcs ++ dsts).any fun r => g.regState r == .pending token
         | some (Why.count 0 n) => (s.lateBlocks { g with late := [token] } n).contains token
         | _ => false
       (g.serial ≠ op.serial → exec (.late token) s = .next s) ∧
       (g.serial = op.serial →
        (∀ q, g.paths.find? on = some q → exec (.late token) s = .next (s.trapGroupAt op.unit q.id 0x0D (g.pathPc q.id))) ∧
        (g.paths.find? on = none → s.hasGrp op.unit = true → Happens (.late token) s fun t =>
          (t.grp op.unit).late = g.late ++ [token] ∧ FilesKept g (t.grp op.unit) ∧ OnlyGroup s t op.unit)))) ∧
    -- MATRIX_STEP_END
    (let u := s.mxUnit quad
     let onlyUnit (t : State) : Prop := { t with mx := s.mx, agenda := s.agenda } = s ∧ ∀ k, k ≠ quad → t.mxUnit k = s.mxUnit k
     let running : Prop := u.st = .busy ∧ u.seq = none
     (u.steps = [] ∨ ¬running → exec (.matrixStepEnd quad) s = .next s) ∧
     (∀ x r, u.steps = x :: r → running →
       let stop := u.since + if x.fsA % 32 = 0 then 16 else 8
       (s.cyc < stop → exec (.matrixStepEnd quad) s = .next s) ∧
       (stop ≤ s.cyc → s.cyc < s.quadBusy quad → exec (.matrixStepEnd quad) s = .next (s.scheduleAt (s.quadBusy quad) (.matrixStepEnd quad))) ∧
       (stop ≤ s.cyc → s.quadBusy quad ≤ s.cyc → ∃ m : State, exec (.matrixStepEnd quad) s = .next (m.reap x.unit) ∧
         (m.mxUnit quad).steps = r ∧ (m.mxUnit quad).since = stop ∧ m.mm = s.mm ∧ (∀ v, v ≠ x.unit → m.grp v = s.grp v) ∧
         (m.mxUnit quad).st = (if r ≠ [] ∨ s.sequencing quad = true then .busy else if u.hint > 0 then .held else .rampdown) ∧
         (m.mxUnit quad).hint = (if r ≠ [] then u.hint - 1 else u.hint) ∧
         (s.hasGrp x.unit = true → (s.grp x.unit).serial = x.serial →
           let res := x.apply (Store.getOr s.mm.column quad []) (s.grp x.unit).tiles
           (m.grp x.unit).tiles = res.1 ∧ (m.grp x.unit).mxFlags = (s.grp x.unit).mxFlags ||| mxFlagsOf res.2 ∧
           (m.grp x.unit).gregs = (s.grp x.unit).gregs ∧ (m.grp x.unit).sregs = (s.grp x.unit).sregs))) ∧
     -- RAMPUP_END, RAMPDOWN_END, HELD_TIMEOUT, HINT_EFFECT
     (Happens (.rampupEnd quad) s fun t => onlyUnit t ∧
       let stop := u.since + 8 * (4 - u.level)
       ((t.mxUnit quad).st, (t.mxUnit quad).since) = if u.st = .rampup ∧ stop ≤ s.cyc then
         ((if u.steps = [] ∧ s.sequencing quad = false then .held else .busy), stop) else (u.st, u.since)) ∧
     (Happens (.rampdownEnd quad) s fun t => onlyUnit t ∧
       ((t.mxUnit quad).st, (t.mxUnit quad).since) =
         if u.st = .rampdown ∧ u.since + 32 ≤ s.cyc then (.cold, u.since + 32) else (u.st, u.since)) ∧
     (Happens (.heldTimeout quad) s fun t => onlyUnit t ∧
       ((t.mxUnit quad).st, (t.mxUnit quad).since) =
         if u.st = .held ∧ u.since + 256 ≤ s.cyc then (.rampdown, u.since + 256) else (u.st, u.since)) ∧
     ∀ unit count, quadOf unit = quad → Happens (.hintEffect unit count) s fun t => onlyUnit t ∧
       (t.mxUnit quad).hint = min count 65535 ∧
       (t.mxUnit quad).st = if u.st = .cold then .rampup else if u.st = .held ∧ count = 0 then .rampdown else u.st) ∧
    -- GANG_STEP_ACCEPT
    ∀ core,
      ((∀ a ∈ s.gangs, a.core ≠ core) → exec (.gangStepAccept core) s = .next s) ∧
      ∀ leader r rs, (((s.gangs.filter fun a => a.core == core).map (·.leader)).eraseDups) = [leader] → s.latch core leader = r :: rs →
        let broken := s.gangBroken (s.grp r.step.unit) r.gang
        let met : Prop := (((r :: rs).map (·.step.unit)).eraseDups).length = gangCount r.gang
        let order := (List.range 64).filterMap fun n => (r :: rs).find? fun m => m.step.unit % 64 == n
        (broken = true → exec (.gangStepAccept core) s = .next ((r :: rs).foldl (fun v m => v.gangTrap m 0x17) s)) ∧
        let due := ((r :: rs).map fun m => m.clk).foldl max 0 + 4
        (broken = false → ¬met ∨ s.cyc < due → exec (.gangStepAccept core) s = .next s) ∧
        (broken = false → met → due ≤ s.cyc → ∀ l, (r :: rs).find? (·.isLeader) = some l →
          exec (.gangStepAccept core) s = .next (order.foldl (fun v m => v.gangAccept due l m) s)) ∧
        ∀ (v : State) (l m : GangArrival),
          let x : MxStep := { m.step with a := l.step.a, fsA := l.step.fsA }
          (m.step.a.opcode ≠ l.step.a.opcode → v.gangAccept due l m = v.gangTrap m 0x17) ∧
          (m.step.a.opcode = l.step.a.opcode → x.shapeOk = false → v.gangAccept due l m = v.gangTrap m 0x0C) ∧
          (m.step.a.opcode = l.step.a.opcode → x.shapeOk = true →
            let t := v.gangAccept due l m
            t.gangs = v.gangs.filter (fun r => r.token != m.token) ∧ x ∈ (t.mxUnit (quadOf m.step.unit)).steps ∧
            (v.hasGrp m.step.unit = true → ∀ q ∈ (t.grp m.step.unit).paths, q.id = m.path → q.answer = some []) ∧
            ∀ w, w ≠ m.step.unit → t.grp w = v.grp w)

/-! ### Events of queues, tables and grace periods -/

/-- R260, R261, R263, R275, R277, R282, R288, R291, R295, R296, R299, R332: a queue's home serves the oldest request; answers reach the
paths that wait for them; a table's unit does a request's next step and answers it; a superseded bucket version is dropped; a grace
period completes and the next begins; freed entries go to the release ring while it has room.
Where the spec leaves the way open, the model chooses: logs 9, 29, 30, 38, 51. -/
def Obligations.ServiceEvents : Prop :=
  ∀ (s : State) (token q part : Nat),
    let answered (s t : State) (token : Nat) (v : List Word) : Prop := t.groups = s.groups.map fun (g : Group) =>
      { g with paths := g.paths.map fun (x : Path) => if x.awaits token then { x with answer := some v } else x }
    let due (t : State) (delay : Nat) (ev : Instr) : Prop := ({ clk := s.cyc + delay, ev := ev } : Due) ∈ t.agenda
    -- ORIGIN_QUADRANT_ANSWER
    (Happens (.originQuadrantAnswer token) s fun t => answered s t token [] ∧ { t with groups := s.groups } = s) ∧
    -- QUEUE_REQUEST_SERVE
    (let live := s.qreqs.filter s.qreqLive
     let kept : State := { s with qreqs := live }
     let come := live.filter fun r => r.queue == q && !r.waiting && decide (r.due ≤ s.cyc)
     (come = [] → exec (.queueRequestServe q) s = .next kept) ∧
     ∀ r, firstBy (fun a b => decide (a.due < b.due)) come = some r → (∀ x ∈ come, r.due ≤ x.due) ∧
      let u := kept.dropReq r.token
      let answer (status : Nat) : State := u.answerQueue r.token status [] 0
      let waits : State := { u with qreqs := u.qreqs ++ [{ r with waiting := true }] }
      (s.queueStatus r.ctx q r.kind ≠ 0 → exec (.queueRequestServe q) s = .next (answer 1)) ∧
      ∀ x, s.queueStatus r.ctx q r.kind = 0 → s.queue? q = some x →
        let blocked : Bool := if r.kind.isPush then x.isFull || (u.oldestWaiting q true).isSome else x.held == 0 || (u.oldestWaiting q false).isSome
        (blocked = true → r.kind.isTry = true → exec (.queueRequestServe q) s = .next (answer 3)) ∧
        (blocked = true → r.kind.isTry = false → exec (.queueRequestServe q) s = .next waits) ∧
        (blocked = false → r.kind.isPush = true →
          (∀ p, x.held = 0 → u.oldestWaiting q false = some p →
            let row := queueLatency [galleryOf (r.unit / 64), queueHome q, galleryOf (p.unit / 64)]
            let gone := r.kind.share (queueLatency [galleryOf (r.unit / 64), queueHome q])
            let v : State := { u with queues := Store.set u.queues q { x with head := (x.head + 1) % 2 ^ 32, tail := (x.tail + 1) % 2 ^ 32 } }
            exec (.queueRequestServe q) s =
              .next (((v.dropReq p.token).answerQueue r.token 0 [] (r.kind.share row - gone)).answerQueue p.token 0 r.packet (row - gone))) ∧
          ((x.held = 0 → u.oldestWaiting q false = none) → ∃ (v : State) (n : Nat),
            exec (.queueRequestServe q) s = .next ((v.answerQueue r.token 0 [] 0).serveWaiting q n) ∧ { v with queues := u.queues } = u ∧
            v.queue? q = some { x with tail := (x.tail + 1) % 2 ^ 32, packets := Store.set x.packets (x.tail % 2 ^ x.log2) r.packet })) ∧
        (blocked = false → r.kind.isPush = false → ∃ (v : State) (n : Nat),
          exec (.queueRequestServe q) s =
            .next ((v.answerQueue r.token 0 (Store.getOr x.packets (x.head % 2 ^ x.log2) []) 0).serveWaiting q n) ∧
          { v with queues := u.queues } = u ∧
          v.queue? q = some { x with head := (x.head + 1) % 2 ^ 32, packets := Store.del x.packets (x.head % 2 ^ x.log2) })) ∧
    -- QUEUE_ANSWER
    (s.qanswers.find? (fun a => a.token == token) = none → exec (.queueAnswer token) s = .next s) ∧
    (∀ a, s.qanswers.find? (fun a => a.token == token) = some a → Happens (.queueAnswer token) s fun t =>
      answered s t token (word a.status :: a.packet) ∧ t.qanswers = s.qanswers.filter (fun x => x.token != token) ∧
      { t with groups := s.groups, qanswers := s.qanswers } = s) ∧
    -- TABLE_UPDATE_STEP
    (s.treqs.find? (fun r => r.token == token) = none → exec (.tableUpdateStep token) s = .next s) ∧
    (∀ r, s.treqs.find? (fun r => r.token == token) = some r →
      let answers (t v : State) (delay : Nat) (P : TAnswer → Prop) : Prop := t.treqs = v.treqs.filter (fun x => x.token != token) ∧
        due t delay (.homeUnitAnswer token) ∧ ∃ a, t.tanswers = v.tanswers ++ [a] ∧ a.token = token ∧ P a
      let gives (v : List Word) (a : TAnswer) : Prop := a.vals = v ∧ a.trap = none ∧ a.faults = []
      let back := tableTrip r.gallery r.sel / 2
      (r.kind = .hfam → r.started = true → ∀ v d, s.readDescriptor r.space r.slots r.desc = (v, d) →
        Happens (.tableUpdateStep token) s fun t => answers t v r.steps (gives (match d with
          | .ok d _ => [0, word (d.tables - 1)]
          | .bad _ => [2]
          | .fault _ => [3]))) ∧
      ((r.kind = .hfam ∨ r.kind = .tstat) → r.started = false → ∀ v d b, s.readDescriptor r.space r.slots r.desc = (v, .ok d b) →
        let half := tableTrip r.gallery d.home / 2
        Happens (.tableUpdateStep token) s fun t => due t (half - 50) (.tableUpdateStep token) ∧
          t.treqs = v.treqs.map fun x => if x.token = token then { r with started := true, steps := half } else x) ∧
      ((r.kind = .hfam ∨ r.kind = .tstat) → r.started = false → ∀ v d, s.readDescriptor r.space r.slots r.desc = (v, d) →
        (∀ e b, d ≠ .ok e b) → ∀ w x, v.statAnswer r = (w, x) → Happens (.tableUpdateStep token) s fun t => answers t w 50 (gives x)) ∧
      (r.kind = .tstat → r.started = true → ∀ v d x b, s.readTable r.space r.slots r.desc = (v, .ok d x b) →
        Happens (.tableUpdateStep token) s fun t => answers t v r.steps (gives [match r.sel with
          | 0 => word (d.state * 2 ^ 32 + fieldOf b 0x48 4)
          | 1 => word (fieldOf b 0x50 4)
          | 2 => word (fieldOf b 0x54 4)
          | _ => word (fieldOf b 0x3C 4)])) ∧
      -- The order of a home unit
      ((r.kind = .tins ∨ r.kind = .tdel ∨ r.kind = .rehash) → r.started = false →
        let here := s.treqs.filter fun x => x.kind.isUpdate && x.sel == r.sel
        (here.any (·.started) = true → exec (.tableUpdateStep token) s = .next s) ∧
        (here.any (·.started) = false → (∀ x ∈ here, s.cyc < x.due) → exec (.tableUpdateStep token) s = .next s) ∧
        (here.any (·.started) = false → ∀ n, firstBy (fun a b => decide (a.due < b.due)) (here.filter fun x => decide (x.due ≤ s.cyc)) = some n →
          (∀ x ∈ here, x.due ≤ s.cyc → n.due ≤ x.due) ∧
          let starts (u t : State) (y : TReq) (cost : Nat) : Prop := due t cost (.tableUpdateStep n.token) ∧
            t.treqs = u.treqs.map fun x => if x.token = n.token then y else x
          (n.kind ≠ .rehash → Happens (.tableUpdateStep token) s fun t => t.mm = s.mm ∧
            starts s t { n with started := true } (2 * n.lanes.length * (n.lm1 + 1))) ∧
          (n.kind = .rehash → ∀ v d, s.readTable n.space n.slots n.desc = (v, d) →
            ((∀ e x b, d = .ok e (some x) b → n.steps = 0 ∨ e.cursor ≥ 2 ^ e.bits) → Happens (.tableUpdateStep token) s fun t =>
              t.mm = v.mm ∧ starts v t { n with started := true, steps := 0 } 0) ∧
            ∀ e x b, d = .ok e (some x) b → n.steps ≠ 0 → e.cursor < 2 ^ e.bits →
              (∀ w k m, v.migrate n e x = (w, .inl (k, m)) → Happens (.tableUpdateStep token) s fun t => t.mm = w.mm ∧
                starts w t { n with started := true, steps := n.steps - 1, dropped := n.dropped + k }
                  (8 * e.tables + m * (440 + (e.tables * x.bits + 31) / 32 * (e.dim / 16) * 8))) ∧
              ∀ w f, v.migrate n e x = (w, .inr f) → Happens (.tableUpdateStep token) s fun t => t.mm = w.mm ∧
                t.treqs = w.treqs.filter (fun x => x.token != n.token) ∧ ∃ a, t.tanswers = w.tanswers ++ [a] ∧ a.token = n.token ∧
                a.faults = laneIds.map fun l => (l, f.1, f.2.1, f.2.2)))) ∧
      ((r.kind = .tins ∨ r.kind = .tdel) → r.started = true →
        (∀ v d, s.readTable r.space r.slots r.desc = (v, d) → (∀ e x b, d = .ok e x b → e.tables ≠ r.lm1 + 1) →
          Happens (.tableUpdateStep token) s fun t => answers t v back (gives (List.replicate 32 0x500000000)) ∧ t.mm = v.mm) ∧
        ∀ v e x b, s.readTable r.space r.slots r.desc = (v, .ok e x b) → e.tables = r.lm1 + 1 →
          Happens (.tableUpdateStep token) s fun t => answers t v back fun a =>
            (a.trap = some 0x14 → t.mm.cells = v.mm.cells) ∧ (a.trap ≠ some 0x14 → a.trap = none ∧ a.vals.length = 32)) ∧
      (r.kind = .rehash → r.started = true →
        (∀ v d b, s.readTable r.space r.slots r.desc = (v, .ok d none b) →
          Happens (.tableUpdateStep token) s fun t => answers t v back (gives [rehashWord 2 0 r.dropped])) ∧
        (∀ v d, s.readTable r.space r.slots r.desc = (v, d) → (∀ e x b, d ≠ .ok e x b) →
          Happens (.tableUpdateStep token) s fun t => answers t v back (gives [rehashWord 5 0 r.dropped])) ∧
        ∀ v d x b, s.readTable r.space r.slots r.desc = (v, .ok d (some x) b) →
          (r.steps = 0 ∨ d.cursor ≥ 2 ^ d.bits → Happens (.tableUpdateStep token) s fun t =>
            answers t v back (gives [rehashWord (if d.cursor ≥ 2 ^ d.bits then 1 else 0) d.cursor r.dropped])) ∧
          (r.steps ≠ 0 → d.cursor < 2 ^ d.bits → Happens (.tableUpdateStep token) s fun t => t.mm = v.mm ∧ t.tanswers = v.tanswers ∧
            t.treqs = v.treqs.map fun y => if y.token = token then { r with started := false, due := v.cyc } else y))) ∧
    -- HOME_UNIT_ANSWER, BUCKET_CACHE_DROP
    (let awaited : Bool := s.groups.any fun g => g.paths.any fun x => x.awaits token
     (awaited = true → Happens (.homeUnitAnswer token) s fun t => answered s t token [] ∧ { t with groups := s.groups } = s) ∧
     let past (g : Group) : Bool := g.passed.any fun x => x.token == token && !x.held
     -- The destination of an instruction that a pre-emption has passed is filled.
     (∀ g x a, awaited = false → s.groups.find? past = some g → s.grp g.unit = g → g.passed.find? (fun x => x.token == token) = some x →
       s.tanswers.find? (fun a => a.token == token) = some a → a.trap = none → a.faults = [] →
       ∃ m : State, exec (.homeUnitAnswer token) s = .next (m.reap g.unit) ∧ m.tanswers = s.tanswers.filter (fun a => a.token != token) ∧
         (∀ u, u ≠ g.unit → m.grp u = s.grp u) ∧ (m.grp g.unit).passed = g.passed.filter (fun x => x.token != token) ∧
         (m.grp g.unit).ages = g.ages ∧
         (0x30 ≤ x.dest → g.regState x.dest = .pending token → x.act ≠ 0 → (m.grp g.unit).regState x.dest = .full ∧ ∀ l, l < 32 →
           ((m.grp g.unit).regVal x.dest).at l = if x.act.getLsbD l = false then (g.regVal x.dest).at l
             else if a.vals.length = 32 then a.vals.getD l 0 else a.vals.headD 0) ∧
         ∀ n desc, x.hf = some (n, desc) → a.vals.headD 3 = 0 → (m.grp g.unit).hfReg n = { desc := desc, lm1 := a.vals.getD 1 0, valid := true }) ∧
     (awaited = false → s.groups.find? past = none → s.awaitedSaved token = true → exec (.homeUnitAnswer token) s = .next s) ∧
     (awaited = false → s.groups.find? past = none → s.awaitedSaved token = false → Happens (.homeUnitAnswer token) s fun t =>
       t.tanswers = s.tanswers.filter (fun a => a.token != token) ∧ { t with tanswers := s.tanswers } = s)) ∧
    (∀ desc, Happens (.bucketCacheDrop desc) s fun t => { t with oldBuckets := s.oldBuckets } = s ∧
      let ends (v : OldVersion) : Prop := v.desc.toNat = desc ∧ v.until_ ≤ s.cyc
      (∀ v ∈ t.oldBuckets, v ∈ s.oldBuckets ∧ ¬ends v) ∧
      -- With a version go those of its line that are older
      ∀ l v r, s.oldBuckets = l ++ v :: r → ¬ends v → (∀ w ∈ r, w.pa = v.pa → ¬ends w) → v ∈ t.oldBuckets) ∧
    -- GRACE_PERIOD_COMPLETE
    (let p := s.part part
     (p.running = false ∨ p.holdouts ≠ [] → exec (.gracePeriodComplete part) s = .next s) ∧
     (p.running = true → p.holdouts = [] → Happens (.gracePeriodComplete part) s fun t =>
       let x := t.part part
       x.done = p.done + 1 ∧ x.doneAt = s.cyc ∧ x.ready = p.ready ++ p.frees.filter (fun e => e.stamp ≤ p.done + 1) ∧
       x.frees = p.frees.filter (fun e => p.done + 1 < e.stamp) ∧ x.demand = p.demand ∧
       x.running = decide (p.done + 1 < p.demand) ∧ (x.running = true → x.holdouts = s.sections part) ∧
       (x.ready ≠ [] → due t 400 (.releaseRingAppend part)) ∧ (∀ n, n ≠ part → t.part n = s.part n) ∧
       t.groups = s.groups ∧ t.mm = s.mm) ∧
     -- RELEASE_RING_APPEND, CONSUMER_REREAD
     (p.ready = [] → exec (.releaseRingAppend part) s = .next s ∧ exec (.consumerReread part) s = .next s) ∧
     (p.ready ≠ [] → Happens (.releaseRingAppend part) s fun t => t.groups = s.groups ∧ ∃ n, (t.part part).ready = p.ready.drop n) ∧
     let root := s.withRoot part
     ∀ base, root.rootArea? part = some base →
       let u := root.touch (base + 8) 4
       let w := u.touch base 4
       let prod := w.mm.num base 4
       let room : Bool := (prod + 2 ^ 32 - u.mm.num (base + 8) 4) % 2 ^ 32 < 4096
       (∀ e, p.ready = [e] → room = true → Happens (.releaseRingAppend part) s fun t => (t.part part).ready = [] ∧
         t.mm = ((w.store (partUnit part) (base + 0x1000 + 32 * (prod % 4096)) e.toBytes).store (partUnit part) base
           (leBytes ((prod + 1) % 2 ^ 32) 4)).mm) ∧
       (p.ready ≠ [] → room = false → Happens (.releaseRingAppend part) s fun t => (t.part part).ready = p.ready ∧
         ((s.agenda.any fun d => d.ev == .consumerReread part) = false → due t 4096 (.consumerReread part))) ∧
       (p.ready ≠ [] →
         let v := root.touch base 16
         Happens (.consumerReread part) s fun t => { t with agenda := s.agenda } = { v with agenda := s.agenda } ∧
           if (v.mm.num base 4 + 2 ^ 32 - v.mm.num (base + 8) 4) % 2 ^ 32 < 4096 then due t 400 (.releaseRingAppend part)
           else due t 4096 (.consumerReread part)))

/-! ### Events of detached threads -/

/-- R313, R317 to R320, R322, R323, R325: the registrar files a record under its key, or retires its thread; a folio forms when it is full
or its window ends, and a handler group takes it; a thread resumed by RETRY or SKIP rejoins its slice; an awaited lane that stays absent
too long is retired. A fatal record goes to the ring of the root region, the error log and the kernel's count. Where the spec leaves the
way open, the model chooses: logs 22, 25, 51, 53, 75, 76. Timing is the model's where log 9 says so: REJOIN_LIMIT writes its fatal record
in the step that finds the limit reached, and a placement and a repair that cannot be made are tried again every 64 and every 4 clk. -/
def Obligations.ThreadEvents : Prop :=
  ∀ (s : State) (token part folio unit : Nat),
    -- RECORD_FILED
    (s.filing.find? (fun f => f.1 == token) = none → exec (.recordFiled token) s = .next s) ∧
    -- Of the records that reach one half in one clk, the next in the order of core, slot and lane
    (∀ e, s.filing.find? (fun f => f.1 == token) = some e → ∃ n u r, s.nextFiling token = some (u, r) ∧ (n, r) ∈ s.filing ∧
      r.due = e.2.due ∧ r.half = e.2.half ∧
      (∀ f ∈ s.filing, f.2.due = e.2.due → f.2.half = e.2.half → ¬[f.2.core, f.2.slot, f.2.lane] < [r.core, r.slot, r.lane]) ∧
      u = { s with filing := (s.filing.map fun f => if f.1 = n then (n, e.2) else f).filter fun f => f.1 != token }) ∧
    (∀ u r, s.nextFiling token = some (u, r) →
      let crosses : Prop := r.forwarded = false ∧ ∃ e o f, (u.fileKey r).2 = some (e, o) ∧
        (u.part r.part).folios.find? (fun f => f.st == 1 && f.world == r.world && f.cause == r.cause && f.entry == e && f.owner == o &&
          f.recs.length < 32) = some f ∧ f.half ≠ dieOf r.core
      let sent : TrapRec := { r with forwarded := true, due := r.due + 150 }
      (crosses → Happens (.recordFiled token) s fun t => { t with filing := u.filing, agenda := u.agenda } = u ∧
        t.filing = u.filing ++ [(token, sent)] ∧ ({ clk := r.due + 150, ev := .recordFiled token } : Due) ∈ t.agenda) ∧
      (r.cause ≥ 32 → (u.fileKey r).2 = none) ∧
      (¬crosses → ∀ v, u.fileKey r = (v, none) → exec (.recordFiled token) s = .next ((v.fatalRecord r 0).retireThread r)) ∧
      (¬crosses → ∀ v entry owner, u.fileKey r = (v, some (entry, owner)) →
        let folios := (v.part r.part).folios
        let here := folios.find? fun f =>
          f.st == 1 && f.world == r.world && f.cause == r.cause && f.entry == entry && f.owner == owner && f.recs.length < 32
        let number := (List.range 864).find? fun n => !folios.any fun f => f.num == n
        let stored (t : State) (num pos : Nat) : Prop := ∀ base, (v.withRoot r.part).rootArea? r.part = some base →
          t.mm.bytes (base + 0x50000 + 2048 * num + 64 * pos) 64 = r.toBytes
        (∀ f, here = some f → Happens (.recordFiled token) s fun t => t.groups = v.groups ∧ stored t f.num f.recs.length ∧
          ∃ x ∈ (t.part r.part).folios, x.num = f.num ∧ x.recs = f.recs ++ [some { r with filed := v.cyc }] ∧ x.st = if f.recs.length = 31 then 2 else 1) ∧
        (here = none → number = none → Happens (.recordFiled token) s fun t => t.groups = v.groups ∧ t.mm = v.mm ∧
          (t.part r.part).unfiled = (v.part r.part).unfiled ++ [(dieOf r.core, { r with filed := v.cyc })]) ∧
        ∀ num, here = none → number = some num → Happens (.recordFiled token) s fun t => t.groups = v.groups ∧ stored t num 0 ∧
          ∃ x ∈ (t.part r.part).folios, x.num = num ∧ x.st = 1 ∧ x.recs = [some { r with filed := v.cyc }] ∧ x.cause = r.cause ∧ x.entry = entry ∧
            x.owner = owner ∧ x.since = v.cyc ∧ ({ clk := v.cyc + x.window, ev := .collectionWindow r.part num } : Due) ∈ t.agenda)) ∧
    -- COLLECTION_WINDOW
    (let ends : Bool := (s.part part).folios.any fun f => f.num == folio && f.st == 1 && f.since + f.window ≤ s.cyc
     (ends = false → exec (.collectionWindow part folio) s = .next s) ∧
     (ends = true → Happens (.collectionWindow part folio) s fun t => t.groups = s.groups ∧ t.mm = s.mm ∧
       ({ clk := s.cyc, ev := .handlerPlacement part folio } : Due) ∈ t.agenda ∧
       (t.part part).folios = (s.part part).folios.map fun f => if f.num = folio then { f with st := 2 } else f)) ∧
    -- HANDLER_PLACEMENT
    (let forming := (s.part part).folios.find? fun f => f.num == folio && f.st == 2
     (forming = none → exec (.handlerPlacement part folio) s = .next s) ∧
     ∀ f, forming = some f →
      (f.recs.head?.bind id = none → exec (.handlerPlacement part folio) s = .next s) ∧
      ∀ r, f.recs.head?.bind id = some r →
        let slots := (coresFrom r.core).flatMap fun c => [0, 1, 2].map fun q => (c, q)
        let free := slots.find? fun e => s.handlerFits part f.world e.1 e.2
        (free = none → exec (.handlerPlacement part folio) s = .next (s.schedule 64 (.handlerPlacement part folio))) ∧
        ∀ c q, free = some (c, q) →
          let u := 64 * c + 16 * q + 15
          let g := handlerGroup u s.stamp f s.cyc
          g.kind = .handler ∧ g.alloc = 64 ∧ g.part = f.part ∧ g.world = f.world ∧ g.sval 0 = 0xFFFD000000000000 ∧
          g.sval 1 = word f.recs.length ∧ g.sval 2 = word f.cause ∧ g.issueFrom = s.cyc + 48 ∧
          (∀ x ∈ g.slices, x.pc = f.entry ∧ ∀ l, l < 4 → x.run.getLsbD l = decide (4 * x.idx + l < f.recs.length)) ∧
          ∀ v b, State.fetchAt { (State.wantDrowsy { s with groups := s.groups ++ [g], stamp := s.stamp + 1 } u) with
                                        parts := (s.modPart part fun p => { p with folios := p.folios.map fun x =>
                                          if x.num = folio then { x with st := 3, handler := some u } else x }).parts } g f.entry = (v, b) →
            ((∃ w, b = .inl w ∧ w.entry = true) → exec (.handlerPlacement part folio) s = .next v ∧ v.groups = s.groups ++ [g]) ∧
            ((∀ w, b = .inl w → w.entry = false) → exec (.handlerPlacement part folio) s = .next (v.failHandler u))) ∧
    -- LANE_RESUMED
    (s.resuming.find? (fun x => x.token == token) = none → exec (.laneResumed token) s = .next s) ∧
    (∀ x, s.resuming.find? (fun x => x.token == token) = some x →
      let r := x.rec_
      let g := s.grp r.unit
      let u : State := { s with resuming := s.resuming.filter fun y => y.token != token }
      let held : Bool := g.serial == r.serial && x.skip && !(r.cause == 0x02 && r.status / 16 % 2 == 1) && decide (r.dest ≥ 0x10) && (g.regState r.dest).isPending
      (held = true → exec (.laneResumed token) s = .next (s.schedule 4 (.laneResumed token))) ∧
      (held = false → g.serial ≠ r.serial → exec (.laneResumed token) s = .next u) ∧
      (held = false → g.serial = r.serial → s.hasGrp r.unit = true → r.lane < 32 → ∃ m : State,
        exec (.laneResumed token) s = .next (((m.settle r.unit).unpark r.unit).sweep) ∧ OnlyGroup u m r.unit ∧
        let h := m.grp r.unit
        let pc := if x.skip then r.skipPc else r.pc
        let retry : Option Retry := if x.skip || r.fetch then none else some { a := r.a, b := r.b, c := r.c }
        (h.slices = g.slices.map fun y => if y.idx = r.lane / 4 then
            y.rejoin (r.lane % 4) pc retry (decide (pc = r.pc) && slotOf pc == 0 && !r.fetch) else y) ∧
        AgesGoneOf h ∧ (∀ n, (Store.getOr h.cacheValid n 0).getLsbD r.lane = false) ∧
        (x.skip = false → h.gregs = g.gregs ∧ h.sregs = g.sregs ∧ h.preds = g.preds) ∧
        (x.skip = true → ¬(r.cause = 0x02 ∧ r.status / 16 % 2 = 1) → h.preds = g.preds ∧
          (∀ n l, 0x10 ≤ n → n ≠ r.dest → (h.regVal n).at l = (g.regVal n).at l) ∧
          (0x30 ≤ r.dest → h.regState r.dest = .full ∧
            ∀ l, l < 32 → (h.regVal r.dest).at l = if l = r.lane then r.repair else (g.regVal r.dest).at l)) ∧
        (x.skip = true → r.cause = 0x02 → r.status / 16 % 2 = 1 → h.gregs = g.gregs ∧ h.sregs = g.sregs ∧
          ∀ l, l < 32 → (h.pred (r.dest % 8)).getLsbD l = if l = r.lane then r.repair.getLsbD 0 else (g.pred (r.dest % 8)).getLsbD l))) ∧
    -- REJOIN_LIMIT
    (let g := s.grp unit
     let limit := ((s.kernel? g.kernel).map (·.eff.rejoin)).getD 0
     -- The lanes absent that the top entry of their slice awaits
     let awaited (x : Slice) (l : Nat) : Bool := x.detached.getLsbD l && !x.gone.getLsbD l && x.rcv.head?.any fun e => e.absent.getLsbD l
     let absent := laneIds.filter fun l => awaited (g.slice (l / 4)) (l % 4)
     let late : Prop := ∃ c, g.absentSince = some c ∧ limit ≠ 0 ∧ c + limit ≤ s.cyc ∧ g.awaitsAbsent = true
     (¬late → exec (.rejoinLimit unit) s = .next s) ∧
     (late → exec (.rejoinLimit unit) s = .next ((State.settle (State.fileWaiting (absent.foldl (fun v l => match v.takeRec g.serial l with
       | (w, some r) => (w.fatalRecord r 2).retireThread r
       | (w, none) => w) s) g.part) unit).unpark unit))) ∧
    -- Fatal records
    ∀ (r : TrapRec) (reason base : Nat), (s.withRoot r.part).rootArea? r.part = some base →
      let x : TrapRec := { r with fatal := true, reason := reason }
      let t := s.fatalRecord r reason
      let w := (s.withRoot r.part).touch (base + 0x40000) 32
      let prod := w.readNum (base + 0x40000) 4
      let room : Bool := (prod + 2 ^ 32 - w.readNum (base + 0x40008) 4) % 2 ^ 32 < 960
      t.groups = s.groups ∧ t.errLog ≠ [] ∧
      (room = true → t.mm.num (base + 0x40000) 4 = (prod + 1) % 2 ^ 32 ∧ ∃ v : State,
        v.mm.bytes (base + 0x41000 + 64 * (prod % 960)) 64 = x.toBytes ∧
        t.mm = (v.store deviceUnit (base + 0x40000) (leBytes (prod + 1) 4)).mm) ∧
      (room = false → t.mm.num (base + 0x40010) 4 = min (w.readNum (base + 0x40010) 4 + 1) 0xFFFFFFFF)

/-! ### Events of kernels -/

/-- R85, R105 to R108, R111 to R113, R121, R254, R364, R367, R370: a launch is checked, placed as groups that stand at its entry, and ends
with its completion record; KILL ends the kernels that name its record; a region is synchronised and the token buckets refilled; and the
shipped firmware answers the requests of its mailbox, by a reply or by a packet that it posts. Where the spec leaves the way open, the
model chooses: logs 34, 35, 36, 63, 64, 65, 66. -/
def Obligations.KernelEvents : Prop :=
  ∀ (s : State) (kernel pkt core entry : Nat) (ctx : BitVec 32) (record : BitVec 64),
    let due (t : State) (delay : Nat) (ev : Instr) : Prop := ({ clk := s.cyc + delay, ev := ev } : Due) ∈ t.agenda
    let refused := s.ctxStatus pkt ctx.toNat
    -- Every one of these events completes: in every state it answers a next state.
    (∃ t, exec (.launch pkt ctx record) s = .next t) ∧ (∃ t, exec (.launchCheck kernel) s = .next t) ∧
    (∃ t, exec (.blockPlacement kernel) s = .next t) ∧ (∃ t, exec (.kernelRetire kernel) s = .next t) ∧
    (∃ t, exec (.killRequest pkt ctx record) s = .next t) ∧ (∃ t, exec (.regionSync pkt ctx) s = .next t) ∧
    (∃ t, exec .tokenRefill s = .next t) ∧ (∃ t, exec (.svcNop core entry) s = .next t) ∧ (∃ t, exec (.svcLaunch core entry) s = .next t) ∧
    (∃ t, exec (.svcKill core entry) s = .next t) ∧ (∃ t, exec (.yieldctx core entry) s = .next t) ∧
    (∃ t, exec (.fwver core entry) s = .next t) ∧
    -- LAUNCH
    (s.mgmt.booted = false → exec (.launch pkt ctx record) s = .next (s.completePacket pkt 4)) ∧
    (s.mgmt.booted = true →
      (refused ≠ 0 → exec (.launch pkt ctx record) s = .next (s.completePacket pkt refused)) ∧
      ∀ c, refused = 0 → s.ctx? ctx.toNat = some c →
        (c.busy = true → exec (.launch pkt ctx record) s = .next (s.completePacket pkt 3)) ∧
        (c.busy = false → c.st = .sealedImg → exec (.launch pkt ctx record) s = .next (s.completePacket pkt 4)) ∧
        (c.busy = false → c.st ≠ .sealedImg → ∃ (v : State) (k : Kernel),
          exec (.launch pkt ctx record) s = .next (v.completePacket pkt 1) ∧ v.kernels.getLast? = some k ∧
          v.kernels.filter (fun x => x.id != s.stamp) = s.kernels.filter (fun x => x.id != s.stamp) ∧ k.id = s.stamp ∧
          (∀ p, s.packets.find? (fun p => p.id == pkt) = some p → p.svc = none → k.packet = some p.pa ∧ k.qi = p.qi) ∧
          k.ctx = ctx.toNat ∧ k.recVa = record ∧ k.st = .checking ∧ due v 400 (.launchCheck s.stamp) ∧ v.groups = s.groups ∧ v.mm = s.mm)) ∧
    -- LAUNCH_CHECK
    (s.kernel? kernel = none → exec (.launchCheck kernel) s = .next s ∧ exec (.blockPlacement kernel) s = .next s ∧
      exec (.kernelRetire kernel) s = .next s) ∧
    (∀ k, s.kernel? kernel = some k →
      (s.ctx? k.ctx = none → exec (.launchCheck kernel) s = .next (s.endKernel kernel 0x21) ∧ exec (.blockPlacement kernel) s = .next s) ∧
      (∀ c, s.ctx? k.ctx = some c →
        (k.st ≠ .checking → exec (.launchCheck kernel) s = .next s) ∧
        (∀ v x status, k.st = .checking → s.launchStatus k c = (v, x, status) →
          (status = 0 → Happens (.launchCheck kernel) s fun t => t.kernel? kernel = some { x with st := .waiting, accepted := v.stamp } ∧
            due t 64 (.blockPlacement kernel) ∧ t.groups = s.groups) ∧
          (status ≠ 0 → ∃ m : State, exec (.launchCheck kernel) s = .next (m.endKernel kernel status) ∧
            m.kernel? kernel = some { x with st := .waiting, accepted := v.stamp })) ∧
        (∀ v, s.launchBytes k = (v, none) → (s.launchStatus k c).2.2 = 0x21) ∧
        (∀ v b, s.launchBytes k = (v, some b) → recordOk (k.ofRecord b) b = false → (s.launchStatus k c).2.2 = 0x21) ∧
        (∀ v b, s.launchBytes k = (v, some b) → recordOk (k.ofRecord b) b = true →
          ((k.ofRecord b).fslots.any fun f => !formatSlotOk f) = true → (s.launchStatus k c).2.2 = 0x23) ∧
        -- The checks after the record's own fields: its region's chain, the class cap, the entry bundle, and the fit
        (∀ v b, s.launchBytes k = (v, some b) → recordOk (k.ofRecord b) b = true → ((k.ofRecord b).fslots.all formatSlotOk) = true →
          let r := k.ofRecord b
          (∀ w, v.region? c.part r.region = (w, none) → (s.launchStatus k c).2.2 = 0x24) ∧
          ∀ w e chain, v.region? c.part r.region = (w, some (e, chain)) →
            let x : Kernel := { r with eff := e, chain := chain }
            let empty (u : State) : State := { u with groups := [], blocks := [], kernels := u.kernels.map fun y => if y.id = k.id then x else y }
            ((∀ n ∈ chain, n.1 ≠ c.region) → (s.launchStatus k c).2.2 = 0x24) ∧
            ((∃ n ∈ chain, n.1 = c.region) →
              (r.cls < e.cap → (s.launchStatus k c).2.2 = 0x25) ∧
              (r.cls ≥ e.cap → r.entry.toNat % 32 ≠ 0 → (s.launchStatus k c).2.2 = 0x22) ∧
              (∀ u, r.cls ≥ e.cap → r.entry.toNat % 32 = 0 → w.loadVa (w.ctxSpace k.ctx) r.entry 32 .fetch = (u, none) →
                (s.launchStatus k c).2.2 = 0x22) ∧
              ∀ u code, r.cls ≥ e.cap → r.entry.toNat % 32 = 0 → w.loadVa (w.ctxSpace k.ctx) r.entry 32 .fetch = (u, some code) →
                ((Bundle.ofBytes r.entry code).entry = false → (s.launchStatus k c).2.2 = 0x22) ∧
                ((Bundle.ofBytes r.entry code).entry = true →
                  let first := (empty u).placeCluster x c.part c.world 0 false
                  let grid := (empty u).placeGrid x c.part c.world 0 (x.blocks / x.bpc) false
                  (first = none → (s.launchStatus k c).2.2 = 0x26) ∧
                  (first ≠ none → r.cls = 0 → (x.blocks * x.gpb > 11520 ∨ grid = none) → (s.launchStatus k c).2.2 = 0x27) ∧
                  (first ≠ none → (r.cls ≠ 0 ∨ (x.blocks * x.gpb ≤ 11520 ∧ grid ≠ none)) → (s.launchStatus k c).2.2 = 0)))) ∧
        -- BLOCK_PLACEMENT
        let waiting : Bool := k.st == .waiting
        let placing : Bool := (waiting || (k.st == .running && decide (k.nextBlock < k.blocks))) && c.places && k.ending == 0 &&
          !(waiting && s.heldBack k c)
        (placing = false → exec (.blockPlacement kernel) s = .next s) ∧
        (placing = true → s.nextPlacement k c = none → exec (.blockPlacement kernel) s = .next s) ∧
        ∀ v, placing = true → s.nextPlacement k c = some v → Happens (.blockPlacement kernel) s fun t => t.groups = v.groups ∧ t.mm = v.mm ∧
          t.blocks = v.blocks ∧ ∃ x, t.kernel? kernel = some x ∧ x.st = .running ∧ x.placed = true ∧
            x.nextBlock = if k.cls = 0 then k.blocks else k.nextBlock + k.bpc) ∧
      -- KERNEL_RETIRE
      let ended : Bool := (k.st == .running || k.st == .halted) && decide (k.nextBlock ≥ k.blocks) && (s.kernelGroups kernel).isEmpty
      (k.ending ≠ 0 → exec (.kernelRetire kernel) s = .next (s.endKernel kernel k.ending)) ∧
      (k.ending = 0 → ended = true → exec (.kernelRetire kernel) s = .next (s.endKernel kernel 0)) ∧
      (k.ending = 0 → ended = false → exec (.kernelRetire kernel) s = .next s) ∧
      ∀ status, (s.endKernel kernel status).kernel? kernel = none ∧
        (∀ g ∈ (s.endKernel kernel status).groups, ¬(g.kind = .user ∧ g.kernel = kernel)) ∧
        -- The completion record, once what the units hold for the kernel's groups has gone
        (let groups := s.kernelGroups kernel
         let killed := if status = 0x29 then (groups.map Group.aliveLanes).foldl (· + ·) 0 else 0
         let dropped := (groups.foldl (fun u g => u.dropGroup g.serial g.unit) s).dropRecs fun r => r.kernel == kernel
         let keep (c : Context) : Context :=
           { c with saved := c.saved.filter fun g => g.kernel != kernel, savedBlocks := c.savedBlocks.filter fun b => b.kernel != kernel
                    savedOps := c.savedOps.filter fun o => o.kernel != kernel, savedScratch := c.savedScratch.filter fun e => e.1 != kernel }
         let u : State := { dropped with blocks := dropped.blocks.filter fun b => b.kernel != kernel, ctxs := dropped.ctxs.map keep }
         let t := s.endKernel kernel status
         (∀ v pa, u.completionPa? k = (v, some pa) → t.mm.num pa 4 = status % 2 ^ 32 ∧ t.mm.num (pa + 4) 4 = k.tag % 2 ^ 32 ∧
           t.mm.num (pa + 8) 8 = k.firstCyc % 2 ^ 64 ∧ t.mm.num (pa + 0x10) 8 = v.cyc % 2 ^ 64 ∧
           t.mm.num (pa + 0x18) 4 = (k.retired + killed) % 2 ^ 32 ∧ t.mm.num (pa + 0x1C) 4 = 0) ∧
         (∀ v, u.completionPa? k = (v, none) → t.errLog ≠ [] ∧
           let live : Prop := ∀ n, k.qi = some n → (v.qi n).en = true ∧ (v.qi n).st ≠ .revoked ∧ (v.qi n).epoch = k.qiEpoch
           (∀ pa, k.packet = some pa → live → t.mm.num (pa + 4) 4 = status % 2 ^ 32) ∧ ((k.packet = none ∨ ¬live) → t.mm = v.mm)) ∧
         ((k.named = false ∨ k.completion.toNat % 32 ≠ 0) → u.completionPa? k = (u, none)) ∧
         (k.named = true → k.completion.toNat % 32 = 0 →
           (∀ v pa ipa mt size, u.translate (u.ctxSpace k.ctx) k.completion .write = (v, .ok pa ipa mt size) → u.completionPa? k = (v, some pa)) ∧
           ∀ v f st, u.translate (u.ctxSpace k.ctx) k.completion .write = (v, .fault f st) → u.completionPa? k = (v, none)))) ∧
    -- The groups of a launch
    (∀ (k : Kernel) (part wld unit serial bid j cyc : Nat),
      let g := newGroup k part wld unit serial bid j cyc
      g.unit = unit ∧ g.kind = .user ∧ g.st = .pending ∧ g.ctx = k.ctx ∧ g.kernel = k.id ∧ g.alloc = k.gregs ∧ g.acc = k.acc ∧ g.bid = bid ∧
      g.gid = bid * k.gpb + j ∧ g.cid = bid / k.bpc ∧ (∀ x ∈ g.slices, x.pc = k.entry ∧ x.run = 15 ∧ x.mode = k.mode) ∧
      g.slices.map (·.idx) = [0, 1, 2, 3, 4, 5, 6, 7] ∧ ∀ n, n < k.params.length → g.sval n = k.params.getD n 0) ∧
    -- KILL, REGION_SYNC
    (refused ≠ 0 → exec (.killRequest pkt ctx record) s = .next (s.completePacket pkt refused) ∧
      exec (.regionSync pkt ctx) s = .next (s.completePacket pkt refused)) ∧
    (refused = 0 → record.toNat % 32 ≠ 0 → exec (.killRequest pkt ctx record) s = .next (s.completePacket pkt 4)) ∧
    (refused = 0 → record.toNat % 32 = 0 → ∃ v : State, exec (.killRequest pkt ctx record) s = .next (v.completePacket pkt 1) ∧
      ∀ k ∈ v.kernels, k.ctx = ctx.toNat → k.st ≠ .checking → k.named = true → k.completion ≠ record) ∧
    (refused = 0 → ∀ w, State.region? { s with nodeCache := [] } (s.packetPart pkt) 0 = (w, none) →
      exec (.regionSync pkt ctx) s = .next (w.completePacket pkt 1)) ∧
    (refused = 0 → ∀ w e chain, State.region? { s with nodeCache := [] } (s.packetPart pkt) 0 =
        (w, some (e, chain)) → ∃ v : State, exec (.regionSync pkt ctx) s = .next (v.completePacket pkt 1) ∧ v.groups = s.groups ∧
      (Store.getOr v.mm.buckets (s.packetPart pkt) {}).rate = e.rate ∧ (Store.getOr v.mm.buckets (s.packetPart pkt) {}).cap = e.rdepth) ∧
    -- TOKEN_REFILL
    (Happens .tokenRefill s fun t => { t with mm := s.mm, agenda := s.agenda } = s ∧ { t.mm with buckets := s.mm.buckets } = s.mm ∧
      t.mm.buckets = s.mm.buckets.map fun (e : Nat × Bucket) =>
        -- An access that has met an empty bucket spends the token at once
        let owes (p : Nat) : Bool := Store.getOr e.2.owed p 0 != 0
        (e.1, if s.cyc % 16 < e.2.rate then
            { e.2 with tokens := (e.2.tokens.map fun (x : Nat × Nat) => if owes x.1 then x else (x.1, x.2 + 1)).filter fun (x : Nat × Nat) => x.2 < e.2.cap
                       owed := (e.2.owed.map fun (x : Nat × Nat) => (x.1, x.2 - 1)).filter fun (x : Nat × Nat) => x.2 != 0 }
          else e.2)) ∧
    -- SVC_NOP, SVC_LAUNCH, SVC_KILL, YIELDCTX, FWVER
    (let asked (codes : Nat → Bool) : Option Mail := (s.mailbox core).find? fun m => s.mailTag core m.index == entry && !m.taken && codes m.code
     let serves (i : Instr) (codes : Nat → Bool) (P : Mail → Prop) : Prop :=
       (asked codes = none → exec i s = .next s) ∧
       ∀ m, asked codes = some m →
         (s.firmwareServes core = false → exec i s = .next s) ∧
         (s.firmwareServes core = true → s.mgmt.fwAccept.testBit m.version = false → exec i s = .next (s.replyMail core m.index 2)) ∧
         (s.firmwareServes core = true → s.mgmt.fwAccept.testBit m.version = true → P m)
     let posts (i : Instr) (ty : Nat) (arg : Mail → Word) (m : Mail) : Prop := ∃ (v : State) (p : Packet) (n : Nat),
       exec i s = .next (v.startPackets n) ∧ v.packets = s.packets ++ [p] ∧ p.svc = some (core, entry) ∧ p.part = m.part ∧
       fieldOf p.bytes 0 8 = ty ∧ fieldOf p.bytes 8 8 = m.ctx ∧ fieldOf p.bytes 16 8 = (arg m).toNat ∧ v.groups = s.groups ∧
       ∀ x ∈ v.mailbox core, x.index = m.index → x.taken = true
     serves (.svcNop core entry) (fun c => decide (c = 0) || decide (c ≥ 5)) (fun m =>
       (m.code = 0 → exec (.svcNop core entry) s = .next (s.replyMail core m.index 1)) ∧
       (m.code ≥ 5 → m.code ≠ 0x1F → exec (.svcNop core entry) s = .next (s.replyMail core m.index 4)) ∧
       (m.code = 0x1F → exec (.svcNop core entry) s = .next ((s.useFree 1).replyMail core m.index 1) ∨
         exec (.svcNop core entry) s = .next ((s.useFree 1).replyMail core m.index 4))) ∧
     serves (.svcLaunch core entry) (fun c => decide (c = 1)) (posts (.svcLaunch core entry) 3 fun m => m.words.getD 2 0) ∧
     serves (.svcKill core entry) (fun c => decide (c = 2)) (posts (.svcKill core entry) 4 fun m => m.words.getD 2 0) ∧
     serves (.yieldctx core entry) (fun c => decide (c = 3)) (posts (.yieldctx core entry) 5 fun _ => 0) ∧
     serves (.fwver core entry) (fun c => decide (c = 4)) fun m =>
       exec (.fwver core entry) s = .next (s.replyMail core m.index (word (256 * s.mgmt.fwVersion + 1)))) ∧
    -- A reply
    ∀ m w, (s.mailbox core).find? (fun m => m.index == entry) = some m → m.code ≠ 0x1F → ∃ v : State,
      s.replyMail core entry w = v.reap m.unit ∧ (∀ x ∈ v.mailbox core, x.index ≠ entry) ∧
      Store.getOr v.mailGen (16 * core + entry) 0 = (Store.getOr s.mailGen (16 * core + entry) 0 + 1) % 2 ^ 28 ∧
      ∀ r, m.dst = some r → 0x10 ≤ r → ∀ g ∈ s.groups, g.serial = m.serial → g.regState r = .pending m.token →
        ∃ h ∈ v.groups, h.unit = g.unit ∧ h.regState r = .full ∧ ∀ l, l < 32 → (h.regVal r).at l = w

/-! ### Events of contexts -/

/-- R80, R81, R86, R87, R91, R92, R118, R119, R254, R257, R258, R295: a context is created and destroyed; pre-emption halts its groups and
saves them, and RESUME places them again; device queues are granted and revoked; and a context engine checks a request, seals, restores or
imports an image, and completes the request's record. Where the spec leaves the way open, the model chooses: logs 7, 9, 17, 37 to 41, 67. -/
def Obligations.ContextEvents : Prop :=
  ∀ (s : State) (pkt token : Nat) (ctx : BitVec 32),
    let id := ctx.toNat
    let due (t : State) (delay : Nat) (ev : Instr) : Prop := ({ clk := s.cyc + delay, ev := ev } : Due) ∈ t.agenda
    let refused := s.ctxStatus pkt id
    let refuses (i : Instr) : Prop := refused ≠ 0 → exec i s = .next (s.completePacket pkt refused)
    let status (i : Instr) (n : Nat) : Prop := exec i s = .next (s.completePacket pkt n)
    let completes (i : Instr) (P : State → Prop) : Prop := ∃ v : State, exec i s = .next (v.completePacket pkt 1) ∧ P v
    let stateOf (v : State) (n : Nat) : Option CtxState := (v.ctx? n).map (·.st)
    -- CREATE
    (∀ (region : BitVec 16) (wld : BitVec 8),
      let i : Instr := .create pkt ctx region wld
      (s.mgmt.booted = false → status i 4) ∧
      (s.mgmt.booted = true → s.inUse id = true → status i 5) ∧
      (s.mgmt.booted = true → s.inUse id = false → completes i fun v => v.groups = s.groups ∧ v.mm = s.mm ∧ ∃ c : Context,
        v.ctxs = s.ctxs.filter (fun x => x.id != id) ++ [c] ∧ c.id = id ∧ c.st = .created ∧ c.part = s.packetPart pkt ∧
        c.world = wld.toNat ∧ c.region = region.toNat ∧ c.busy = false ∧ c.saving = false ∧ c.saved = [])) ∧
    -- DESTROY
    refuses (.destroy pkt ctx) ∧
    (refused = 0 → completes (.destroy pkt ctx) fun v => stateOf v id = some .destroyed ∧ (∀ k ∈ v.kernels, k.ctx ≠ id) ∧
      Store.get? v.mgmt.versions id = none ∧ (∀ q x, v.queue? q = some x → ∀ e ∈ x.grantees, e.ctx ≠ id) ∧
      -- Operations at work end ABORTED; a request that has yet to be checked stands
      (∀ o ∈ v.ctxOps, o.ctx = id → o.accepted = true → o.op ≠ 5 → o.status = 0x15) ∧
      (∀ o ∈ s.ctxOps, o.ctx = id → o.accepted = true → o.op = 5 → o.status = 0x10 → { o with status := 0x15 } ∈ v.ctxOps) ∧
      ∀ o ∈ s.ctxOps, o.accepted = false → o ∈ v.ctxOps) ∧
    -- PREEMPT, RESUME
    refuses (.preempt pkt ctx) ∧ refuses (.resume pkt ctx) ∧
    (∀ c, refused = 0 → s.ctx? id = some c →
      (c.busy = true → status (.preempt pkt ctx) 3 ∧ status (.resume pkt ctx) 3) ∧
      (c.busy = false →
        (c.st ≠ .resident ∨ c.saving = true → status (.preempt pkt ctx) 4) ∧
        (c.st = .resident → c.saving = false → ∃ v : State, exec (.preempt pkt ctx) s = .next (v.schedule 896 (.contextSaveComplete id)) ∧
          (v.ctx? id).map (fun c => (c.saving, c.packet)) = some (true, some pkt) ∧ (∀ k ∈ v.kernels, k.ctx = id → k.st ≠ .running) ∧
          (∀ g ∈ s.ownGroups id, (v.grp g.unit).st = .halted) ∧
          -- It is past the table instructions that wait for their units.
          ∀ g ∈ s.ownGroups id, s.grp g.unit = g → ∀ q ∈ g.paths, ∀ w x, q.wait = some w → w.past = some x →
            ∃ y ∈ (v.grp g.unit).passed, y.token = x.token ∧ y.held = true) ∧
        (c.st ≠ .preempted → c.st ≠ .checkpointed → status (.resume pkt ctx) 4) ∧
        (c.st = .preempted ∨ c.st = .checkpointed →
          (c.saving = true ∨ s.seatAll c = none → exec (.resume pkt ctx) s = .next (s.schedule 64 (.resume pkt ctx))) ∧
          ∀ w, c.saving = false → s.seatAll c = some w → exec (.resume pkt ctx) s = .next ((w.takeUp id).completePacket pkt 1)))) ∧
    -- CONTEXT_SAVE_COMPLETE
    (∀ n, (s.ctx? n = none → exec (.contextSaveComplete n) s = .next s) ∧
      (∀ c, s.ctx? n = some c → c.saving = false → exec (.contextSaveComplete n) s = .next s) ∧
      (∀ c, s.ctx? n = some c → c.saving = true → ∃ u : State,
        (c.st = .resident → stateOf u n = some .preempted) ∧ (c.st ≠ .resident → u = s) ∧
        (u.imageWaits n = true → exec (.contextSaveComplete n) s = .next (u.schedule 64 (.contextSaveComplete n))) ∧
        (u.imageWaits n = false → exec (.contextSaveComplete n) s = .next (u.saveImage n))) ∧
      (s.ctx? n ≠ none → ((s.saveImage n).ctx? n).map (fun c => (c.saving, c.saved.map (·.serial))) =
          some (false, (s.ownGroups n).map (·.serial)) ∧
        ∀ g ∈ (s.saveImage n).groups, ∀ h ∈ s.ownGroups n, g.unit ≠ h.unit)) ∧
    -- QGRANT, QREVOKE
    (∀ (queue : BitVec 16) (rights log2 : BitVec 8) (ring : BitVec 64),
      let i : Instr := .qgrant pkt ctx queue rights log2 ring
      let q := queue.toNat
      let n := log2.toNat
      let e : Grantee := { ctx := id, push := rights.getLsbD 0, pop := rights.getLsbD 1 }
      refuses i ∧ refuses (.qrevoke pkt ctx queue) ∧
      (refused = 0 →
        (∀ x, s.queue? q = some x →
          let others := x.grantees.filter fun g => g.ctx != id
          (others.length ≥ 2 ∨ ring.toNat ≠ x.ring ∨ n ≠ x.log2 → status i 8) ∧
          (others.length < 2 → ring.toNat = x.ring → n = x.log2 → completes i fun v =>
            v.queue? q = some { x with grantees := others ++ [e] } ∧ ∀ k, k ≠ q → v.queue? k = s.queue? k)) ∧
        (s.queue? q = none → n < 1 ∨ n > 16 → status i 8) ∧
        (∀ c v, s.queue? q = none → 1 ≤ n → n ≤ 16 → s.ctx? id = some c →
          (s.ringOk c ring.toNat (64 * 2 ^ n) = (v, false) → exec i s = .next (v.completePacket pkt 8)) ∧
          (s.ringOk c ring.toNat (64 * 2 ^ n) = (v, true) → completes i fun w => w.mm = v.mm ∧
            w.queue? q = some { ring := ring.toNat, log2 := n, grantees := [e] })) ∧
        completes (.qrevoke pkt ctx queue) fun v => v.groups = s.groups ∧ (∀ k, k ≠ q → v.queue? k = s.queue? k) ∧
          ∀ x, v.queue? q = some x → ∀ e ∈ x.grantees, e.ctx ≠ id)) ∧
    -- REQUEST_RECORD_CHECKED
    (s.ctxOps.find? (fun o => o.token == token && !o.accepted) = none → exec (.requestRecordChecked token) s = .next s) ∧
    (∀ o, s.ctxOps.find? (fun o => o.token == token && !o.accepted) = some o →
      let i : Instr := .requestRecordChecked token
      let left : State := { s with ctxOps := s.ctxOps.filter fun x => x.token != token }
      let waits : Bool := s.groups.any fun g => g.paths.any fun q => q.awaits token
      (waits = false → exec i s = .next left) ∧
      (waits = true →
        (s.ctxRecord o.record = none → exec i s = .next (left.answerToken token [2])) ∧
        ∀ b, s.ctxRecord o.record = some b →
          (s.ctxCheck o o.ctx b ≠ 0 → exec i s = .next (left.answerToken token [word (s.ctxCheck o o.ctx b)])) ∧
          (s.ctxCheck o o.ctx b = 0 →
            let op := fieldOf b 0 1
            let count := if op = 4 then s.mgmt.sealCount else s.mgmt.sealCount + 1
            ∃ v : State, exec i s = .next (v.answerToken token [0]) ∧ v.mgmt.sealCount = count ∧
              v.mm.num (s.canonPa o.record + 0x18) 4 = 1 ∧ due v 1000 (ctxEvent op token) ∧ v.groups = s.groups ∧
              (∀ x ∈ v.ctxOps, x.token = token → x.accepted = true ∧ x.op = op ∧ x.version = count ∧ x.image = fieldOf b 8 8 ∧
                x.limit = fieldOf b 0x10 8) ∧
              (op ≠ 5 → ∀ c, v.ctx? o.ctx = some c → c.busy = true)))) ∧
    -- SEAL_CTX, CHECKPOINT, MIGRATE, RESTORE, IMPORT_CTX
    (let found := s.ctxOps.find? fun o => o.token == token && o.accepted
     let ended (t : State) (status bytes : Nat) : Prop := due t 8 (.contextOpComplete token) ∧
       ∀ x ∈ t.ctxOps, x.token = token → x.status = status ∧ x.bytes = bytes
     let ends (i : Instr) (n bytes : Nat) : Prop := Happens i s fun t => ended t n bytes
     let version (t : State) (n : Nat) : Prop := ∀ x ∈ t.ctxOps, x.token = token → x.imageVersion = n
     (∀ i ∈ [Instr.sealCtx token, .checkpoint token, .migrate token, .restore token, .importCtx token],
       (found = none → exec i s = .next s) ∧ ∀ o, found = some o → o.status ≠ 0 → ends i o.status 0) ∧
     ∀ o, found = some o → o.status = 0 →
      (∀ i ∈ [Instr.sealCtx token, .checkpoint token, .migrate token],
        (s.ctx? o.ctx = none → ends i 0x15 0) ∧
        ∀ c, s.ctx? o.ctx = some c →
          (c.saving = true → exec i s = .next (s.schedule 64 (ctxEvent o.op token))) ∧
          (c.saving = false → o.op = 3 → s.mgmt.sessions = [] → ends i 0x14 0) ∧
          (c.saving = false → (o.op ≠ 3 ∨ s.mgmt.sessions ≠ []) → Happens i s fun t => match s.writeImage o c with
            | (_, .inr n) => ended t n 0
            | (v, .inl b) => fieldOf b 0 4 = 0x4B595743 ∧ fieldOf b 8 4 = c.id % 2 ^ 32 ∧ ended t 0x10 b.length ∧ version t o.version ∧ t.mm = v.mm ∧
              ∃ img : Image, t.images = s.images ++ [img] ∧ img.bytes = b ∧ img.ctx = c.id ∧ img.kind = o.op ∧ img.version = o.version ∧
                img.body = { c with savedFolios := v.boundFolios c })) ∧
      let orphan : Prop := ∃ n, Store.get? s.mgmt.versions o.ctx = some n ∧ ∀ i ∈ s.images, i.kind ≤ 2 → i.ctx = o.ctx → i.version ≠ n
      (orphan → ends (.restore token) 0x12 0) ∧
      (∀ v n, s.readImage o = (v, .inr n) → (¬orphan → ends (.restore token) n 0) ∧ ends (.importCtx token) n 0) ∧
      ∀ v b, s.readImage o = (v, .inl b) →
        let held := s.images.find? fun i => decide (i.kind ≤ 2) && i.bytes == b
        (¬orphan → held = none → ends (.restore token) 0x11 b.length) ∧
        (¬orphan → ∀ img c, held = some img → s.ctx? o.ctx = some c →
          (img.ctx ≠ c.id ∨ img.part ≠ c.part ∨ img.world ≠ c.world → ends (.restore token) 0x11 b.length) ∧
          (img.ctx = c.id → img.part = c.part → img.world = c.world →
            (Store.get? s.mgmt.versions c.id ≠ some img.version → ends (.restore token) 0x12 b.length) ∧
            (Store.get? s.mgmt.versions c.id = some img.version → Happens (.restore token) s fun t => ended t 0x10 b.length ∧
              version t img.version ∧ ∀ x, t.ctx? o.ctx = some x → x.region = img.body.region ∧ x.space = img.body.space ∧
                ∀ g ∈ x.saved, g ∈ (if c.lost then img.body.saved else c.saved)))) ∧
        let barred : Prop := s.mgmt.sessions = [] ∨ s.inUse o.ctx = true ∨ fieldOf b 6 1 ≠ 3
        (barred → ends (.importCtx token) 0x11 b.length) ∧
        (¬barred → Happens (.importCtx token) s fun t => match Config.importedBody b s.stamp with
          | none => ended t 0x11 b.length
          | some _ => ended t 0x10 b.length ∧ version t (fieldOf b 0x10 8) ∧ t.mgmt = s.mgmt ∧ ∃ x : Context,
            t.ctxs = s.ctxs.filter (fun y => y.id != o.ctx) ++ [x] ∧ x.id = o.ctx ∧ x.part = o.part ∧ x.st = .preempted ∧ x.busy = true)) ∧
    -- CONTEXT_OP_COMPLETE
    (s.ctxOps.find? (fun o => o.token == token && o.status != 0) = none → exec (.contextOpComplete token) s = .next s) ∧
    ∀ o, s.ctxOps.find? (fun o => o.token == token && o.status != 0) = some o → Happens (.contextOpComplete token) s fun t =>
      let pa := s.canonPa o.record
      t.mm.num (pa + 0x18) 4 = o.status % 2 ^ 32 ∧ t.mm.num (pa + 0x20) 8 = o.bytes % 2 ^ 64 ∧
      t.mm.num (pa + 0x28) 8 = o.imageVersion % 2 ^ 64 ∧ (∀ x ∈ t.ctxOps, x.token ≠ token) ∧
      ((o.op ≠ 5 ∨ o.status = 0x10) → ∀ c, t.ctx? o.ctx = some c → c.busy = false) ∧
      (o.status = 0x10 → s.ctx? o.ctx ≠ none →
        stateOf t o.ctx = some (match o.op with
          | 1 => .sealedImg
          | 2 => .checkpointed
          | 3 => .migrated
          | _ => .preempted) ∧
        (o.op ∈ [1, 2, 5] → Store.get? t.mgmt.versions o.ctx = some o.version) ∧
        (o.op = 3 → Store.get? t.mgmt.versions o.ctx = none) ∧
        (o.op = 5 → t.mgmt.sessions = s.mgmt.sessions.tail))

/-! ### Events of the host interface and of the peer links -/

/-- R251 to R256, R353 to R358: queue interfaces are enabled, closed, notified and revoked, and a packet completes by its status and its
message; a peer's request is served where the inbound table allows it. A port trains, comes up, retrains and fails, with its requests lost;
a flit is taken in sequence with a right CRC; and the management core writes the device number and the tables of the peer window. Where the
spec leaves the way open, the model chooses: logs 9, 16, 20, 33, 44, 45, 50, 69, 84. -/
def Obligations.HostEvents : Prop :=
  ∀ (s : State) (n port pkt func : Nat),
    let due (t : State) (delay : Nat) (ev : Instr) : Prop := ({ clk := s.cyc + delay, ev := ev } : Due) ∈ t.agenda
    let awake := s.wakePower
    let woken := if s.mgmt.power ≤ 2 then awake else s
    -- BADPKT and the completion of a packet
    exec (.badpkt pkt) s = .next (s.completePacket pkt 2) ∧
    (∀ p status, s.packets.find? (fun p => p.id == pkt) = some p →
      let t := s.completePacket pkt status
      let q := Store.getOr s.qis p.qiNum {}
      let e := (Store.getOr s.irtes q.irte 0).toNat
      let f := bitsOf e 30 21
      let index := e % 2 ^ 11
      let tries : Prop := p.svc = none ∧ p.qi ≠ none ∧ q.st ≠ .revoked ∧ p.irq = true ∧ e / 2 ^ 31 % 2 = 1 ∧ f = q.func
      (∀ x ∈ t.packets, x.id ≠ pkt) ∧
      (p.svc = none → (p.qi = none ∨ q.st ≠ .revoked) → t.mm.num (p.pa + 4) 4 = status % 2 ^ 32) ∧
      (tries → index ∉ (Store.getOr s.msix f {}).masked →
        t.messages = if index < Config.msixEntries f then (f, index) :: s.messages else s.messages) ∧
      (tries → index ∈ (Store.getOr s.msix f {}).masked →
        t.messages = s.messages ∧ (index < Config.msixEntries f → index ∈ (Store.getOr t.msix f {}).pending))) ∧
    -- MSIX_VECTOR_UNMASK
    (∀ index, let m := Store.getOr s.msix func {}
      Happens (.msixVectorUnmask func index) s fun t => { t with msix := s.msix, messages := s.messages } = s ∧
        Store.getOr t.msix func {} = { masked := m.masked.filter (· != index), pending := m.pending.filter (· != index) } ∧
        (∀ k, k ≠ func → Store.getOr t.msix k {} = Store.getOr s.msix k {}) ∧
        t.messages = if index ∈ m.pending then (func, index) :: s.messages else s.messages) ∧
    -- QI_ENABLE, QI_DISABLE
    (let q := s.qi n
     let ignored : Prop := n ≥ 8192 ∨ s.qiLocked n = true
     let onlyQis (t : State) : Prop := { t with qis := s.qis, agenda := s.agenda } = s ∧ ∀ k, k ≠ n → t.qi k = s.qi k
     let closes (i : Instr) : Prop := exec i s = .next ((awake.setQi n { q with closing := true }).closeQi n)
     (∀ ctl : BitVec 64,
       let v := ctl.toNat
       let sets : Qi := { q with log2 := bitsOf v 60 56, func := bitsOf v 55 46, part := bitsOf v 45 40, irte := bitsOf v 32 20, pasid := v % 2 ^ 20 }
       let legal : Prop := 4 ≤ sets.log2 ∧ sets.log2 ≤ 16 ∧ sets.func ≤ 512 ∧ sets.ring.toNat % (64 * 2 ^ sets.log2) = 0
       let ignored : Prop := ignored ∨ bitsOf v 39 33 ≠ 0
       (ignored ∨ (q.en = true ∧ v ≥ 2 ^ 63) → exec (.qiEnable n ctl) s = .next awake) ∧
       (¬ignored → q.en = true → v < 2 ^ 63 → closes (.qiEnable n ctl)) ∧
       (¬ignored → q.en = false → (v < 2 ^ 63 ∨ ¬legal) → Happens (.qiEnable n ctl) s fun t => onlyQis t ∧ t.qi n = sets) ∧
       (¬ignored → q.en = false → v ≥ 2 ^ 63 → legal → Happens (.qiEnable n ctl) s fun t => onlyQis t ∧
         t.qi n = { sets with en := true, st := .enabled, head := 0, tail := 0, epoch := q.epoch + 1 })) ∧
     (ignored → exec (.qiDisable n) s = .next awake) ∧
     (¬ignored → q.en = true → closes (.qiDisable n)) ∧
     (¬ignored → q.en = false → Happens (.qiDisable n) s fun t => onlyQis t ∧ (t.qi n).en = false ∧ (t.qi n).st = q.st) ∧
     (∀ v : State, (v.qi n).closing = true → (v.packets.any fun p => p.qi == some n && p.started) = false →
       ((v.closeQi n).qi n).en = false ∧ ((v.closeQi n).qi n).st = .disabled ∧ ∀ p ∈ (v.closeQi n).packets, p.qi ≠ some n) ∧
     -- RING_READ_ERROR
     (Happens (.ringReadError n) s fun t => { t with qis := s.qis } = s ∧ (∀ k, k ≠ n → t.qi k = s.qi k) ∧
       (t.qi n).st = if q.st = .enabled then .error else q.st)) ∧
    -- NOTIFY
    (∀ page offset size (value : BitVec 64),
      let i : Instr := .notify func page offset size value
      let tail := value.toNat % 2 ^ 32
      (offset ≠ 0 ∨ size ≠ 4 ∨ s.pageQi func page = none → exec i s = .next s) ∧
      ∀ k, offset = 0 → size = 4 → s.pageQi func page = some k →
        let q := s.qi k
        let count := (tail + 2 ^ 32 - q.head) % 2 ^ 32
        (q.st = .revoked → exec i s = .next s) ∧
        (q.st ≠ .revoked → q.st ≠ .enabled ∨ q.closing = true → exec i s = .next woken) ∧
        (q.st = .enabled → q.closing = false →
          (count > 2 ^ q.log2 → Happens i s fun t => (t.qi k).st = .error ∧ t.packets = s.packets) ∧
          (count ≤ 2 ^ q.log2 → Happens i s fun t => (t.qi k).tail = tail ∧ (t.qi k).st = .enabled ∧
            (t.qi k).head % 2 ^ 32 = (q.head + count) % 2 ^ 32 ∧ t.packets.length = s.packets.length + count))) ∧
    -- PASID_REVOKE, TDISP_ERROR, TDISP_STATE_CHANGE
    (∀ value : BitVec 32, bitsOf value.toNat 31 20 ≠ 0 → exec (.pasidRevoke value) s = .next awake) ∧
    (∀ value : BitVec 32, bitsOf value.toNat 31 20 = 0 → Happens (.pasidRevoke value) s fun t =>
      let hit (q : Qi) : Bool := (q.st == .enabled || q.st == .error) && q.pasid == value.toNat % 2 ^ 20
      (∀ e ∈ s.qis, hit e.2 = true → (t.qi e.1).st ≠ .enabled ∧ (t.qi e.1).st ≠ .error ∧
        ((s.qi e.1).closing = false → (t.qi e.1).st = .revoked) ∧ ∀ p ∈ t.packets, p.qi = some e.1 → p.started = true) ∧
      ∀ e p, s.qis.filter (fun x => hit x.2) = [e] → s.qi e.1 = e.2 → s.packets.filter (fun p => p.qi == some e.1 && !p.started) = [p] →
        s.packets.find? (fun x => x.id == p.id) = some p → p.svc = none → t.mm.num (p.pa + 4) 4 = 6) ∧
    (Happens (.tdispError func) s fun t => Store.getOr t.tdisp func 0 = 3 ∧ { t with tdisp := s.tdisp, qis := s.qis } = s ∧
      t.qis = s.qis.map fun e => if e.2.func = func ∧ e.2.st = .enabled then (e.1, { e.2 with st := .error }) else e) ∧
    (∀ st, Happens (.tdispStateChange func st) s fun t => { t with tdisp := s.tdisp } = s ∧
      Store.getOr t.tdisp func 0 = if st < 3 then st else Store.getOr s.tdisp func 0) ∧
    -- PEER_REQUEST_SERVE
    (∀ device kind (addr : BitVec 64) size (data : BitVec 1024) v lo hi,
      let i : Instr := .peerRequestServe device kind addr size data
      let e := (Store.getOr s.inbound (device % 4096) 0).toNat
      let pa := addr.toNat % 2 ^ 39
      let ty := (EType.ofCode (bitsOf kind 15 8)).getD .u64
      let len := if kind = 0 then min size 128 else if kind = 1 then min size 128 else ty.elemBytes
      let allowed : Prop := e / 2 ^ 63 = 1 ∧ (kind = 0 ∨ bitsOf e 62 62 = 1) ∧ lo ≤ pa ∧ pa + len ≤ hi
      woken.rootArea (bitsOf e 45 40) = (v, lo, hi) →
      (¬allowed → exec i s = .next { v with peerAnswer := [1] }) ∧
      (allowed →
        (kind = 1 → Happens i s fun t => t.peerAnswer = [0] ∧ t.mm.bytes pa len = leBytes data.toNat len) ∧
        (kind ≠ 1 → Happens i s fun t => ∃ u : State, u = v.touch pa len ∧
          t.peerAnswer = 0 :: (List.range ((len + 7) / 8)).map (fun k => word (u.mm.num pa len / 2 ^ (64 * k) % 2 ^ 64)) ∧
          (kind = 0 → t.mm = u.mm) ∧
          (kind ≠ 0 → t.mm.bytes pa len = leBytes (atomicNew (kind % 256) ty (.ofCode (bitsOf kind 18 16)) (decide (kind / 2 ^ 19 % 2 = 1))
            (u.mm.num pa len) (data.toNat % 2 ^ 64 % 2 ^ (8 * len)) (data.toNat / 2 ^ 64 % 2 ^ (8 * len))) len)))) ∧
    -- PORT_ENABLE, PORT_DISABLE, LANES_TRAINED and the limits of R353
    (let x := s.port port
     let onlyPorts (t : State) : Prop := { t with ports := s.ports, agenda := s.agenda } = s ∧ ∀ k, k ≠ port → t.port k = s.port k
     let loses (t : State) : Prop := (∀ f ∈ t.mm.flights, ∀ y ∈ f.lanes, port ∈ y.ports → y.lost = true) ∧
       (∀ u, (s.mm.stores.any fun y => y.serial == (s.grp u).serial && y.ports.contains port && y.reported) = true → s.hasGrp u = true →
         (t.grp u).linkLost = true) ∧ ∀ k, k ≠ port → t.port k = s.port k
     (port < 16 → x.st = .down → Happens (.portEnable port) s fun t => onlyPorts t ∧ (t.port port).st = .training ∧
       (t.port port).txSeq = 0 ∧ (t.port port).rxSeq = 0 ∧ (t.port port).buffer = [] ∧ due t 20000000 (.trainingTimeout port)) ∧
     (port ≥ 16 ∨ x.st ≠ .down → exec (.portEnable port) s = .next awake) ∧
     (port < 16 → Happens (.portDisable port) s fun t => loses t ∧ (t.port port).st = .down ∧ (t.port port).lanes = 0 ∧
       (t.port port).buffer = []) ∧
     (port ≥ 16 → exec (.portDisable port) s = .next awake) ∧
     (∀ lanes,
       let trains : Prop := (x.st = .training ∨ x.st = .retraining) ∧ lanes ∈ [1, 2, 4]
       (¬trains → exec (.lanesTrained port lanes) s = .next s) ∧
       (trains → Happens (.lanesTrained port lanes) s fun t => onlyPorts t ∧ (t.port port).st = (if lanes = 4 then .up else .degraded) ∧
         (t.port port).lanes = lanes ∧ (t.port port).buffer = x.buffer ∧ (x.buffer ≠ [] → due t 65536 (.ackTimeout port) ∧
           (t.port port).out = (x.buffer.take 256).map fun f => f.bytes ((x.rxSeq + 4095) % 4096)))) ∧
     (Happens (.trainingTimeout port) s fun t => onlyPorts t ∧
       (t.port port).st = if x.st = .training ∧ x.since + 20000000 ≤ s.cyc then .failed else x.st) ∧
     (let retrains (i : Instr) : Prop := Happens i s fun t => onlyPorts t ∧ (t.port port).st = .retraining ∧ (t.port port).lanes = 0 ∧
        (t.port port).retrains = min (x.retrains + 1) 255 ∧ (t.port port).buffer = x.buffer ∧ due t 2000000 (.retrainTimeout port)
      (x.usable = false ∨ x.buffer = [] → exec (.ackTimeout port) s = .next s) ∧
      (x.usable = true → x.buffer ≠ [] → x.ackSince + 65536 ≤ s.cyc → retrains (.ackTimeout port)) ∧
      (x.usable = true → x.buffer ≠ [] → s.cyc < x.ackSince + 65536 →
        exec (.ackTimeout port) s = .next (s.schedule (x.ackSince + 65536 - s.cyc) (.ackTimeout port))) ∧
      (x.usable = true → x.tries ≥ 8 → retrains (.replayLimit port)) ∧
      (x.usable = false ∨ x.tries < 8 → exec (.replayLimit port) s = .next s)) ∧
     (x.st = .retraining → x.since + 2000000 ≤ s.cyc → Happens (.retrainTimeout port) s fun t => loses t ∧ (t.port port).st = .failed ∧
       (t.port port).buffer = []) ∧
     (x.st ≠ .retraining ∨ s.cyc < x.since + 2000000 → exec (.retrainTimeout port) s = .next s) ∧
     -- FLIT_RECEIVED
     (∀ (header crc : BitVec 64) (payload : List (BitVec 8)),
       let i : Instr := .flitReceived port header crc payload
       let good : Prop := crc64 0 (leBytes header.toNat 8 ++ payload.take 240 ++ List.replicate (240 - payload.length) 0) = crc.toNat ∧
         header.toNat % 4096 = x.rxSeq
       (x.usable = false → exec i s = .next woken) ∧
       (x.usable = true → good → Happens i s fun t =>
         let y := t.port port
         let left := dropAcked x.buffer (bitsOf header.toNat 23 12)
         let asked : Prop := Config.asksReplay (bitsOf header.toNat 27 24) = true ∧ left ≠ []
         onlyPorts t ∧ y.rxSeq = (x.rxSeq + 1) % 4096 ∧ y.nak = false ∧ y.buffer = left ∧ (¬asked → y.replays = x.replays) ∧
         (asked → y.replays = min (x.replays + 1) 255 ∧ y.out = (left.take 256).map (fun f => f.bytes x.rxSeq) ∧
           (left.head?.map (·.seq) = x.buffer.head?.map (·.seq) → y.tries = x.tries + 1 ∧ (x.tries ≥ 7 → due t 0 (.replayLimit port))))) ∧
       (x.usable = true → ¬good → Happens i s fun t => onlyPorts t ∧ (t.port port).rxSeq = x.rxSeq ∧ (t.port port).nak = true ∧
         (t.port port).replays = min (x.replays + 1) 255 ∧ (t.port port).buffer = x.buffer))) ∧
    -- DEVICE_NUMBER_WRITE, ROUTE_TABLE_WRITE
    (∀ value : BitVec 16,
      (value.toNat < 4096 → (∀ p, p < 16 → (s.port p).st = .down) → Happens (.deviceNumberWrite value) s fun t => t.devno = value.toNat ∧
        { t with devno := s.devno, free := s.free, agenda := s.agenda, mgmt := s.mgmt } = s) ∧
      (value.toNat ≥ 4096 → exec (.deviceNumberWrite value) s = .next awake) ∧
      (∀ p, p < 16 → (s.port p).st ≠ .down → exec (.deviceNumberWrite value) s = .next awake)) ∧
    ∀ inbound device (value : BitVec 64),
      let i : Instr := .routeTableWrite inbound device value
      let reserved : Prop := inbound = true ∧ (bitsOf value.toNat 61 46 ≠ 0 ∨ bitsOf value.toNat 39 0 ≠ 0)
      (device ≥ 4096 ∨ reserved → exec i s = .next awake) ∧
      (device < 4096 → ¬reserved → Happens i s fun t =>
        { t with routes := s.routes, inbound := s.inbound, free := s.free, agenda := s.agenda, mgmt := s.mgmt } = s ∧
        (∀ k, Store.getOr t.inbound k 0 = if inbound = true ∧ k = device then value else Store.getOr s.inbound k 0) ∧
        ∀ k, Store.getOr t.routes k 0 = if inbound = false ∧ k = device then value.toNat % 2 ^ 16 else Store.getOr s.routes k 0)

/-! ### Events of the management core -/

/-- R4, R80, R82 to R84, R87, R165, R368 to R375: soft errors are logged, halt their group or pre-empt; curator firmware is handed over
and reloaded; assignment words take effect after zeroing; register writes reach their registers; power states are entered and left;
reset, power and SPDM requests; the state readback and its debug controls. What measurements and signatures hold is free (log 2).
Where the spec leaves the way open, the model chooses: logs 12, 14, 16 to 18, 44, 46 to 49, 64, 69, 74. -/
def Obligations.ManagementEvents : Prop :=
  ∀ (s : State),
    let due (t : State) (delay : Nat) (ev : Instr) : Prop := ({ clk := s.cyc + delay, ev := ev } : Due) ∈ t.agenda
    let awake := s.wakePower
    let logs (t : State) (cause kind unit : Nat) : Prop := ∃ r more, t.errLog = r :: more ∧ r.cause = cause ∧ r.kind = kind % 256 ∧
      r.unit = unit % 65536 ∧ (r.part, r.world) = s.unitOwner kind unit
    -- SOFT_ERROR_CORRECTED, SOFTERR, UNCORRECTABLE_SHARED
    (∀ kind unit addr, Happens (.softErrorCorrected kind unit addr) s fun t =>
      { t with errLog := s.errLog, errSeq := s.errSeq } = s ∧ logs t (deviceCause 1) kind unit) ∧
    (∀ unit (location : BitVec 64), let g := s.grp unit
      (s.hasGrp unit = false → exec (.softerr unit location) s = .next s) ∧
      (s.hasGrp unit = true → Happens (.softerr unit location) s fun t =>
        { t with groups := s.groups, mail := s.mail, stamp := s.stamp, agenda := s.agenda } = s ∧
        t.grp unit = { g with st := .halted, soft := .raised } ∧ (∀ v, v ≠ unit → t.grp v = s.grp v) ∧
        ((s.mailbox g.core).length ≥ 16 → t.mail = s.mail ∧ due t 64 (.softerr unit location)) ∧
        ((s.mailbox g.core).length < 16 → ∃ m : Mail, t.mailbox g.core = s.mailbox g.core ++ [m] ∧ m.code = 0x1F ∧ m.unit = unit ∧
          m.serial = g.serial ∧ m.words = mailWords g 0x1F [word unit, location, 0, 0, 0, 0]))) ∧
    (∀ kind unit (addr : BitVec 64) parts, let i : Instr := .uncorrectableShared kind unit addr parts
      ((∀ c ∈ s.ctxs, c.part ∈ parts → c.st = .resident → c.saving = true) → Happens i s fun t =>
        { t with errLog := s.errLog, errSeq := s.errSeq } = s ∧ logs t (deviceCause 2) kind unit) ∧
      Happens i s fun t => ∀ c, s.ctx? c.id = some c → c.part ∈ parts → c.st = .resident → c.saving = false →
        (∃ d, t.ctx? c.id = some d ∧ d.saving = true ∧ d.packet = none) ∧ due t 896 (.contextSaveComplete c.id)) ∧
    -- CURATOR_RELOAD, CURATOR_IMAGE_HANDOFF
    (∀ core, let u := 64 * core + 63
      (s.mgmt.booted = false ∨ core ≥ 192 → exec (.curatorReload core) s = .next s) ∧
      (s.mgmt.booted = true → core < 192 → Happens (.curatorReload core) s fun t =>
        { t with groups := s.groups, free := s.free, stamp := s.stamp, parts := s.parts, agenda := s.agenda } = s ∧
        (∀ v, v ≠ u → t.grp v = s.grp v) ∧ t.hasGrp u = true ∧ (t.grp u).byFirmware = s.mgmt.shipped ∧
        (t.grp u).kind = .curator ∧ (t.grp u).fw = s.mgmt.fwVersion ∧ ∀ x ∈ (t.grp u).slices, x.run = 15 ∧ x.ret = [] ∧ x.rcv = [])) ∧
    (∀ addr : BitVec 64,
      let i : Instr := .curatorImageHandoff addr
      let h := s.mm.bytes (hostPa addr.toNat) 80
      let v := fieldOf h 8 4
      let acc := fieldOf h 5 1
      let good : Prop := fieldOf h 0 4 = 0x4B594657 ∧ fieldOf h 4 1 = 2 ∧ fieldOf h 6 2 = 0 ∧ Config.minimumVersion 2 ≤ v ∧
        Config.signatureOk (h ++ s.mm.bytes (hostPa addr.toNat + 80) (fieldOf h 0x0C 4)) = true
      let runsIt (t : State) : Prop := t.mgmt.booted = true ∧ t.mgmt.shipped = false ∧ t.mgmt.fwVersion = v ∧ t.mgmt.fwAccept = acc ∧
        t.mgmt.pending = none ∧ ∀ core, core < 192 → (t.grp (64 * core + 63)).kind = .curator ∧ (t.grp (64 * core + 63)).fw = v
      (¬good → exec i s = .next awake) ∧
      (s.mgmt.failures.contains 1 = true → exec i s = .next awake) ∧
      (s.mgmt.failures.contains 1 = false →
        (s.mgmt.booted = false → Happens i s fun t => good → runsIt t ∧ t.mail = s.mail) ∧
        (s.mgmt.booted = true → s.mgmt.shipped = true → Happens i s fun t => good → runsIt t ∧
          ∀ core m, core < 192 → m ∈ s.mailbox core → m.taken = false → acc.testBit m.version = false →
            ∀ x ∈ t.mailbox core, x.index ≠ m.index) ∧
        (s.mgmt.booted = true → s.mgmt.shipped = false → Happens i s fun t => good →
          t.mgmt = { s.mgmt with pending := some (v, acc), switched := [] } ∧ { t with mgmt := s.mgmt, agenda := s.agenda } = s))) ∧
    -- ASSIGNMENT_WORD_WRITE, ZEROING_COMPLETE
    (∀ bank unit (value : BitVec 32),
      let i : Instr := .assignmentWordWrite bank unit value
      let held (t : State) : Word32 := Store.getOr (if bank = true then t.mm.bankAssign else t.mm.quadAssign) unit 0
      let old := held s
      let new : Word32 := (value &&& 0x00FF03F1) ||| (if bitsOf value.toNat 23 16 = 0 then 0 else 8)
      let wipes : Prop := bitsOf old.toNat 23 16 ≠ bitsOf new.toNat 23 16 ∨ bitsOf old.toNat 9 4 ≠ bitsOf new.toNat 9 4 ∨
        (new.getLsbD 0 = true ∧ old.getLsbD 0 = false)
      let here : Prop := (unit < if bank = true then 6144 else 768) ∧ bitsOf value.toNat 31 24 = 0 ∧ bitsOf value.toNat 15 10 = 0 ∧
        bitsOf value.toNat 2 1 = 0
      (¬here → exec i s = .next awake) ∧
      -- A curator group of the quadrant follows its word
      let followed (t : State) (w : Word32) : Prop := ∀ u, t.grp u =
        if s.hasGrp u = true ∧ (s.grp u).kind = .curator ∧ (s.grp u).quadrant = unit then
          { s.grp u with part := bitsOf w.toNat 9 4, world := bitsOf w.toNat 23 16 }
        else s.grp u
      (here → ¬wipes → Happens i s fun t => held t = new ∧ t.mm.sram = s.mm.sram ∧ t.mm.column = s.mm.column ∧
        if bank = true then t.groups = s.groups else followed t new) ∧
      (here → wipes → Happens i s fun t => held t = old ∧ t.mm.cells = s.mm.cells ∧
        (bank = true → due t 256 (.zeroingComplete true unit) ∧ Store.getOr t.mm.bankBusy unit 0 = s.cyc + 256 ∧
          Store.get? t.mm.bankNext unit = some new ∧ t.groups = s.groups ∧ ∀ e ∈ t.mm.sram, e.1 / 16384 ≠ unit) ∧
        (bank = false → due t 4096 (.zeroingComplete false unit) ∧ Store.getOr t.mm.quadBusy unit 0 = s.cyc + 4096 ∧
          Store.get? t.mm.quadNext unit = some new ∧ Store.get? t.mm.column unit = none ∧
          ∀ g ∈ t.groups, g.quadrant = unit → g.tiles = [] ∧ ∀ r l, 0x10 ≤ r → (g.regVal r).at l = 0)) ∧
      let j : Instr := .zeroingComplete bank unit
      let busy := Store.getOr (if bank = true then s.mm.bankBusy else s.mm.quadBusy) unit 0
      (busy > s.cyc → exec j s = .next s) ∧
      (busy ≤ s.cyc → Happens j s fun t =>
        held t = (Store.get? (if bank = true then s.mm.bankNext else s.mm.quadNext) unit).getD old ∧
        Store.get? (if bank = true then t.mm.bankBusy else t.mm.quadBusy) unit = none ∧
        Store.get? (if bank = true then t.mm.bankNext else t.mm.quadNext) unit = none ∧
        match bank, Store.get? s.mm.quadNext unit with
        | false, some w => followed t w
        | _, _ => t.groups = s.groups)) ∧
    -- LATENCY_TOLERANCE_WRITE, REGISTER_WRITE
    (∀ value : BitVec 32, Happens (.latencyToleranceWrite value) s fun t => { t with mgmt := s.mgmt, agenda := s.agenda } = s ∧
      t.mgmt = { s.mgmt with hostTolerance := value.toNat } ∧ (t.agenda.any fun d => d.ev == .powerStateEntry) = true) ∧
    (∀ agent offset (value : BitVec 64),
      let i : Instr := .registerWrite agent offset value
      let n := (offset - 0x10000) / 32
      let irtes : Prop := 0x40000 ≤ offset ∧ offset < 0x50000 ∧ offset % 8 = 0
      let qis : Prop := 0x10000 ≤ offset ∧ offset < 0x40000
      (agent ≥ 3 → exec i s = .next s) ∧
      (agent < 3 → offset = 0x300 → Happens i s fun t => { t with readback := s.readback, agenda := s.agenda } = s ∧
        ∀ k, t.rb k = if k = agent then { s.rb k with addr := value } else s.rb k) ∧
      (agent < 3 → offset = 0x308 → exec i s = exec (.readbackWrite agent value) s) ∧
      (agent < 3 → agent ≠ 0 → offset ≠ 0x300 → offset ≠ 0x308 → exec i s = .next s) ∧
      (agent = 0 → offset = 0x100 → exec i s = exec (.pasidRevoke (value.setWidth 32)) s) ∧
      (agent = 0 → offset = 0x200 → Happens i s fun t => t.mgmt = { s.mgmt with hostTolerance := value.toNat % 2 ^ 32 }) ∧
      (agent = 0 → irtes → (bitsOf value.toNat 63 32 ≠ 0 ∨ bitsOf value.toNat 20 11 ≠ 0) → exec i s = .next awake) ∧
      (agent = 0 → irtes → bitsOf value.toNat 63 32 = 0 → bitsOf value.toNat 20 11 = 0 → Happens i s fun t =>
        { t with irtes := s.irtes, agenda := s.agenda } = s ∧ ∀ k,
          Store.getOr t.irtes k 0 = if k = (offset - 0x40000) / 8 then value else Store.getOr s.irtes k 0) ∧
      (agent = 0 → qis → offset % 32 = 0 → exec i s = exec (.qiEnable n value) s) ∧
      (agent = 0 → qis → offset % 32 = 8 → (s.qiLocked n = true ∨ (s.qi n).en = true) → exec i s = .next awake) ∧
      (agent = 0 → qis → offset % 32 = 8 → s.qiLocked n = false → (s.qi n).en = false → exec i s = .next (awake.setQi n { s.qi n with ring := value })) ∧
      (agent = 0 → offset ∉ [0x100, 0x200, 0x300, 0x308] → ¬irtes → ¬(qis ∧ offset % 32 ∈ [0, 8]) → exec i s = .next awake)) ∧
    -- POWER_STATE_ENTRY, POWER_STATE_EXIT
    (let p := s.mgmt.power
     let may (n : Nat) : Prop := s.tolerance ≠ 0 ∧ (s.tolerance = 0xFFFFFFFF ∨ exitLatency n ≤ 2000 * s.tolerance) ∧
       if n = 1 then s.quiet = true ∧ (p = 1 ∨ s.mgmt.idleStamp = some s.stamp) else ∀ c ∈ s.ctxs, c.st ≠ .resident
     let onlyPower (t : State) : Prop := { t with mgmt := s.mgmt, agenda := s.agenda } = s
     (∀ n, p < n → n ≤ 3 → may n → (∀ k, n < k → k ≤ 3 → ¬may k) → Happens .powerStateEntry s fun t =>
       onlyPower t ∧ t.mgmt.power = n ∧ t.mgmt.powerSince = s.cyc) ∧
     ((∀ n, p < n → n ≤ 3 → ¬may n) → Happens .powerStateEntry s fun t => onlyPower t ∧ t.mgmt.power = p ∧
       (p ≠ 0 → ¬may p → s.mgmt.failures.contains 1 = false → (t.agenda.any fun d => isPowerExit d.ev) = true)) ∧
     (∀ elapsed, Happens (.powerStateExit elapsed) s fun t => { t with mgmt := s.mgmt, agenda := s.agenda, cyc := s.cyc } = s ∧
       t.mgmt.power = 0 ∧ t.cyc = if p ≥ 2 then max s.cyc (s.mgmt.powerSince + elapsed) else s.cyc)) ∧
    -- DEVICE_RESET, POWER_ON, POWER_REMOVAL
    (let boots (i : Instr) (kept : Nat → Prop) (on : Bool) : Prop := Happens i s fun t =>
       { t with free := 0, stamp := 0, agenda := [], ctxs := [], images := [], messages := [], powered := true, mm := State.reset.mm
                mgmt := State.reset.mgmt, groups := [], errLog := [], errSeq := 0 } = { State.reset with free := 0, stamp := 0, groups := [] } ∧
       t.powered = on ∧ t.images = s.images ∧ t.messages = s.messages ∧ { t.mm with cells := [] } = ({} : MemSys) ∧
       (∀ c : Host.Cell, c ∈ t.mm.cells ↔ c ∈ s.mm.cells ∧ kept c.1) ∧
       -- The images are verified: by a free choice each passes or fails
       (let m : Mgmt := { State.reset.mgmt with sealCount := s.mgmt.sealCount, versions := s.mgmt.versions }
        let down : Mgmt := { m with booted := false, shipped := false }
        (s.freeBit = false → t.groups = [] ∧ t.errLog = [] ∧ t.mgmt = { down with power := 3, failures := [1] }) ∧
        (s.freeBit = true → (s.useFree 1).freeBit = false → t.groups = [] ∧ t.mgmt = { down with failures := [2] } ∧
          ∃ r, t.errLog = [r] ∧ r.cause = deviceCause 3 ∧ r.part = 0 ∧ r.world = 0) ∧
        (s.freeBit = true → (s.useFree 1).freeBit = true → t.groups = firmwareGroups s.stamp 0 0 ∧ t.errLog = [] ∧ t.mgmt = m)) ∧
       (∀ c ∈ t.ctxs, c.st = .sealedImg ∧ (Store.get? s.mgmt.versions c.id).isSome = true ∧ ∃ d ∈ s.ctxs, d.id = c.id ∧ d.part = c.part ∧
         d.world = c.world ∧ d.region = c.region ∧ d.pasid = c.pasid) ∧
       ∀ d ∈ s.ctxs, (Store.get? s.mgmt.versions d.id).isSome = true → ∃ c ∈ t.ctxs, c.id = d.id
     boots .deviceReset (fun _ => True) true ∧ boots .powerOn (fun a => hostBase ≤ a) true ∧ boots .powerRemoval (fun a => hostBase ≤ a) false) ∧
    -- GET_MEASUREMENTS, CHALLENGE, KEY_EXCHANGE
    (∀ index, Happens (.getMeasurements index) s fun t => { t with mgmt := s.mgmt, agenda := s.agenda } = s ∧
      t.mgmt = { s.mgmt with spdm := if 1 ≤ index ∧ index ≤ 5 then (List.range 8).map fun w => s.measurement index w else [] }) ∧
    (∀ nonce : BitVec 256, Happens (.challenge nonce) s fun t => t.mgmt.spdm.length = 12 ∧
      t.mgmt.spdm.take 4 = (List.range 4).map fun k => word (nonce.toNat / 2 ^ (64 * k) % 2 ^ 64)) ∧
    (∀ peer, Happens (.keyExchange peer) s fun t => t.mgmt.sessions = s.mgmt.sessions ++ [peer] ∧ t.mgmt.spdm.length = 1) ∧
    -- READBACK_READ, READBACK_WRITE
    (∀ agent,
      let r := s.rb agent
      let kind := bitsOf r.addr.toNat 63 56
      let unit := bitsOf r.addr.toNat 55 40
      let cls := bitsOf r.addr.toNat 39 32
      let n := r.addr.toNat % 2 ^ 32
      let g := s.grp unit
      let answers (st paid : Nat) (v : Word) : Prop := Happens (.readbackRead agent) s fun t =>
        { t with readback := s.readback, ports := s.ports, free := s.free, agenda := s.agenda } = s ∧
        ∀ k, t.rb k = if k = agent then { r with status := st, paid := paid, data := v } else s.rb k
      -- Its context's own request lets a curator see a confidential one
      let denied : Prop := g.world ≠ 0 ∧ ¬(agent = 2 ∧ s.asks g.part g.world = true)
      let paid := if g.drowsy = true then 24 else 0
      (agent ≥ 3 → exec (.readbackRead agent) s = .next s ∧ ∀ v, exec (.readbackWrite agent v) s = .next s) ∧
      (agent < 3 →
        (kind ∉ [0x01, 0x02, 0x03, 0x04, 0x05, 0x06, 0x07, 0x08, 0x10, 0x11, 0x12] → answers 2 0 0) ∧
        (kind = 1 → s.hasGrp unit = false → answers 2 0 0) ∧
        (kind = 1 → s.hasGrp unit = true → denied → answers 4 0 0) ∧
        (kind = 1 → s.hasGrp unit = true → ¬denied →
          (g.byFirmware = true → cls = 1 → n < 32 → answers 0 paid s.freeWord) ∧
          (g.byFirmware = false →
            (cls = 0 → n / 32 < 208 → n / 32 < g.alloc → answers 0 paid ((g.regVal (0x30 + n / 32)).at (n % 32))) ∧
            (cls = 1 → n < 32 → answers 0 paid (g.sval n)) ∧
            (cls = 3 → n < 8 → answers 0 0 (word (g.pred n).toNat))) ∧
          (cls = 0 → n / 32 < 208 → g.alloc ≤ n / 32 → answers 1 0 0) ∧
          (cls ∈ [1, 3] → n ≥ 32 → answers 3 0 0)) ∧
        (kind = 2 → unit < 768 → cls = 0 → n = 0 → answers 0 0 (word (Store.getOr s.mm.quadAssign unit 0).toNat)) ∧
        (kind = 0x11 → unit = 0 → cls = 2 → n = 2 → answers 0 0 (word s.mgmt.sealCount)) ∧
        ∀ v : BitVec 64,
          let outcome (t : State) (st : Nat) : Prop := ∀ k, t.rb k = if k = agent then { r with status := st, paid := 0 } else s.rb k
          let refuses (st : Nat) : Prop := Happens (.readbackWrite agent v) s fun t =>
            { t with readback := s.readback, agenda := s.agenda } = s ∧ outcome t st
          (kind = 1 → s.hasGrp unit = false → refuses 2) ∧
          (kind = 1 → s.hasGrp unit = true → g.world ≠ 0 → refuses 4) ∧
          (kind = 1 → s.hasGrp unit = true → g.world = 0 → g.held = false ∨ g.byFirmware = true → refuses 5) ∧
          (kind = 1 → s.hasGrp unit = true → g.world = 0 → g.held = true → g.byFirmware = false →
            (cls ∉ [0, 1, 2, 3, 10] → refuses 5) ∧
            (cls = 3 → n < 8 → Happens (.readbackWrite agent v) s fun t => outcome t 0 ∧ (∀ u, u ≠ unit → t.grp u = s.grp u) ∧
              { t.grp unit with preds := g.preds } = g ∧ ∀ k, (t.grp unit).pred k = if k = n then v.setWidth 32 else g.pred k) ∧
            (cls = 1 → n < 32 → (g.regState (0x10 + n)).isPending = false → Happens (.readbackWrite agent v) s fun t => outcome t 0 ∧
              (∀ u, u ≠ unit → t.grp u = s.grp u) ∧ { t.grp unit with sregs := g.sregs } = g ∧ (t.grp unit).sval n = v ∧
              (t.grp unit).regState (0x10 + n) = .full)) ∧
          (kind = 0x10 → unit = 0 → cls = 0 → ∀ c, s.ctx? n = some c →
            (c.world ≠ 0 → refuses 4) ∧
            (c.world = 0 → Happens (.readbackWrite agent v) s fun t => outcome t 0 ∧ t.ctx? n = some { c with debugStop := v.getLsbD 0 })) ∧
          (kind ∉ [0x01, 0x10] → (s.rbRead agent kind unit cls n).st ≠ .denied → refuses 5))) ∧
    -- DEBUG_STOP_ARM, DEBUG_RELEASE: ignored for a confidential context
    ∀ ctx,
      let world := ((s.ctx? ctx).map (·.world)).getD 0
      (world ≠ 0 → (∀ arm, exec (.debugStopArm ctx arm) s = .next s) ∧ exec (.debugRelease ctx) s = .next s) ∧
      (world = 0 →
        (∀ arm, Happens (.debugStopArm ctx arm) s fun t => { t with ctxs := s.ctxs } = s ∧
          ∀ k, t.ctx? k = (s.ctx? k).map fun c => if k = ctx then { c with debugStop := arm } else c) ∧
        Happens (.debugRelease ctx) s fun t => { t with groups := s.groups, agenda := s.agenda } = s ∧ ∀ u, t.grp u =
          match (s.grp u).st with
          | .stopped true =>
            if (s.grp u).ctx = ctx ∧ s.hasGrp u = true then { s.grp u with st := .active, setSince := s.cyc, xfer := s.stamp } else s.grp u
          | .stopped false =>
            if (s.grp u).ctx = ctx ∧ s.hasGrp u = true then { s.grp u with st := .pending, setSince := s.cyc, readySince := none } else s.grp u
          | _ => s.grp u)
end

