-- ==== Sys2Proof/Laws/Entry.lean ====
section
/-!
SUPPORT. Entry.lean: every instruction's meaning is its entry's checks and then its own effect.
-/
namespace Sys2Proof.Laws

open Sys2Proof.Machine

/-- An instruction with an entry enters through the checks of that entry. -/
theorem exec_eq_run (i : Instr) (s : State) (e : Info) (h : entryOf i s = some e) : ∃ body, exec i s = run e s body := by
  cases i
  all_goals first
    | (injection h with h; subst h; exact ⟨_, rfl⟩)
    | (exact absurd h (by intro h; cases h))

end Sys2Proof.Laws
end

