-- ==== Sys2Proof/Laws/State.lean ====
section
/-!
SUPPORT. State.lean: what the named updates of a state and of a group leave as it was, one lemma for each field.
-/
namespace Sys2Proof.Machine

/-! ### State.schedule -/

@[simp] theorem State.schedule_cyc (s : State) (n : Nat) (e : Instr) : (s.schedule n e).cyc = s.cyc := rfl
@[simp] theorem State.schedule_powered (s : State) (n : Nat) (e : Instr) : (s.schedule n e).powered = s.powered := rfl
@[simp] theorem State.schedule_free (s : State) (n : Nat) (e : Instr) : (s.schedule n e).free = s.free := rfl
@[simp] theorem State.schedule_stamp (s : State) (n : Nat) (e : Instr) : (s.schedule n e).stamp = s.stamp := rfl
@[simp] theorem State.schedule_cur (s : State) (n : Nat) (e : Instr) : (s.schedule n e).cur = s.cur := rfl
@[simp] theorem State.schedule_groups (s : State) (n : Nat) (e : Instr) : (s.schedule n e).groups = s.groups := rfl
@[simp] theorem State.schedule_mm (s : State) (n : Nat) (e : Instr) : (s.schedule n e).mm = s.mm := rfl
@[simp] theorem State.schedule_ctxs (s : State) (n : Nat) (e : Instr) : (s.schedule n e).ctxs = s.ctxs := rfl
@[simp] theorem State.schedule_kernels (s : State) (n : Nat) (e : Instr) : (s.schedule n e).kernels = s.kernels := rfl
@[simp] theorem State.schedule_blocks (s : State) (n : Nat) (e : Instr) : (s.schedule n e).blocks = s.blocks := rfl
@[simp] theorem State.schedule_ops (s : State) (n : Nat) (e : Instr) : (s.schedule n e).ops = s.ops := rfl
@[simp] theorem State.schedule_parts (s : State) (n : Nat) (e : Instr) : (s.schedule n e).parts = s.parts := rfl
@[simp] theorem State.schedule_filing (s : State) (n : Nat) (e : Instr) : (s.schedule n e).filing = s.filing := rfl
@[simp] theorem State.schedule_resuming (s : State) (n : Nat) (e : Instr) : (s.schedule n e).resuming = s.resuming := rfl
@[simp] theorem State.schedule_mail (s : State) (n : Nat) (e : Instr) : (s.schedule n e).mail = s.mail := rfl
@[simp] theorem State.schedule_mailGen (s : State) (n : Nat) (e : Instr) : (s.schedule n e).mailGen = s.mailGen := rfl
@[simp] theorem State.schedule_sgh (s : State) (n : Nat) (e : Instr) : (s.schedule n e).sgh = s.sgh := rfl
@[simp] theorem State.schedule_devno (s : State) (n : Nat) (e : Instr) : (s.schedule n e).devno = s.devno := rfl
@[simp] theorem State.schedule_ports (s : State) (n : Nat) (e : Instr) : (s.schedule n e).ports = s.ports := rfl
@[simp] theorem State.schedule_routes (s : State) (n : Nat) (e : Instr) : (s.schedule n e).routes = s.routes := rfl
@[simp] theorem State.schedule_inbound (s : State) (n : Nat) (e : Instr) : (s.schedule n e).inbound = s.inbound := rfl
@[simp] theorem State.schedule_errLog (s : State) (n : Nat) (e : Instr) : (s.schedule n e).errLog = s.errLog := rfl
@[simp] theorem State.schedule_errSeq (s : State) (n : Nat) (e : Instr) : (s.schedule n e).errSeq = s.errSeq := rfl
@[simp] theorem State.schedule_mx (s : State) (n : Nat) (e : Instr) : (s.schedule n e).mx = s.mx := rfl
@[simp] theorem State.schedule_gangs (s : State) (n : Nat) (e : Instr) : (s.schedule n e).gangs = s.gangs := rfl
@[simp] theorem State.schedule_queues (s : State) (n : Nat) (e : Instr) : (s.schedule n e).queues = s.queues := rfl
@[simp] theorem State.schedule_qreqs (s : State) (n : Nat) (e : Instr) : (s.schedule n e).qreqs = s.qreqs := rfl
@[simp] theorem State.schedule_qanswers (s : State) (n : Nat) (e : Instr) : (s.schedule n e).qanswers = s.qanswers := rfl
@[simp] theorem State.schedule_treqs (s : State) (n : Nat) (e : Instr) : (s.schedule n e).treqs = s.treqs := rfl
@[simp] theorem State.schedule_tanswers (s : State) (n : Nat) (e : Instr) : (s.schedule n e).tanswers = s.tanswers := rfl
@[simp] theorem State.schedule_oldBuckets (s : State) (n : Nat) (e : Instr) : (s.schedule n e).oldBuckets = s.oldBuckets := rfl
@[simp] theorem State.schedule_qis (s : State) (n : Nat) (e : Instr) : (s.schedule n e).qis = s.qis := rfl
@[simp] theorem State.schedule_packets (s : State) (n : Nat) (e : Instr) : (s.schedule n e).packets = s.packets := rfl
@[simp] theorem State.schedule_irtes (s : State) (n : Nat) (e : Instr) : (s.schedule n e).irtes = s.irtes := rfl
@[simp] theorem State.schedule_msix (s : State) (n : Nat) (e : Instr) : (s.schedule n e).msix = s.msix := rfl
@[simp] theorem State.schedule_tdisp (s : State) (n : Nat) (e : Instr) : (s.schedule n e).tdisp = s.tdisp := rfl
@[simp] theorem State.schedule_messages (s : State) (n : Nat) (e : Instr) : (s.schedule n e).messages = s.messages := rfl
@[simp] theorem State.schedule_readback (s : State) (n : Nat) (e : Instr) : (s.schedule n e).readback = s.readback := rfl
@[simp] theorem State.schedule_savedSelect (s : State) (n : Nat) (e : Instr) : (s.schedule n e).savedSelect = s.savedSelect := rfl
@[simp] theorem State.schedule_invals (s : State) (n : Nat) (e : Instr) : (s.schedule n e).invals = s.invals := rfl
@[simp] theorem State.schedule_ctxOps (s : State) (n : Nat) (e : Instr) : (s.schedule n e).ctxOps = s.ctxOps := rfl
@[simp] theorem State.schedule_images (s : State) (n : Nat) (e : Instr) : (s.schedule n e).images = s.images := rfl
@[simp] theorem State.schedule_mgmt (s : State) (n : Nat) (e : Instr) : (s.schedule n e).mgmt = s.mgmt := rfl
@[simp] theorem State.schedule_peerAnswer (s : State) (n : Nat) (e : Instr) : (s.schedule n e).peerAnswer = s.peerAnswer := rfl
@[simp] theorem State.schedule_nodeCache (s : State) (n : Nat) (e : Instr) : (s.schedule n e).nodeCache = s.nodeCache := rfl

/-! ### State.tick -/

@[simp] theorem State.tick_cyc (s : State) : (s.tick).cyc = s.cyc := rfl
@[simp] theorem State.tick_powered (s : State) : (s.tick).powered = s.powered := rfl
@[simp] theorem State.tick_free (s : State) : (s.tick).free = s.free := rfl
@[simp] theorem State.tick_agenda (s : State) : (s.tick).agenda = s.agenda := rfl
@[simp] theorem State.tick_cur (s : State) : (s.tick).cur = s.cur := rfl
@[simp] theorem State.tick_groups (s : State) : (s.tick).groups = s.groups := rfl
@[simp] theorem State.tick_mm (s : State) : (s.tick).mm = s.mm := rfl
@[simp] theorem State.tick_ctxs (s : State) : (s.tick).ctxs = s.ctxs := rfl
@[simp] theorem State.tick_kernels (s : State) : (s.tick).kernels = s.kernels := rfl
@[simp] theorem State.tick_blocks (s : State) : (s.tick).blocks = s.blocks := rfl
@[simp] theorem State.tick_ops (s : State) : (s.tick).ops = s.ops := rfl
@[simp] theorem State.tick_parts (s : State) : (s.tick).parts = s.parts := rfl
@[simp] theorem State.tick_filing (s : State) : (s.tick).filing = s.filing := rfl
@[simp] theorem State.tick_resuming (s : State) : (s.tick).resuming = s.resuming := rfl
@[simp] theorem State.tick_mail (s : State) : (s.tick).mail = s.mail := rfl
@[simp] theorem State.tick_mailGen (s : State) : (s.tick).mailGen = s.mailGen := rfl
@[simp] theorem State.tick_sgh (s : State) : (s.tick).sgh = s.sgh := rfl
@[simp] theorem State.tick_devno (s : State) : (s.tick).devno = s.devno := rfl
@[simp] theorem State.tick_ports (s : State) : (s.tick).ports = s.ports := rfl
@[simp] theorem State.tick_routes (s : State) : (s.tick).routes = s.routes := rfl
@[simp] theorem State.tick_inbound (s : State) : (s.tick).inbound = s.inbound := rfl
@[simp] theorem State.tick_errLog (s : State) : (s.tick).errLog = s.errLog := rfl
@[simp] theorem State.tick_errSeq (s : State) : (s.tick).errSeq = s.errSeq := rfl
@[simp] theorem State.tick_mx (s : State) : (s.tick).mx = s.mx := rfl
@[simp] theorem State.tick_gangs (s : State) : (s.tick).gangs = s.gangs := rfl
@[simp] theorem State.tick_queues (s : State) : (s.tick).queues = s.queues := rfl
@[simp] theorem State.tick_qreqs (s : State) : (s.tick).qreqs = s.qreqs := rfl
@[simp] theorem State.tick_qanswers (s : State) : (s.tick).qanswers = s.qanswers := rfl
@[simp] theorem State.tick_treqs (s : State) : (s.tick).treqs = s.treqs := rfl
@[simp] theorem State.tick_tanswers (s : State) : (s.tick).tanswers = s.tanswers := rfl
@[simp] theorem State.tick_oldBuckets (s : State) : (s.tick).oldBuckets = s.oldBuckets := rfl
@[simp] theorem State.tick_qis (s : State) : (s.tick).qis = s.qis := rfl
@[simp] theorem State.tick_packets (s : State) : (s.tick).packets = s.packets := rfl
@[simp] theorem State.tick_irtes (s : State) : (s.tick).irtes = s.irtes := rfl
@[simp] theorem State.tick_msix (s : State) : (s.tick).msix = s.msix := rfl
@[simp] theorem State.tick_tdisp (s : State) : (s.tick).tdisp = s.tdisp := rfl
@[simp] theorem State.tick_messages (s : State) : (s.tick).messages = s.messages := rfl
@[simp] theorem State.tick_readback (s : State) : (s.tick).readback = s.readback := rfl
@[simp] theorem State.tick_savedSelect (s : State) : (s.tick).savedSelect = s.savedSelect := rfl
@[simp] theorem State.tick_invals (s : State) : (s.tick).invals = s.invals := rfl
@[simp] theorem State.tick_ctxOps (s : State) : (s.tick).ctxOps = s.ctxOps := rfl
@[simp] theorem State.tick_images (s : State) : (s.tick).images = s.images := rfl
@[simp] theorem State.tick_mgmt (s : State) : (s.tick).mgmt = s.mgmt := rfl
@[simp] theorem State.tick_peerAnswer (s : State) : (s.tick).peerAnswer = s.peerAnswer := rfl
@[simp] theorem State.tick_nodeCache (s : State) : (s.tick).nodeCache = s.nodeCache := rfl

/-! ### State.useFree -/

@[simp] theorem State.useFree_cyc (s : State) (n : Nat) : (s.useFree n).cyc = s.cyc := rfl
@[simp] theorem State.useFree_powered (s : State) (n : Nat) : (s.useFree n).powered = s.powered := rfl
@[simp] theorem State.useFree_stamp (s : State) (n : Nat) : (s.useFree n).stamp = s.stamp := rfl
@[simp] theorem State.useFree_agenda (s : State) (n : Nat) : (s.useFree n).agenda = s.agenda := rfl
@[simp] theorem State.useFree_cur (s : State) (n : Nat) : (s.useFree n).cur = s.cur := rfl
@[simp] theorem State.useFree_groups (s : State) (n : Nat) : (s.useFree n).groups = s.groups := rfl
@[simp] theorem State.useFree_mm (s : State) (n : Nat) : (s.useFree n).mm = s.mm := rfl
@[simp] theorem State.useFree_ctxs (s : State) (n : Nat) : (s.useFree n).ctxs = s.ctxs := rfl
@[simp] theorem State.useFree_kernels (s : State) (n : Nat) : (s.useFree n).kernels = s.kernels := rfl
@[simp] theorem State.useFree_blocks (s : State) (n : Nat) : (s.useFree n).blocks = s.blocks := rfl
@[simp] theorem State.useFree_ops (s : State) (n : Nat) : (s.useFree n).ops = s.ops := rfl
@[simp] theorem State.useFree_parts (s : State) (n : Nat) : (s.useFree n).parts = s.parts := rfl
@[simp] theorem State.useFree_filing (s : State) (n : Nat) : (s.useFree n).filing = s.filing := rfl
@[simp] theorem State.useFree_resuming (s : State) (n : Nat) : (s.useFree n).resuming = s.resuming := rfl
@[simp] theorem State.useFree_mail (s : State) (n : Nat) : (s.useFree n).mail = s.mail := rfl
@[simp] theorem State.useFree_mailGen (s : State) (n : Nat) : (s.useFree n).mailGen = s.mailGen := rfl
@[simp] theorem State.useFree_sgh (s : State) (n : Nat) : (s.useFree n).sgh = s.sgh := rfl
@[simp] theorem State.useFree_devno (s : State) (n : Nat) : (s.useFree n).devno = s.devno := rfl
@[simp] theorem State.useFree_ports (s : State) (n : Nat) : (s.useFree n).ports = s.ports := rfl
@[simp] theorem State.useFree_routes (s : State) (n : Nat) : (s.useFree n).routes = s.routes := rfl
@[simp] theorem State.useFree_inbound (s : State) (n : Nat) : (s.useFree n).inbound = s.inbound := rfl
@[simp] theorem State.useFree_errLog (s : State) (n : Nat) : (s.useFree n).errLog = s.errLog := rfl
@[simp] theorem State.useFree_errSeq (s : State) (n : Nat) : (s.useFree n).errSeq = s.errSeq := rfl
@[simp] theorem State.useFree_mx (s : State) (n : Nat) : (s.useFree n).mx = s.mx := rfl
@[simp] theorem State.useFree_gangs (s : State) (n : Nat) : (s.useFree n).gangs = s.gangs := rfl
@[simp] theorem State.useFree_queues (s : State) (n : Nat) : (s.useFree n).queues = s.queues := rfl
@[simp] theorem State.useFree_qreqs (s : State) (n : Nat) : (s.useFree n).qreqs = s.qreqs := rfl
@[simp] theorem State.useFree_qanswers (s : State) (n : Nat) : (s.useFree n).qanswers = s.qanswers := rfl
@[simp] theorem State.useFree_treqs (s : State) (n : Nat) : (s.useFree n).treqs = s.treqs := rfl
@[simp] theorem State.useFree_tanswers (s : State) (n : Nat) : (s.useFree n).tanswers = s.tanswers := rfl
@[simp] theorem State.useFree_oldBuckets (s : State) (n : Nat) : (s.useFree n).oldBuckets = s.oldBuckets := rfl
@[simp] theorem State.useFree_qis (s : State) (n : Nat) : (s.useFree n).qis = s.qis := rfl
@[simp] theorem State.useFree_packets (s : State) (n : Nat) : (s.useFree n).packets = s.packets := rfl
@[simp] theorem State.useFree_irtes (s : State) (n : Nat) : (s.useFree n).irtes = s.irtes := rfl
@[simp] theorem State.useFree_msix (s : State) (n : Nat) : (s.useFree n).msix = s.msix := rfl
@[simp] theorem State.useFree_tdisp (s : State) (n : Nat) : (s.useFree n).tdisp = s.tdisp := rfl
@[simp] theorem State.useFree_messages (s : State) (n : Nat) : (s.useFree n).messages = s.messages := rfl
@[simp] theorem State.useFree_readback (s : State) (n : Nat) : (s.useFree n).readback = s.readback := rfl
@[simp] theorem State.useFree_savedSelect (s : State) (n : Nat) : (s.useFree n).savedSelect = s.savedSelect := rfl
@[simp] theorem State.useFree_invals (s : State) (n : Nat) : (s.useFree n).invals = s.invals := rfl
@[simp] theorem State.useFree_ctxOps (s : State) (n : Nat) : (s.useFree n).ctxOps = s.ctxOps := rfl
@[simp] theorem State.useFree_images (s : State) (n : Nat) : (s.useFree n).images = s.images := rfl
@[simp] theorem State.useFree_mgmt (s : State) (n : Nat) : (s.useFree n).mgmt = s.mgmt := rfl
@[simp] theorem State.useFree_peerAnswer (s : State) (n : Nat) : (s.useFree n).peerAnswer = s.peerAnswer := rfl
@[simp] theorem State.useFree_nodeCache (s : State) (n : Nat) : (s.useFree n).nodeCache = s.nodeCache := rfl

/-! ### State.spend -/

@[simp] theorem State.spend_powered (s : State) (n : Nat) : (s.spend n).powered = s.powered := rfl
@[simp] theorem State.spend_free (s : State) (n : Nat) : (s.spend n).free = s.free := rfl
@[simp] theorem State.spend_stamp (s : State) (n : Nat) : (s.spend n).stamp = s.stamp := rfl
@[simp] theorem State.spend_agenda (s : State) (n : Nat) : (s.spend n).agenda = s.agenda := rfl
@[simp] theorem State.spend_cur (s : State) (n : Nat) : (s.spend n).cur = s.cur := rfl
@[simp] theorem State.spend_groups (s : State) (n : Nat) : (s.spend n).groups = s.groups := rfl
@[simp] theorem State.spend_mm (s : State) (n : Nat) : (s.spend n).mm = s.mm := rfl
@[simp] theorem State.spend_ctxs (s : State) (n : Nat) : (s.spend n).ctxs = s.ctxs := rfl
@[simp] theorem State.spend_kernels (s : State) (n : Nat) : (s.spend n).kernels = s.kernels := rfl
@[simp] theorem State.spend_blocks (s : State) (n : Nat) : (s.spend n).blocks = s.blocks := rfl
@[simp] theorem State.spend_ops (s : State) (n : Nat) : (s.spend n).ops = s.ops := rfl
@[simp] theorem State.spend_parts (s : State) (n : Nat) : (s.spend n).parts = s.parts := rfl
@[simp] theorem State.spend_filing (s : State) (n : Nat) : (s.spend n).filing = s.filing := rfl
@[simp] theorem State.spend_resuming (s : State) (n : Nat) : (s.spend n).resuming = s.resuming := rfl
@[simp] theorem State.spend_mail (s : State) (n : Nat) : (s.spend n).mail = s.mail := rfl
@[simp] theorem State.spend_mailGen (s : State) (n : Nat) : (s.spend n).mailGen = s.mailGen := rfl
@[simp] theorem State.spend_sgh (s : State) (n : Nat) : (s.spend n).sgh = s.sgh := rfl
@[simp] theorem State.spend_devno (s : State) (n : Nat) : (s.spend n).devno = s.devno := rfl
@[simp] theorem State.spend_ports (s : State) (n : Nat) : (s.spend n).ports = s.ports := rfl
@[simp] theorem State.spend_routes (s : State) (n : Nat) : (s.spend n).routes = s.routes := rfl
@[simp] theorem State.spend_inbound (s : State) (n : Nat) : (s.spend n).inbound = s.inbound := rfl
@[simp] theorem State.spend_errLog (s : State) (n : Nat) : (s.spend n).errLog = s.errLog := rfl
@[simp] theorem State.spend_errSeq (s : State) (n : Nat) : (s.spend n).errSeq = s.errSeq := rfl
@[simp] theorem State.spend_mx (s : State) (n : Nat) : (s.spend n).mx = s.mx := rfl
@[simp] theorem State.spend_gangs (s : State) (n : Nat) : (s.spend n).gangs = s.gangs := rfl
@[simp] theorem State.spend_queues (s : State) (n : Nat) : (s.spend n).queues = s.queues := rfl
@[simp] theorem State.spend_qreqs (s : State) (n : Nat) : (s.spend n).qreqs = s.qreqs := rfl
@[simp] theorem State.spend_qanswers (s : State) (n : Nat) : (s.spend n).qanswers = s.qanswers := rfl
@[simp] theorem State.spend_treqs (s : State) (n : Nat) : (s.spend n).treqs = s.treqs := rfl
@[simp] theorem State.spend_tanswers (s : State) (n : Nat) : (s.spend n).tanswers = s.tanswers := rfl
@[simp] theorem State.spend_oldBuckets (s : State) (n : Nat) : (s.spend n).oldBuckets = s.oldBuckets := rfl
@[simp] theorem State.spend_qis (s : State) (n : Nat) : (s.spend n).qis = s.qis := rfl
@[simp] theorem State.spend_packets (s : State) (n : Nat) : (s.spend n).packets = s.packets := rfl
@[simp] theorem State.spend_irtes (s : State) (n : Nat) : (s.spend n).irtes = s.irtes := rfl
@[simp] theorem State.spend_msix (s : State) (n : Nat) : (s.spend n).msix = s.msix := rfl
@[simp] theorem State.spend_tdisp (s : State) (n : Nat) : (s.spend n).tdisp = s.tdisp := rfl
@[simp] theorem State.spend_messages (s : State) (n : Nat) : (s.spend n).messages = s.messages := rfl
@[simp] theorem State.spend_readback (s : State) (n : Nat) : (s.spend n).readback = s.readback := rfl
@[simp] theorem State.spend_savedSelect (s : State) (n : Nat) : (s.spend n).savedSelect = s.savedSelect := rfl
@[simp] theorem State.spend_invals (s : State) (n : Nat) : (s.spend n).invals = s.invals := rfl
@[simp] theorem State.spend_ctxOps (s : State) (n : Nat) : (s.spend n).ctxOps = s.ctxOps := rfl
@[simp] theorem State.spend_images (s : State) (n : Nat) : (s.spend n).images = s.images := rfl
@[simp] theorem State.spend_mgmt (s : State) (n : Nat) : (s.spend n).mgmt = s.mgmt := rfl
@[simp] theorem State.spend_peerAnswer (s : State) (n : Nat) : (s.spend n).peerAnswer = s.peerAnswer := rfl
@[simp] theorem State.spend_nodeCache (s : State) (n : Nat) : (s.spend n).nodeCache = s.nodeCache := rfl

/-! ### State.modGrp -/

@[simp] theorem State.modGrp_cyc (s : State) (u : Nat) (f : Group → Group) : (s.modGrp u f).cyc = s.cyc := rfl
@[simp] theorem State.modGrp_powered (s : State) (u : Nat) (f : Group → Group) : (s.modGrp u f).powered = s.powered := rfl
@[simp] theorem State.modGrp_free (s : State) (u : Nat) (f : Group → Group) : (s.modGrp u f).free = s.free := rfl
@[simp] theorem State.modGrp_stamp (s : State) (u : Nat) (f : Group → Group) : (s.modGrp u f).stamp = s.stamp := rfl
@[simp] theorem State.modGrp_agenda (s : State) (u : Nat) (f : Group → Group) : (s.modGrp u f).agenda = s.agenda := rfl
@[simp] theorem State.modGrp_cur (s : State) (u : Nat) (f : Group → Group) : (s.modGrp u f).cur = s.cur := rfl
@[simp] theorem State.modGrp_mm (s : State) (u : Nat) (f : Group → Group) : (s.modGrp u f).mm = s.mm := rfl
@[simp] theorem State.modGrp_ctxs (s : State) (u : Nat) (f : Group → Group) : (s.modGrp u f).ctxs = s.ctxs := rfl
@[simp] theorem State.modGrp_kernels (s : State) (u : Nat) (f : Group → Group) : (s.modGrp u f).kernels = s.kernels := rfl
@[simp] theorem State.modGrp_blocks (s : State) (u : Nat) (f : Group → Group) : (s.modGrp u f).blocks = s.blocks := rfl
@[simp] theorem State.modGrp_ops (s : State) (u : Nat) (f : Group → Group) : (s.modGrp u f).ops = s.ops := rfl
@[simp] theorem State.modGrp_parts (s : State) (u : Nat) (f : Group → Group) : (s.modGrp u f).parts = s.parts := rfl
@[simp] theorem State.modGrp_filing (s : State) (u : Nat) (f : Group → Group) : (s.modGrp u f).filing = s.filing := rfl
@[simp] theorem State.modGrp_resuming (s : State) (u : Nat) (f : Group → Group) : (s.modGrp u f).resuming = s.resuming := rfl
@[simp] theorem State.modGrp_mail (s : State) (u : Nat) (f : Group → Group) : (s.modGrp u f).mail = s.mail := rfl
@[simp] theorem State.modGrp_mailGen (s : State) (u : Nat) (f : Group → Group) : (s.modGrp u f).mailGen = s.mailGen := rfl
@[simp] theorem State.modGrp_sgh (s : State) (u : Nat) (f : Group → Group) : (s.modGrp u f).sgh = s.sgh := rfl
@[simp] theorem State.modGrp_devno (s : State) (u : Nat) (f : Group → Group) : (s.modGrp u f).devno = s.devno := rfl
@[simp] theorem State.modGrp_ports (s : State) (u : Nat) (f : Group → Group) : (s.modGrp u f).ports = s.ports := rfl
@[simp] theorem State.modGrp_routes (s : State) (u : Nat) (f : Group → Group) : (s.modGrp u f).routes = s.routes := rfl
@[simp] theorem State.modGrp_inbound (s : State) (u : Nat) (f : Group → Group) : (s.modGrp u f).inbound = s.inbound := rfl
@[simp] theorem State.modGrp_errLog (s : State) (u : Nat) (f : Group → Group) : (s.modGrp u f).errLog = s.errLog := rfl
@[simp] theorem State.modGrp_errSeq (s : State) (u : Nat) (f : Group → Group) : (s.modGrp u f).errSeq = s.errSeq := rfl
@[simp] theorem State.modGrp_mx (s : State) (u : Nat) (f : Group → Group) : (s.modGrp u f).mx = s.mx := rfl
@[simp] theorem State.modGrp_gangs (s : State) (u : Nat) (f : Group → Group) : (s.modGrp u f).gangs = s.gangs := rfl
@[simp] theorem State.modGrp_queues (s : State) (u : Nat) (f : Group → Group) : (s.modGrp u f).queues = s.queues := rfl
@[simp] theorem State.modGrp_qreqs (s : State) (u : Nat) (f : Group → Group) : (s.modGrp u f).qreqs = s.qreqs := rfl
@[simp] theorem State.modGrp_qanswers (s : State) (u : Nat) (f : Group → Group) : (s.modGrp u f).qanswers = s.qanswers := rfl
@[simp] theorem State.modGrp_treqs (s : State) (u : Nat) (f : Group → Group) : (s.modGrp u f).treqs = s.treqs := rfl
@[simp] theorem State.modGrp_tanswers (s : State) (u : Nat) (f : Group → Group) : (s.modGrp u f).tanswers = s.tanswers := rfl
@[simp] theorem State.modGrp_oldBuckets (s : State) (u : Nat) (f : Group → Group) : (s.modGrp u f).oldBuckets = s.oldBuckets := rfl
@[simp] theorem State.modGrp_qis (s : State) (u : Nat) (f : Group → Group) : (s.modGrp u f).qis = s.qis := rfl
@[simp] theorem State.modGrp_packets (s : State) (u : Nat) (f : Group → Group) : (s.modGrp u f).packets = s.packets := rfl
@[simp] theorem State.modGrp_irtes (s : State) (u : Nat) (f : Group → Group) : (s.modGrp u f).irtes = s.irtes := rfl
@[simp] theorem State.modGrp_msix (s : State) (u : Nat) (f : Group → Group) : (s.modGrp u f).msix = s.msix := rfl
@[simp] theorem State.modGrp_tdisp (s : State) (u : Nat) (f : Group → Group) : (s.modGrp u f).tdisp = s.tdisp := rfl
@[simp] theorem State.modGrp_messages (s : State) (u : Nat) (f : Group → Group) : (s.modGrp u f).messages = s.messages := rfl
@[simp] theorem State.modGrp_readback (s : State) (u : Nat) (f : Group → Group) : (s.modGrp u f).readback = s.readback := rfl
@[simp] theorem State.modGrp_savedSelect (s : State) (u : Nat) (f : Group → Group) : (s.modGrp u f).savedSelect = s.savedSelect := rfl
@[simp] theorem State.modGrp_invals (s : State) (u : Nat) (f : Group → Group) : (s.modGrp u f).invals = s.invals := rfl
@[simp] theorem State.modGrp_ctxOps (s : State) (u : Nat) (f : Group → Group) : (s.modGrp u f).ctxOps = s.ctxOps := rfl
@[simp] theorem State.modGrp_images (s : State) (u : Nat) (f : Group → Group) : (s.modGrp u f).images = s.images := rfl
@[simp] theorem State.modGrp_mgmt (s : State) (u : Nat) (f : Group → Group) : (s.modGrp u f).mgmt = s.mgmt := rfl
@[simp] theorem State.modGrp_peerAnswer (s : State) (u : Nat) (f : Group → Group) : (s.modGrp u f).peerAnswer = s.peerAnswer := rfl
@[simp] theorem State.modGrp_nodeCache (s : State) (u : Nat) (f : Group → Group) : (s.modGrp u f).nodeCache = s.nodeCache := rfl

/-! ### State.modG -/

@[simp] theorem State.modG_cyc (s : State) (f : Group → Group) : (s.modG f).cyc = s.cyc := rfl
@[simp] theorem State.modG_powered (s : State) (f : Group → Group) : (s.modG f).powered = s.powered := rfl
@[simp] theorem State.modG_free (s : State) (f : Group → Group) : (s.modG f).free = s.free := rfl
@[simp] theorem State.modG_stamp (s : State) (f : Group → Group) : (s.modG f).stamp = s.stamp := rfl
@[simp] theorem State.modG_agenda (s : State) (f : Group → Group) : (s.modG f).agenda = s.agenda := rfl
@[simp] theorem State.modG_cur (s : State) (f : Group → Group) : (s.modG f).cur = s.cur := rfl
@[simp] theorem State.modG_mm (s : State) (f : Group → Group) : (s.modG f).mm = s.mm := rfl
@[simp] theorem State.modG_ctxs (s : State) (f : Group → Group) : (s.modG f).ctxs = s.ctxs := rfl
@[simp] theorem State.modG_kernels (s : State) (f : Group → Group) : (s.modG f).kernels = s.kernels := rfl
@[simp] theorem State.modG_blocks (s : State) (f : Group → Group) : (s.modG f).blocks = s.blocks := rfl
@[simp] theorem State.modG_ops (s : State) (f : Group → Group) : (s.modG f).ops = s.ops := rfl
@[simp] theorem State.modG_parts (s : State) (f : Group → Group) : (s.modG f).parts = s.parts := rfl
@[simp] theorem State.modG_filing (s : State) (f : Group → Group) : (s.modG f).filing = s.filing := rfl
@[simp] theorem State.modG_resuming (s : State) (f : Group → Group) : (s.modG f).resuming = s.resuming := rfl
@[simp] theorem State.modG_mail (s : State) (f : Group → Group) : (s.modG f).mail = s.mail := rfl
@[simp] theorem State.modG_mailGen (s : State) (f : Group → Group) : (s.modG f).mailGen = s.mailGen := rfl
@[simp] theorem State.modG_sgh (s : State) (f : Group → Group) : (s.modG f).sgh = s.sgh := rfl
@[simp] theorem State.modG_devno (s : State) (f : Group → Group) : (s.modG f).devno = s.devno := rfl
@[simp] theorem State.modG_ports (s : State) (f : Group → Group) : (s.modG f).ports = s.ports := rfl
@[simp] theorem State.modG_routes (s : State) (f : Group → Group) : (s.modG f).routes = s.routes := rfl
@[simp] theorem State.modG_inbound (s : State) (f : Group → Group) : (s.modG f).inbound = s.inbound := rfl
@[simp] theorem State.modG_errLog (s : State) (f : Group → Group) : (s.modG f).errLog = s.errLog := rfl
@[simp] theorem State.modG_errSeq (s : State) (f : Group → Group) : (s.modG f).errSeq = s.errSeq := rfl
@[simp] theorem State.modG_mx (s : State) (f : Group → Group) : (s.modG f).mx = s.mx := rfl
@[simp] theorem State.modG_gangs (s : State) (f : Group → Group) : (s.modG f).gangs = s.gangs := rfl
@[simp] theorem State.modG_queues (s : State) (f : Group → Group) : (s.modG f).queues = s.queues := rfl
@[simp] theorem State.modG_qreqs (s : State) (f : Group → Group) : (s.modG f).qreqs = s.qreqs := rfl
@[simp] theorem State.modG_qanswers (s : State) (f : Group → Group) : (s.modG f).qanswers = s.qanswers := rfl
@[simp] theorem State.modG_treqs (s : State) (f : Group → Group) : (s.modG f).treqs = s.treqs := rfl
@[simp] theorem State.modG_tanswers (s : State) (f : Group → Group) : (s.modG f).tanswers = s.tanswers := rfl
@[simp] theorem State.modG_oldBuckets (s : State) (f : Group → Group) : (s.modG f).oldBuckets = s.oldBuckets := rfl
@[simp] theorem State.modG_qis (s : State) (f : Group → Group) : (s.modG f).qis = s.qis := rfl
@[simp] theorem State.modG_packets (s : State) (f : Group → Group) : (s.modG f).packets = s.packets := rfl
@[simp] theorem State.modG_irtes (s : State) (f : Group → Group) : (s.modG f).irtes = s.irtes := rfl
@[simp] theorem State.modG_msix (s : State) (f : Group → Group) : (s.modG f).msix = s.msix := rfl
@[simp] theorem State.modG_tdisp (s : State) (f : Group → Group) : (s.modG f).tdisp = s.tdisp := rfl
@[simp] theorem State.modG_messages (s : State) (f : Group → Group) : (s.modG f).messages = s.messages := rfl
@[simp] theorem State.modG_readback (s : State) (f : Group → Group) : (s.modG f).readback = s.readback := rfl
@[simp] theorem State.modG_savedSelect (s : State) (f : Group → Group) : (s.modG f).savedSelect = s.savedSelect := rfl
@[simp] theorem State.modG_invals (s : State) (f : Group → Group) : (s.modG f).invals = s.invals := rfl
@[simp] theorem State.modG_ctxOps (s : State) (f : Group → Group) : (s.modG f).ctxOps = s.ctxOps := rfl
@[simp] theorem State.modG_images (s : State) (f : Group → Group) : (s.modG f).images = s.images := rfl
@[simp] theorem State.modG_mgmt (s : State) (f : Group → Group) : (s.modG f).mgmt = s.mgmt := rfl
@[simp] theorem State.modG_peerAnswer (s : State) (f : Group → Group) : (s.modG f).peerAnswer = s.peerAnswer := rfl
@[simp] theorem State.modG_nodeCache (s : State) (f : Group → Group) : (s.modG f).nodeCache = s.nodeCache := rfl

/-! ### State.modP -/

@[simp] theorem State.modP_cyc (s : State) (f : Path → Path) : (s.modP f).cyc = s.cyc := rfl
@[simp] theorem State.modP_powered (s : State) (f : Path → Path) : (s.modP f).powered = s.powered := rfl
@[simp] theorem State.modP_free (s : State) (f : Path → Path) : (s.modP f).free = s.free := rfl
@[simp] theorem State.modP_stamp (s : State) (f : Path → Path) : (s.modP f).stamp = s.stamp := rfl
@[simp] theorem State.modP_agenda (s : State) (f : Path → Path) : (s.modP f).agenda = s.agenda := rfl
@[simp] theorem State.modP_cur (s : State) (f : Path → Path) : (s.modP f).cur = s.cur := rfl
@[simp] theorem State.modP_mm (s : State) (f : Path → Path) : (s.modP f).mm = s.mm := rfl
@[simp] theorem State.modP_ctxs (s : State) (f : Path → Path) : (s.modP f).ctxs = s.ctxs := rfl
@[simp] theorem State.modP_kernels (s : State) (f : Path → Path) : (s.modP f).kernels = s.kernels := rfl
@[simp] theorem State.modP_blocks (s : State) (f : Path → Path) : (s.modP f).blocks = s.blocks := rfl
@[simp] theorem State.modP_ops (s : State) (f : Path → Path) : (s.modP f).ops = s.ops := rfl
@[simp] theorem State.modP_parts (s : State) (f : Path → Path) : (s.modP f).parts = s.parts := rfl
@[simp] theorem State.modP_filing (s : State) (f : Path → Path) : (s.modP f).filing = s.filing := rfl
@[simp] theorem State.modP_resuming (s : State) (f : Path → Path) : (s.modP f).resuming = s.resuming := rfl
@[simp] theorem State.modP_mail (s : State) (f : Path → Path) : (s.modP f).mail = s.mail := rfl
@[simp] theorem State.modP_mailGen (s : State) (f : Path → Path) : (s.modP f).mailGen = s.mailGen := rfl
@[simp] theorem State.modP_sgh (s : State) (f : Path → Path) : (s.modP f).sgh = s.sgh := rfl
@[simp] theorem State.modP_devno (s : State) (f : Path → Path) : (s.modP f).devno = s.devno := rfl
@[simp] theorem State.modP_ports (s : State) (f : Path → Path) : (s.modP f).ports = s.ports := rfl
@[simp] theorem State.modP_routes (s : State) (f : Path → Path) : (s.modP f).routes = s.routes := rfl
@[simp] theorem State.modP_inbound (s : State) (f : Path → Path) : (s.modP f).inbound = s.inbound := rfl
@[simp] theorem State.modP_errLog (s : State) (f : Path → Path) : (s.modP f).errLog = s.errLog := rfl
@[simp] theorem State.modP_errSeq (s : State) (f : Path → Path) : (s.modP f).errSeq = s.errSeq := rfl
@[simp] theorem State.modP_mx (s : State) (f : Path → Path) : (s.modP f).mx = s.mx := rfl
@[simp] theorem State.modP_gangs (s : State) (f : Path → Path) : (s.modP f).gangs = s.gangs := rfl
@[simp] theorem State.modP_queues (s : State) (f : Path → Path) : (s.modP f).queues = s.queues := rfl
@[simp] theorem State.modP_qreqs (s : State) (f : Path → Path) : (s.modP f).qreqs = s.qreqs := rfl
@[simp] theorem State.modP_qanswers (s : State) (f : Path → Path) : (s.modP f).qanswers = s.qanswers := rfl
@[simp] theorem State.modP_treqs (s : State) (f : Path → Path) : (s.modP f).treqs = s.treqs := rfl
@[simp] theorem State.modP_tanswers (s : State) (f : Path → Path) : (s.modP f).tanswers = s.tanswers := rfl
@[simp] theorem State.modP_oldBuckets (s : State) (f : Path → Path) : (s.modP f).oldBuckets = s.oldBuckets := rfl
@[simp] theorem State.modP_qis (s : State) (f : Path → Path) : (s.modP f).qis = s.qis := rfl
@[simp] theorem State.modP_packets (s : State) (f : Path → Path) : (s.modP f).packets = s.packets := rfl
@[simp] theorem State.modP_irtes (s : State) (f : Path → Path) : (s.modP f).irtes = s.irtes := rfl
@[simp] theorem State.modP_msix (s : State) (f : Path → Path) : (s.modP f).msix = s.msix := rfl
@[simp] theorem State.modP_tdisp (s : State) (f : Path → Path) : (s.modP f).tdisp = s.tdisp := rfl
@[simp] theorem State.modP_messages (s : State) (f : Path → Path) : (s.modP f).messages = s.messages := rfl
@[simp] theorem State.modP_readback (s : State) (f : Path → Path) : (s.modP f).readback = s.readback := rfl
@[simp] theorem State.modP_savedSelect (s : State) (f : Path → Path) : (s.modP f).savedSelect = s.savedSelect := rfl
@[simp] theorem State.modP_invals (s : State) (f : Path → Path) : (s.modP f).invals = s.invals := rfl
@[simp] theorem State.modP_ctxOps (s : State) (f : Path → Path) : (s.modP f).ctxOps = s.ctxOps := rfl
@[simp] theorem State.modP_images (s : State) (f : Path → Path) : (s.modP f).images = s.images := rfl
@[simp] theorem State.modP_mgmt (s : State) (f : Path → Path) : (s.modP f).mgmt = s.mgmt := rfl
@[simp] theorem State.modP_peerAnswer (s : State) (f : Path → Path) : (s.modP f).peerAnswer = s.peerAnswer := rfl
@[simp] theorem State.modP_nodeCache (s : State) (f : Path → Path) : (s.modP f).nodeCache = s.nodeCache := rfl

/-! ### State.modKernel -/

@[simp] theorem State.modKernel_cyc (s : State) (k : Nat) (f : Kernel → Kernel) : (s.modKernel k f).cyc = s.cyc := rfl
@[simp] theorem State.modKernel_powered (s : State) (k : Nat) (f : Kernel → Kernel) : (s.modKernel k f).powered = s.powered := rfl
@[simp] theorem State.modKernel_free (s : State) (k : Nat) (f : Kernel → Kernel) : (s.modKernel k f).free = s.free := rfl
@[simp] theorem State.modKernel_stamp (s : State) (k : Nat) (f : Kernel → Kernel) : (s.modKernel k f).stamp = s.stamp := rfl
@[simp] theorem State.modKernel_agenda (s : State) (k : Nat) (f : Kernel → Kernel) : (s.modKernel k f).agenda = s.agenda := rfl
@[simp] theorem State.modKernel_cur (s : State) (k : Nat) (f : Kernel → Kernel) : (s.modKernel k f).cur = s.cur := rfl
@[simp] theorem State.modKernel_groups (s : State) (k : Nat) (f : Kernel → Kernel) : (s.modKernel k f).groups = s.groups := rfl
@[simp] theorem State.modKernel_mm (s : State) (k : Nat) (f : Kernel → Kernel) : (s.modKernel k f).mm = s.mm := rfl
@[simp] theorem State.modKernel_ctxs (s : State) (k : Nat) (f : Kernel → Kernel) : (s.modKernel k f).ctxs = s.ctxs := rfl
@[simp] theorem State.modKernel_blocks (s : State) (k : Nat) (f : Kernel → Kernel) : (s.modKernel k f).blocks = s.blocks := rfl
@[simp] theorem State.modKernel_ops (s : State) (k : Nat) (f : Kernel → Kernel) : (s.modKernel k f).ops = s.ops := rfl
@[simp] theorem State.modKernel_parts (s : State) (k : Nat) (f : Kernel → Kernel) : (s.modKernel k f).parts = s.parts := rfl
@[simp] theorem State.modKernel_filing (s : State) (k : Nat) (f : Kernel → Kernel) : (s.modKernel k f).filing = s.filing := rfl
@[simp] theorem State.modKernel_resuming (s : State) (k : Nat) (f : Kernel → Kernel) : (s.modKernel k f).resuming = s.resuming := rfl
@[simp] theorem State.modKernel_mail (s : State) (k : Nat) (f : Kernel → Kernel) : (s.modKernel k f).mail = s.mail := rfl
@[simp] theorem State.modKernel_mailGen (s : State) (k : Nat) (f : Kernel → Kernel) : (s.modKernel k f).mailGen = s.mailGen := rfl
@[simp] theorem State.modKernel_sgh (s : State) (k : Nat) (f : Kernel → Kernel) : (s.modKernel k f).sgh = s.sgh := rfl
@[simp] theorem State.modKernel_devno (s : State) (k : Nat) (f : Kernel → Kernel) : (s.modKernel k f).devno = s.devno := rfl
@[simp] theorem State.modKernel_ports (s : State) (k : Nat) (f : Kernel → Kernel) : (s.modKernel k f).ports = s.ports := rfl
@[simp] theorem State.modKernel_routes (s : State) (k : Nat) (f : Kernel → Kernel) : (s.modKernel k f).routes = s.routes := rfl
@[simp] theorem State.modKernel_inbound (s : State) (k : Nat) (f : Kernel → Kernel) : (s.modKernel k f).inbound = s.inbound := rfl
@[simp] theorem State.modKernel_errLog (s : State) (k : Nat) (f : Kernel → Kernel) : (s.modKernel k f).errLog = s.errLog := rfl
@[simp] theorem State.modKernel_errSeq (s : State) (k : Nat) (f : Kernel → Kernel) : (s.modKernel k f).errSeq = s.errSeq := rfl
@[simp] theorem State.modKernel_mx (s : State) (k : Nat) (f : Kernel → Kernel) : (s.modKernel k f).mx = s.mx := rfl
@[simp] theorem State.modKernel_gangs (s : State) (k : Nat) (f : Kernel → Kernel) : (s.modKernel k f).gangs = s.gangs := rfl
@[simp] theorem State.modKernel_queues (s : State) (k : Nat) (f : Kernel → Kernel) : (s.modKernel k f).queues = s.queues := rfl
@[simp] theorem State.modKernel_qreqs (s : State) (k : Nat) (f : Kernel → Kernel) : (s.modKernel k f).qreqs = s.qreqs := rfl
@[simp] theorem State.modKernel_qanswers (s : State) (k : Nat) (f : Kernel → Kernel) : (s.modKernel k f).qanswers = s.qanswers := rfl
@[simp] theorem State.modKernel_treqs (s : State) (k : Nat) (f : Kernel → Kernel) : (s.modKernel k f).treqs = s.treqs := rfl
@[simp] theorem State.modKernel_tanswers (s : State) (k : Nat) (f : Kernel → Kernel) : (s.modKernel k f).tanswers = s.tanswers := rfl
@[simp] theorem State.modKernel_oldBuckets (s : State) (k : Nat) (f : Kernel → Kernel) : (s.modKernel k f).oldBuckets = s.oldBuckets := rfl
@[simp] theorem State.modKernel_qis (s : State) (k : Nat) (f : Kernel → Kernel) : (s.modKernel k f).qis = s.qis := rfl
@[simp] theorem State.modKernel_packets (s : State) (k : Nat) (f : Kernel → Kernel) : (s.modKernel k f).packets = s.packets := rfl
@[simp] theorem State.modKernel_irtes (s : State) (k : Nat) (f : Kernel → Kernel) : (s.modKernel k f).irtes = s.irtes := rfl
@[simp] theorem State.modKernel_msix (s : State) (k : Nat) (f : Kernel → Kernel) : (s.modKernel k f).msix = s.msix := rfl
@[simp] theorem State.modKernel_tdisp (s : State) (k : Nat) (f : Kernel → Kernel) : (s.modKernel k f).tdisp = s.tdisp := rfl
@[simp] theorem State.modKernel_messages (s : State) (k : Nat) (f : Kernel → Kernel) : (s.modKernel k f).messages = s.messages := rfl
@[simp] theorem State.modKernel_readback (s : State) (k : Nat) (f : Kernel → Kernel) : (s.modKernel k f).readback = s.readback := rfl
@[simp] theorem State.modKernel_savedSelect (s : State) (k : Nat) (f : Kernel → Kernel) : (s.modKernel k f).savedSelect = s.savedSelect := rfl
@[simp] theorem State.modKernel_invals (s : State) (k : Nat) (f : Kernel → Kernel) : (s.modKernel k f).invals = s.invals := rfl
@[simp] theorem State.modKernel_ctxOps (s : State) (k : Nat) (f : Kernel → Kernel) : (s.modKernel k f).ctxOps = s.ctxOps := rfl
@[simp] theorem State.modKernel_images (s : State) (k : Nat) (f : Kernel → Kernel) : (s.modKernel k f).images = s.images := rfl
@[simp] theorem State.modKernel_mgmt (s : State) (k : Nat) (f : Kernel → Kernel) : (s.modKernel k f).mgmt = s.mgmt := rfl
@[simp] theorem State.modKernel_peerAnswer (s : State) (k : Nat) (f : Kernel → Kernel) : (s.modKernel k f).peerAnswer = s.peerAnswer := rfl
@[simp] theorem State.modKernel_nodeCache (s : State) (k : Nat) (f : Kernel → Kernel) : (s.modKernel k f).nodeCache = s.nodeCache := rfl

/-! ### State.modCtx -/

@[simp] theorem State.modCtx_cyc (s : State) (c : Nat) (f : Context → Context) : (s.modCtx c f).cyc = s.cyc := rfl
@[simp] theorem State.modCtx_powered (s : State) (c : Nat) (f : Context → Context) : (s.modCtx c f).powered = s.powered := rfl
@[simp] theorem State.modCtx_free (s : State) (c : Nat) (f : Context → Context) : (s.modCtx c f).free = s.free := rfl
@[simp] theorem State.modCtx_stamp (s : State) (c : Nat) (f : Context → Context) : (s.modCtx c f).stamp = s.stamp := rfl
@[simp] theorem State.modCtx_agenda (s : State) (c : Nat) (f : Context → Context) : (s.modCtx c f).agenda = s.agenda := rfl
@[simp] theorem State.modCtx_cur (s : State) (c : Nat) (f : Context → Context) : (s.modCtx c f).cur = s.cur := rfl
@[simp] theorem State.modCtx_groups (s : State) (c : Nat) (f : Context → Context) : (s.modCtx c f).groups = s.groups := rfl
@[simp] theorem State.modCtx_mm (s : State) (c : Nat) (f : Context → Context) : (s.modCtx c f).mm = s.mm := rfl
@[simp] theorem State.modCtx_kernels (s : State) (c : Nat) (f : Context → Context) : (s.modCtx c f).kernels = s.kernels := rfl
@[simp] theorem State.modCtx_blocks (s : State) (c : Nat) (f : Context → Context) : (s.modCtx c f).blocks = s.blocks := rfl
@[simp] theorem State.modCtx_ops (s : State) (c : Nat) (f : Context → Context) : (s.modCtx c f).ops = s.ops := rfl
@[simp] theorem State.modCtx_parts (s : State) (c : Nat) (f : Context → Context) : (s.modCtx c f).parts = s.parts := rfl
@[simp] theorem State.modCtx_filing (s : State) (c : Nat) (f : Context → Context) : (s.modCtx c f).filing = s.filing := rfl
@[simp] theorem State.modCtx_resuming (s : State) (c : Nat) (f : Context → Context) : (s.modCtx c f).resuming = s.resuming := rfl
@[simp] theorem State.modCtx_mail (s : State) (c : Nat) (f : Context → Context) : (s.modCtx c f).mail = s.mail := rfl
@[simp] theorem State.modCtx_mailGen (s : State) (c : Nat) (f : Context → Context) : (s.modCtx c f).mailGen = s.mailGen := rfl
@[simp] theorem State.modCtx_sgh (s : State) (c : Nat) (f : Context → Context) : (s.modCtx c f).sgh = s.sgh := rfl
@[simp] theorem State.modCtx_devno (s : State) (c : Nat) (f : Context → Context) : (s.modCtx c f).devno = s.devno := rfl
@[simp] theorem State.modCtx_ports (s : State) (c : Nat) (f : Context → Context) : (s.modCtx c f).ports = s.ports := rfl
@[simp] theorem State.modCtx_routes (s : State) (c : Nat) (f : Context → Context) : (s.modCtx c f).routes = s.routes := rfl
@[simp] theorem State.modCtx_inbound (s : State) (c : Nat) (f : Context → Context) : (s.modCtx c f).inbound = s.inbound := rfl
@[simp] theorem State.modCtx_errLog (s : State) (c : Nat) (f : Context → Context) : (s.modCtx c f).errLog = s.errLog := rfl
@[simp] theorem State.modCtx_errSeq (s : State) (c : Nat) (f : Context → Context) : (s.modCtx c f).errSeq = s.errSeq := rfl
@[simp] theorem State.modCtx_mx (s : State) (c : Nat) (f : Context → Context) : (s.modCtx c f).mx = s.mx := rfl
@[simp] theorem State.modCtx_gangs (s : State) (c : Nat) (f : Context → Context) : (s.modCtx c f).gangs = s.gangs := rfl
@[simp] theorem State.modCtx_queues (s : State) (c : Nat) (f : Context → Context) : (s.modCtx c f).queues = s.queues := rfl
@[simp] theorem State.modCtx_qreqs (s : State) (c : Nat) (f : Context → Context) : (s.modCtx c f).qreqs = s.qreqs := rfl
@[simp] theorem State.modCtx_qanswers (s : State) (c : Nat) (f : Context → Context) : (s.modCtx c f).qanswers = s.qanswers := rfl
@[simp] theorem State.modCtx_treqs (s : State) (c : Nat) (f : Context → Context) : (s.modCtx c f).treqs = s.treqs := rfl
@[simp] theorem State.modCtx_tanswers (s : State) (c : Nat) (f : Context → Context) : (s.modCtx c f).tanswers = s.tanswers := rfl
@[simp] theorem State.modCtx_oldBuckets (s : State) (c : Nat) (f : Context → Context) : (s.modCtx c f).oldBuckets = s.oldBuckets := rfl
@[simp] theorem State.modCtx_qis (s : State) (c : Nat) (f : Context → Context) : (s.modCtx c f).qis = s.qis := rfl
@[simp] theorem State.modCtx_packets (s : State) (c : Nat) (f : Context → Context) : (s.modCtx c f).packets = s.packets := rfl
@[simp] theorem State.modCtx_irtes (s : State) (c : Nat) (f : Context → Context) : (s.modCtx c f).irtes = s.irtes := rfl
@[simp] theorem State.modCtx_msix (s : State) (c : Nat) (f : Context → Context) : (s.modCtx c f).msix = s.msix := rfl
@[simp] theorem State.modCtx_tdisp (s : State) (c : Nat) (f : Context → Context) : (s.modCtx c f).tdisp = s.tdisp := rfl
@[simp] theorem State.modCtx_messages (s : State) (c : Nat) (f : Context → Context) : (s.modCtx c f).messages = s.messages := rfl
@[simp] theorem State.modCtx_readback (s : State) (c : Nat) (f : Context → Context) : (s.modCtx c f).readback = s.readback := rfl
@[simp] theorem State.modCtx_savedSelect (s : State) (c : Nat) (f : Context → Context) : (s.modCtx c f).savedSelect = s.savedSelect := rfl
@[simp] theorem State.modCtx_invals (s : State) (c : Nat) (f : Context → Context) : (s.modCtx c f).invals = s.invals := rfl
@[simp] theorem State.modCtx_ctxOps (s : State) (c : Nat) (f : Context → Context) : (s.modCtx c f).ctxOps = s.ctxOps := rfl
@[simp] theorem State.modCtx_images (s : State) (c : Nat) (f : Context → Context) : (s.modCtx c f).images = s.images := rfl
@[simp] theorem State.modCtx_mgmt (s : State) (c : Nat) (f : Context → Context) : (s.modCtx c f).mgmt = s.mgmt := rfl
@[simp] theorem State.modCtx_peerAnswer (s : State) (c : Nat) (f : Context → Context) : (s.modCtx c f).peerAnswer = s.peerAnswer := rfl
@[simp] theorem State.modCtx_nodeCache (s : State) (c : Nat) (f : Context → Context) : (s.modCtx c f).nodeCache = s.nodeCache := rfl

/-! ### State.modPart -/

@[simp] theorem State.modPart_cyc (s : State) (n : Nat) (f : Part → Part) : (s.modPart n f).cyc = s.cyc := rfl
@[simp] theorem State.modPart_powered (s : State) (n : Nat) (f : Part → Part) : (s.modPart n f).powered = s.powered := rfl
@[simp] theorem State.modPart_free (s : State) (n : Nat) (f : Part → Part) : (s.modPart n f).free = s.free := rfl
@[simp] theorem State.modPart_stamp (s : State) (n : Nat) (f : Part → Part) : (s.modPart n f).stamp = s.stamp := rfl
@[simp] theorem State.modPart_agenda (s : State) (n : Nat) (f : Part → Part) : (s.modPart n f).agenda = s.agenda := rfl
@[simp] theorem State.modPart_cur (s : State) (n : Nat) (f : Part → Part) : (s.modPart n f).cur = s.cur := rfl
@[simp] theorem State.modPart_groups (s : State) (n : Nat) (f : Part → Part) : (s.modPart n f).groups = s.groups := rfl
@[simp] theorem State.modPart_mm (s : State) (n : Nat) (f : Part → Part) : (s.modPart n f).mm = s.mm := rfl
@[simp] theorem State.modPart_ctxs (s : State) (n : Nat) (f : Part → Part) : (s.modPart n f).ctxs = s.ctxs := rfl
@[simp] theorem State.modPart_kernels (s : State) (n : Nat) (f : Part → Part) : (s.modPart n f).kernels = s.kernels := rfl
@[simp] theorem State.modPart_blocks (s : State) (n : Nat) (f : Part → Part) : (s.modPart n f).blocks = s.blocks := rfl
@[simp] theorem State.modPart_ops (s : State) (n : Nat) (f : Part → Part) : (s.modPart n f).ops = s.ops := rfl
@[simp] theorem State.modPart_filing (s : State) (n : Nat) (f : Part → Part) : (s.modPart n f).filing = s.filing := rfl
@[simp] theorem State.modPart_resuming (s : State) (n : Nat) (f : Part → Part) : (s.modPart n f).resuming = s.resuming := rfl
@[simp] theorem State.modPart_mail (s : State) (n : Nat) (f : Part → Part) : (s.modPart n f).mail = s.mail := rfl
@[simp] theorem State.modPart_mailGen (s : State) (n : Nat) (f : Part → Part) : (s.modPart n f).mailGen = s.mailGen := rfl
@[simp] theorem State.modPart_sgh (s : State) (n : Nat) (f : Part → Part) : (s.modPart n f).sgh = s.sgh := rfl
@[simp] theorem State.modPart_devno (s : State) (n : Nat) (f : Part → Part) : (s.modPart n f).devno = s.devno := rfl
@[simp] theorem State.modPart_ports (s : State) (n : Nat) (f : Part → Part) : (s.modPart n f).ports = s.ports := rfl
@[simp] theorem State.modPart_routes (s : State) (n : Nat) (f : Part → Part) : (s.modPart n f).routes = s.routes := rfl
@[simp] theorem State.modPart_inbound (s : State) (n : Nat) (f : Part → Part) : (s.modPart n f).inbound = s.inbound := rfl
@[simp] theorem State.modPart_errLog (s : State) (n : Nat) (f : Part → Part) : (s.modPart n f).errLog = s.errLog := rfl
@[simp] theorem State.modPart_errSeq (s : State) (n : Nat) (f : Part → Part) : (s.modPart n f).errSeq = s.errSeq := rfl
@[simp] theorem State.modPart_mx (s : State) (n : Nat) (f : Part → Part) : (s.modPart n f).mx = s.mx := rfl
@[simp] theorem State.modPart_gangs (s : State) (n : Nat) (f : Part → Part) : (s.modPart n f).gangs = s.gangs := rfl
@[simp] theorem State.modPart_queues (s : State) (n : Nat) (f : Part → Part) : (s.modPart n f).queues = s.queues := rfl
@[simp] theorem State.modPart_qreqs (s : State) (n : Nat) (f : Part → Part) : (s.modPart n f).qreqs = s.qreqs := rfl
@[simp] theorem State.modPart_qanswers (s : State) (n : Nat) (f : Part → Part) : (s.modPart n f).qanswers = s.qanswers := rfl
@[simp] theorem State.modPart_treqs (s : State) (n : Nat) (f : Part → Part) : (s.modPart n f).treqs = s.treqs := rfl
@[simp] theorem State.modPart_tanswers (s : State) (n : Nat) (f : Part → Part) : (s.modPart n f).tanswers = s.tanswers := rfl
@[simp] theorem State.modPart_oldBuckets (s : State) (n : Nat) (f : Part → Part) : (s.modPart n f).oldBuckets = s.oldBuckets := rfl
@[simp] theorem State.modPart_qis (s : State) (n : Nat) (f : Part → Part) : (s.modPart n f).qis = s.qis := rfl
@[simp] theorem State.modPart_packets (s : State) (n : Nat) (f : Part → Part) : (s.modPart n f).packets = s.packets := rfl
@[simp] theorem State.modPart_irtes (s : State) (n : Nat) (f : Part → Part) : (s.modPart n f).irtes = s.irtes := rfl
@[simp] theorem State.modPart_msix (s : State) (n : Nat) (f : Part → Part) : (s.modPart n f).msix = s.msix := rfl
@[simp] theorem State.modPart_tdisp (s : State) (n : Nat) (f : Part → Part) : (s.modPart n f).tdisp = s.tdisp := rfl
@[simp] theorem State.modPart_messages (s : State) (n : Nat) (f : Part → Part) : (s.modPart n f).messages = s.messages := rfl
@[simp] theorem State.modPart_readback (s : State) (n : Nat) (f : Part → Part) : (s.modPart n f).readback = s.readback := rfl
@[simp] theorem State.modPart_savedSelect (s : State) (n : Nat) (f : Part → Part) : (s.modPart n f).savedSelect = s.savedSelect := rfl
@[simp] theorem State.modPart_invals (s : State) (n : Nat) (f : Part → Part) : (s.modPart n f).invals = s.invals := rfl
@[simp] theorem State.modPart_ctxOps (s : State) (n : Nat) (f : Part → Part) : (s.modPart n f).ctxOps = s.ctxOps := rfl
@[simp] theorem State.modPart_images (s : State) (n : Nat) (f : Part → Part) : (s.modPart n f).images = s.images := rfl
@[simp] theorem State.modPart_mgmt (s : State) (n : Nat) (f : Part → Part) : (s.modPart n f).mgmt = s.mgmt := rfl
@[simp] theorem State.modPart_peerAnswer (s : State) (n : Nat) (f : Part → Part) : (s.modPart n f).peerAnswer = s.peerAnswer := rfl
@[simp] theorem State.modPart_nodeCache (s : State) (n : Nat) (f : Part → Part) : (s.modPart n f).nodeCache = s.nodeCache := rfl

/-! ### State.touch -/

@[simp] theorem State.touch_cyc (s : State) (pa n : Nat) : (s.touch pa n).cyc = s.cyc := rfl
@[simp] theorem State.touch_powered (s : State) (pa n : Nat) : (s.touch pa n).powered = s.powered := rfl
@[simp] theorem State.touch_free (s : State) (pa n : Nat) : (s.touch pa n).free = s.free := rfl
@[simp] theorem State.touch_stamp (s : State) (pa n : Nat) : (s.touch pa n).stamp = s.stamp := rfl
@[simp] theorem State.touch_agenda (s : State) (pa n : Nat) : (s.touch pa n).agenda = s.agenda := rfl
@[simp] theorem State.touch_cur (s : State) (pa n : Nat) : (s.touch pa n).cur = s.cur := rfl
@[simp] theorem State.touch_groups (s : State) (pa n : Nat) : (s.touch pa n).groups = s.groups := rfl
@[simp] theorem State.touch_ctxs (s : State) (pa n : Nat) : (s.touch pa n).ctxs = s.ctxs := rfl
@[simp] theorem State.touch_kernels (s : State) (pa n : Nat) : (s.touch pa n).kernels = s.kernels := rfl
@[simp] theorem State.touch_blocks (s : State) (pa n : Nat) : (s.touch pa n).blocks = s.blocks := rfl
@[simp] theorem State.touch_ops (s : State) (pa n : Nat) : (s.touch pa n).ops = s.ops := rfl
@[simp] theorem State.touch_parts (s : State) (pa n : Nat) : (s.touch pa n).parts = s.parts := rfl
@[simp] theorem State.touch_filing (s : State) (pa n : Nat) : (s.touch pa n).filing = s.filing := rfl
@[simp] theorem State.touch_resuming (s : State) (pa n : Nat) : (s.touch pa n).resuming = s.resuming := rfl
@[simp] theorem State.touch_mail (s : State) (pa n : Nat) : (s.touch pa n).mail = s.mail := rfl
@[simp] theorem State.touch_mailGen (s : State) (pa n : Nat) : (s.touch pa n).mailGen = s.mailGen := rfl
@[simp] theorem State.touch_sgh (s : State) (pa n : Nat) : (s.touch pa n).sgh = s.sgh := rfl
@[simp] theorem State.touch_devno (s : State) (pa n : Nat) : (s.touch pa n).devno = s.devno := rfl
@[simp] theorem State.touch_ports (s : State) (pa n : Nat) : (s.touch pa n).ports = s.ports := rfl
@[simp] theorem State.touch_routes (s : State) (pa n : Nat) : (s.touch pa n).routes = s.routes := rfl
@[simp] theorem State.touch_inbound (s : State) (pa n : Nat) : (s.touch pa n).inbound = s.inbound := rfl
@[simp] theorem State.touch_errLog (s : State) (pa n : Nat) : (s.touch pa n).errLog = s.errLog := rfl
@[simp] theorem State.touch_errSeq (s : State) (pa n : Nat) : (s.touch pa n).errSeq = s.errSeq := rfl
@[simp] theorem State.touch_mx (s : State) (pa n : Nat) : (s.touch pa n).mx = s.mx := rfl
@[simp] theorem State.touch_gangs (s : State) (pa n : Nat) : (s.touch pa n).gangs = s.gangs := rfl
@[simp] theorem State.touch_queues (s : State) (pa n : Nat) : (s.touch pa n).queues = s.queues := rfl
@[simp] theorem State.touch_qreqs (s : State) (pa n : Nat) : (s.touch pa n).qreqs = s.qreqs := rfl
@[simp] theorem State.touch_qanswers (s : State) (pa n : Nat) : (s.touch pa n).qanswers = s.qanswers := rfl
@[simp] theorem State.touch_treqs (s : State) (pa n : Nat) : (s.touch pa n).treqs = s.treqs := rfl
@[simp] theorem State.touch_tanswers (s : State) (pa n : Nat) : (s.touch pa n).tanswers = s.tanswers := rfl
@[simp] theorem State.touch_oldBuckets (s : State) (pa n : Nat) : (s.touch pa n).oldBuckets = s.oldBuckets := rfl
@[simp] theorem State.touch_qis (s : State) (pa n : Nat) : (s.touch pa n).qis = s.qis := rfl
@[simp] theorem State.touch_packets (s : State) (pa n : Nat) : (s.touch pa n).packets = s.packets := rfl
@[simp] theorem State.touch_irtes (s : State) (pa n : Nat) : (s.touch pa n).irtes = s.irtes := rfl
@[simp] theorem State.touch_msix (s : State) (pa n : Nat) : (s.touch pa n).msix = s.msix := rfl
@[simp] theorem State.touch_tdisp (s : State) (pa n : Nat) : (s.touch pa n).tdisp = s.tdisp := rfl
@[simp] theorem State.touch_messages (s : State) (pa n : Nat) : (s.touch pa n).messages = s.messages := rfl
@[simp] theorem State.touch_readback (s : State) (pa n : Nat) : (s.touch pa n).readback = s.readback := rfl
@[simp] theorem State.touch_savedSelect (s : State) (pa n : Nat) : (s.touch pa n).savedSelect = s.savedSelect := rfl
@[simp] theorem State.touch_invals (s : State) (pa n : Nat) : (s.touch pa n).invals = s.invals := rfl
@[simp] theorem State.touch_ctxOps (s : State) (pa n : Nat) : (s.touch pa n).ctxOps = s.ctxOps := rfl
@[simp] theorem State.touch_images (s : State) (pa n : Nat) : (s.touch pa n).images = s.images := rfl
@[simp] theorem State.touch_mgmt (s : State) (pa n : Nat) : (s.touch pa n).mgmt = s.mgmt := rfl
@[simp] theorem State.touch_peerAnswer (s : State) (pa n : Nat) : (s.touch pa n).peerAnswer = s.peerAnswer := rfl
@[simp] theorem State.touch_nodeCache (s : State) (pa n : Nat) : (s.touch pa n).nodeCache = s.nodeCache := rfl

/-! ### Group.modSlices -/

@[simp] theorem Group.modSlices_unit (g : Group) (f : Slice → Slice) : (g.modSlices f).unit = g.unit := rfl
@[simp] theorem Group.modSlices_serial (g : Group) (f : Slice → Slice) : (g.modSlices f).serial = g.serial := rfl
@[simp] theorem Group.modSlices_kind (g : Group) (f : Slice → Slice) : (g.modSlices f).kind = g.kind := rfl
@[simp] theorem Group.modSlices_st (g : Group) (f : Slice → Slice) : (g.modSlices f).st = g.st := rfl
@[simp] theorem Group.modSlices_ctx (g : Group) (f : Slice → Slice) : (g.modSlices f).ctx = g.ctx := rfl
@[simp] theorem Group.modSlices_part (g : Group) (f : Slice → Slice) : (g.modSlices f).part = g.part := rfl
@[simp] theorem Group.modSlices_world (g : Group) (f : Slice → Slice) : (g.modSlices f).world = g.world := rfl
@[simp] theorem Group.modSlices_gid (g : Group) (f : Slice → Slice) : (g.modSlices f).gid = g.gid := rfl
@[simp] theorem Group.modSlices_bid (g : Group) (f : Slice → Slice) : (g.modSlices f).bid = g.bid := rfl
@[simp] theorem Group.modSlices_cid (g : Group) (f : Slice → Slice) : (g.modSlices f).cid = g.cid := rfl
@[simp] theorem Group.modSlices_kernel (g : Group) (f : Slice → Slice) : (g.modSlices f).kernel = g.kernel := rfl
@[simp] theorem Group.modSlices_alloc (g : Group) (f : Slice → Slice) : (g.modSlices f).alloc = g.alloc := rfl
@[simp] theorem Group.modSlices_acc (g : Group) (f : Slice → Slice) : (g.modSlices f).acc = g.acc := rfl
@[simp] theorem Group.modSlices_gregs (g : Group) (f : Slice → Slice) : (g.modSlices f).gregs = g.gregs := rfl
@[simp] theorem Group.modSlices_sregs (g : Group) (f : Slice → Slice) : (g.modSlices f).sregs = g.sregs := rfl
@[simp] theorem Group.modSlices_preds (g : Group) (f : Slice → Slice) : (g.modSlices f).preds = g.preds := rfl
@[simp] theorem Group.modSlices_shapes (g : Group) (f : Slice → Slice) : (g.modSlices f).shapes = g.shapes := rfl
@[simp] theorem Group.modSlices_hf (g : Group) (f : Slice → Slice) : (g.modSlices f).hf = g.hf := rfl
@[simp] theorem Group.modSlices_fslots (g : Group) (f : Slice → Slice) : (g.modSlices f).fslots = g.fslots := rfl
@[simp] theorem Group.modSlices_ages (g : Group) (f : Slice → Slice) : (g.modSlices f).ages = g.ages := rfl
@[simp] theorem Group.modSlices_ageValid (g : Group) (f : Slice → Slice) : (g.modSlices f).ageValid = g.ageValid := rfl
@[simp] theorem Group.modSlices_caches (g : Group) (f : Slice → Slice) : (g.modSlices f).caches = g.caches := rfl
@[simp] theorem Group.modSlices_cacheValid (g : Group) (f : Slice → Slice) : (g.modSlices f).cacheValid = g.cacheValid := rfl
@[simp] theorem Group.modSlices_tiles (g : Group) (f : Slice → Slice) : (g.modSlices f).tiles = g.tiles := rfl
@[simp] theorem Group.modSlices_tpc (g : Group) (f : Slice → Slice) : (g.modSlices f).tpc = g.tpc := rfl
@[simp] theorem Group.modSlices_tcause (g : Group) (f : Slice → Slice) : (g.modSlices f).tcause = g.tcause := rfl
@[simp] theorem Group.modSlices_uipc (g : Group) (f : Slice → Slice) : (g.modSlices f).uipc = g.uipc := rfl
@[simp] theorem Group.modSlices_cbase (g : Group) (f : Slice → Slice) : (g.modSlices f).cbase = g.cbase := rfl
@[simp] theorem Group.modSlices_csize (g : Group) (f : Slice → Slice) : (g.modSlices f).csize = g.csize := rfl
@[simp] theorem Group.modSlices_inst (g : Group) (f : Slice → Slice) : (g.modSlices f).inst = g.inst := rfl
@[simp] theorem Group.modSlices_paths (g : Group) (f : Slice → Slice) : (g.modSlices f).paths = g.paths := rfl
@[simp] theorem Group.modSlices_cur (g : Group) (f : Slice → Slice) : (g.modSlices f).cur = g.cur := rfl
@[simp] theorem Group.modSlices_lastPath (g : Group) (f : Slice → Slice) : (g.modSlices f).lastPath = g.lastPath := rfl
@[simp] theorem Group.modSlices_nextPath (g : Group) (f : Slice → Slice) : (g.modSlices f).nextPath = g.nextPath := rfl
@[simp] theorem Group.modSlices_hdl (g : Group) (f : Slice → Slice) : (g.modSlices f).hdl = g.hdl := rfl
@[simp] theorem Group.modSlices_ints (g : Group) (f : Slice → Slice) : (g.modSlices f).ints = g.ints := rfl
@[simp] theorem Group.modSlices_cnt (g : Group) (f : Slice → Slice) : (g.modSlices f).cnt = g.cnt := rfl
@[simp] theorem Group.modSlices_seq (g : Group) (f : Slice → Slice) : (g.modSlices f).seq = g.seq := rfl
@[simp] theorem Group.modSlices_gang (g : Group) (f : Slice → Slice) : (g.modSlices f).gang = g.gang := rfl
@[simp] theorem Group.modSlices_mxFlags (g : Group) (f : Slice → Slice) : (g.modSlices f).mxFlags = g.mxFlags := rfl
@[simp] theorem Group.modSlices_bars (g : Group) (f : Slice → Slice) : (g.modSlices f).bars = g.bars := rfl
@[simp] theorem Group.modSlices_flags (g : Group) (f : Slice → Slice) : (g.modSlices f).flags = g.flags := rfl
@[simp] theorem Group.modSlices_wake (g : Group) (f : Slice → Slice) : (g.modSlices f).wake = g.wake := rfl
@[simp] theorem Group.modSlices_drowsy (g : Group) (f : Slice → Slice) : (g.modSlices f).drowsy = g.drowsy := rfl
@[simp] theorem Group.modSlices_linkLost (g : Group) (f : Slice → Slice) : (g.modSlices f).linkLost = g.linkLost := rfl
@[simp] theorem Group.modSlices_passed (g : Group) (f : Slice → Slice) : (g.modSlices f).passed = g.passed := rfl
@[simp] theorem Group.modSlices_absentSince (g : Group) (f : Slice → Slice) : (g.modSlices f).absentSince = g.absentSince := rfl
@[simp] theorem Group.modSlices_setSince (g : Group) (f : Slice → Slice) : (g.modSlices f).setSince = g.setSince := rfl
@[simp] theorem Group.modSlices_readySince (g : Group) (f : Slice → Slice) : (g.modSlices f).readySince = g.readySince := rfl
@[simp] theorem Group.modSlices_issueFrom (g : Group) (f : Slice → Slice) : (g.modSlices f).issueFrom = g.issueFrom := rfl
@[simp] theorem Group.modSlices_lastIssue (g : Group) (f : Slice → Slice) : (g.modSlices f).lastIssue = g.lastIssue := rfl
@[simp] theorem Group.modSlices_bound (g : Group) (f : Slice → Slice) : (g.modSlices f).bound = g.bound := rfl
@[simp] theorem Group.modSlices_late (g : Group) (f : Slice → Slice) : (g.modSlices f).late = g.late := rfl
@[simp] theorem Group.modSlices_soft (g : Group) (f : Slice → Slice) : (g.modSlices f).soft = g.soft := rfl
@[simp] theorem Group.modSlices_yielding (g : Group) (f : Slice → Slice) : (g.modSlices f).yielding = g.yielding := rfl
@[simp] theorem Group.modSlices_xfer (g : Group) (f : Slice → Slice) : (g.modSlices f).xfer = g.xfer := rfl
@[simp] theorem Group.modSlices_fw (g : Group) (f : Slice → Slice) : (g.modSlices f).fw = g.fw := rfl

/-! ### Group.modPathSlices -/

@[simp] theorem Group.modPathSlices_unit (g : Group) (p : Nat) (f : Slice → Slice) : (g.modPathSlices p f).unit = g.unit := rfl
@[simp] theorem Group.modPathSlices_serial (g : Group) (p : Nat) (f : Slice → Slice) : (g.modPathSlices p f).serial = g.serial := rfl
@[simp] theorem Group.modPathSlices_kind (g : Group) (p : Nat) (f : Slice → Slice) : (g.modPathSlices p f).kind = g.kind := rfl
@[simp] theorem Group.modPathSlices_st (g : Group) (p : Nat) (f : Slice → Slice) : (g.modPathSlices p f).st = g.st := rfl
@[simp] theorem Group.modPathSlices_ctx (g : Group) (p : Nat) (f : Slice → Slice) : (g.modPathSlices p f).ctx = g.ctx := rfl
@[simp] theorem Group.modPathSlices_part (g : Group) (p : Nat) (f : Slice → Slice) : (g.modPathSlices p f).part = g.part := rfl
@[simp] theorem Group.modPathSlices_world (g : Group) (p : Nat) (f : Slice → Slice) : (g.modPathSlices p f).world = g.world := rfl
@[simp] theorem Group.modPathSlices_gid (g : Group) (p : Nat) (f : Slice → Slice) : (g.modPathSlices p f).gid = g.gid := rfl
@[simp] theorem Group.modPathSlices_bid (g : Group) (p : Nat) (f : Slice → Slice) : (g.modPathSlices p f).bid = g.bid := rfl
@[simp] theorem Group.modPathSlices_cid (g : Group) (p : Nat) (f : Slice → Slice) : (g.modPathSlices p f).cid = g.cid := rfl
@[simp] theorem Group.modPathSlices_kernel (g : Group) (p : Nat) (f : Slice → Slice) : (g.modPathSlices p f).kernel = g.kernel := rfl
@[simp] theorem Group.modPathSlices_alloc (g : Group) (p : Nat) (f : Slice → Slice) : (g.modPathSlices p f).alloc = g.alloc := rfl
@[simp] theorem Group.modPathSlices_acc (g : Group) (p : Nat) (f : Slice → Slice) : (g.modPathSlices p f).acc = g.acc := rfl
@[simp] theorem Group.modPathSlices_gregs (g : Group) (p : Nat) (f : Slice → Slice) : (g.modPathSlices p f).gregs = g.gregs := rfl
@[simp] theorem Group.modPathSlices_sregs (g : Group) (p : Nat) (f : Slice → Slice) : (g.modPathSlices p f).sregs = g.sregs := rfl
@[simp] theorem Group.modPathSlices_preds (g : Group) (p : Nat) (f : Slice → Slice) : (g.modPathSlices p f).preds = g.preds := rfl
@[simp] theorem Group.modPathSlices_shapes (g : Group) (p : Nat) (f : Slice → Slice) : (g.modPathSlices p f).shapes = g.shapes := rfl
@[simp] theorem Group.modPathSlices_hf (g : Group) (p : Nat) (f : Slice → Slice) : (g.modPathSlices p f).hf = g.hf := rfl
@[simp] theorem Group.modPathSlices_fslots (g : Group) (p : Nat) (f : Slice → Slice) : (g.modPathSlices p f).fslots = g.fslots := rfl
@[simp] theorem Group.modPathSlices_ages (g : Group) (p : Nat) (f : Slice → Slice) : (g.modPathSlices p f).ages = g.ages := rfl
@[simp] theorem Group.modPathSlices_ageValid (g : Group) (p : Nat) (f : Slice → Slice) : (g.modPathSlices p f).ageValid = g.ageValid := rfl
@[simp] theorem Group.modPathSlices_caches (g : Group) (p : Nat) (f : Slice → Slice) : (g.modPathSlices p f).caches = g.caches := rfl
@[simp] theorem Group.modPathSlices_cacheValid (g : Group) (p : Nat) (f : Slice → Slice) : (g.modPathSlices p f).cacheValid = g.cacheValid := rfl
@[simp] theorem Group.modPathSlices_tiles (g : Group) (p : Nat) (f : Slice → Slice) : (g.modPathSlices p f).tiles = g.tiles := rfl
@[simp] theorem Group.modPathSlices_tpc (g : Group) (p : Nat) (f : Slice → Slice) : (g.modPathSlices p f).tpc = g.tpc := rfl
@[simp] theorem Group.modPathSlices_tcause (g : Group) (p : Nat) (f : Slice → Slice) : (g.modPathSlices p f).tcause = g.tcause := rfl
@[simp] theorem Group.modPathSlices_uipc (g : Group) (p : Nat) (f : Slice → Slice) : (g.modPathSlices p f).uipc = g.uipc := rfl
@[simp] theorem Group.modPathSlices_cbase (g : Group) (p : Nat) (f : Slice → Slice) : (g.modPathSlices p f).cbase = g.cbase := rfl
@[simp] theorem Group.modPathSlices_csize (g : Group) (p : Nat) (f : Slice → Slice) : (g.modPathSlices p f).csize = g.csize := rfl
@[simp] theorem Group.modPathSlices_inst (g : Group) (p : Nat) (f : Slice → Slice) : (g.modPathSlices p f).inst = g.inst := rfl
@[simp] theorem Group.modPathSlices_paths (g : Group) (p : Nat) (f : Slice → Slice) : (g.modPathSlices p f).paths = g.paths := rfl
@[simp] theorem Group.modPathSlices_cur (g : Group) (p : Nat) (f : Slice → Slice) : (g.modPathSlices p f).cur = g.cur := rfl
@[simp] theorem Group.modPathSlices_lastPath (g : Group) (p : Nat) (f : Slice → Slice) : (g.modPathSlices p f).lastPath = g.lastPath := rfl
@[simp] theorem Group.modPathSlices_nextPath (g : Group) (p : Nat) (f : Slice → Slice) : (g.modPathSlices p f).nextPath = g.nextPath := rfl
@[simp] theorem Group.modPathSlices_hdl (g : Group) (p : Nat) (f : Slice → Slice) : (g.modPathSlices p f).hdl = g.hdl := rfl
@[simp] theorem Group.modPathSlices_ints (g : Group) (p : Nat) (f : Slice → Slice) : (g.modPathSlices p f).ints = g.ints := rfl
@[simp] theorem Group.modPathSlices_cnt (g : Group) (p : Nat) (f : Slice → Slice) : (g.modPathSlices p f).cnt = g.cnt := rfl
@[simp] theorem Group.modPathSlices_seq (g : Group) (p : Nat) (f : Slice → Slice) : (g.modPathSlices p f).seq = g.seq := rfl
@[simp] theorem Group.modPathSlices_gang (g : Group) (p : Nat) (f : Slice → Slice) : (g.modPathSlices p f).gang = g.gang := rfl
@[simp] theorem Group.modPathSlices_mxFlags (g : Group) (p : Nat) (f : Slice → Slice) : (g.modPathSlices p f).mxFlags = g.mxFlags := rfl
@[simp] theorem Group.modPathSlices_bars (g : Group) (p : Nat) (f : Slice → Slice) : (g.modPathSlices p f).bars = g.bars := rfl
@[simp] theorem Group.modPathSlices_flags (g : Group) (p : Nat) (f : Slice → Slice) : (g.modPathSlices p f).flags = g.flags := rfl
@[simp] theorem Group.modPathSlices_wake (g : Group) (p : Nat) (f : Slice → Slice) : (g.modPathSlices p f).wake = g.wake := rfl
@[simp] theorem Group.modPathSlices_drowsy (g : Group) (p : Nat) (f : Slice → Slice) : (g.modPathSlices p f).drowsy = g.drowsy := rfl
@[simp] theorem Group.modPathSlices_linkLost (g : Group) (p : Nat) (f : Slice → Slice) : (g.modPathSlices p f).linkLost = g.linkLost := rfl
@[simp] theorem Group.modPathSlices_passed (g : Group) (p : Nat) (f : Slice → Slice) : (g.modPathSlices p f).passed = g.passed := rfl
@[simp] theorem Group.modPathSlices_absentSince (g : Group) (p : Nat) (f : Slice → Slice) : (g.modPathSlices p f).absentSince = g.absentSince := rfl
@[simp] theorem Group.modPathSlices_setSince (g : Group) (p : Nat) (f : Slice → Slice) : (g.modPathSlices p f).setSince = g.setSince := rfl
@[simp] theorem Group.modPathSlices_readySince (g : Group) (p : Nat) (f : Slice → Slice) : (g.modPathSlices p f).readySince = g.readySince := rfl
@[simp] theorem Group.modPathSlices_issueFrom (g : Group) (p : Nat) (f : Slice → Slice) : (g.modPathSlices p f).issueFrom = g.issueFrom := rfl
@[simp] theorem Group.modPathSlices_lastIssue (g : Group) (p : Nat) (f : Slice → Slice) : (g.modPathSlices p f).lastIssue = g.lastIssue := rfl
@[simp] theorem Group.modPathSlices_bound (g : Group) (p : Nat) (f : Slice → Slice) : (g.modPathSlices p f).bound = g.bound := rfl
@[simp] theorem Group.modPathSlices_late (g : Group) (p : Nat) (f : Slice → Slice) : (g.modPathSlices p f).late = g.late := rfl
@[simp] theorem Group.modPathSlices_soft (g : Group) (p : Nat) (f : Slice → Slice) : (g.modPathSlices p f).soft = g.soft := rfl
@[simp] theorem Group.modPathSlices_yielding (g : Group) (p : Nat) (f : Slice → Slice) : (g.modPathSlices p f).yielding = g.yielding := rfl
@[simp] theorem Group.modPathSlices_xfer (g : Group) (p : Nat) (f : Slice → Slice) : (g.modPathSlices p f).xfer = g.xfer := rfl
@[simp] theorem Group.modPathSlices_fw (g : Group) (p : Nat) (f : Slice → Slice) : (g.modPathSlices p f).fw = g.fw := rfl

/-! ### Group.modPath -/

@[simp] theorem Group.modPath_unit (g : Group) (p : Nat) (f : Path → Path) : (g.modPath p f).unit = g.unit := rfl
@[simp] theorem Group.modPath_serial (g : Group) (p : Nat) (f : Path → Path) : (g.modPath p f).serial = g.serial := rfl
@[simp] theorem Group.modPath_kind (g : Group) (p : Nat) (f : Path → Path) : (g.modPath p f).kind = g.kind := rfl
@[simp] theorem Group.modPath_st (g : Group) (p : Nat) (f : Path → Path) : (g.modPath p f).st = g.st := rfl
@[simp] theorem Group.modPath_ctx (g : Group) (p : Nat) (f : Path → Path) : (g.modPath p f).ctx = g.ctx := rfl
@[simp] theorem Group.modPath_part (g : Group) (p : Nat) (f : Path → Path) : (g.modPath p f).part = g.part := rfl
@[simp] theorem Group.modPath_world (g : Group) (p : Nat) (f : Path → Path) : (g.modPath p f).world = g.world := rfl
@[simp] theorem Group.modPath_gid (g : Group) (p : Nat) (f : Path → Path) : (g.modPath p f).gid = g.gid := rfl
@[simp] theorem Group.modPath_bid (g : Group) (p : Nat) (f : Path → Path) : (g.modPath p f).bid = g.bid := rfl
@[simp] theorem Group.modPath_cid (g : Group) (p : Nat) (f : Path → Path) : (g.modPath p f).cid = g.cid := rfl
@[simp] theorem Group.modPath_kernel (g : Group) (p : Nat) (f : Path → Path) : (g.modPath p f).kernel = g.kernel := rfl
@[simp] theorem Group.modPath_alloc (g : Group) (p : Nat) (f : Path → Path) : (g.modPath p f).alloc = g.alloc := rfl
@[simp] theorem Group.modPath_acc (g : Group) (p : Nat) (f : Path → Path) : (g.modPath p f).acc = g.acc := rfl
@[simp] theorem Group.modPath_gregs (g : Group) (p : Nat) (f : Path → Path) : (g.modPath p f).gregs = g.gregs := rfl
@[simp] theorem Group.modPath_sregs (g : Group) (p : Nat) (f : Path → Path) : (g.modPath p f).sregs = g.sregs := rfl
@[simp] theorem Group.modPath_preds (g : Group) (p : Nat) (f : Path → Path) : (g.modPath p f).preds = g.preds := rfl
@[simp] theorem Group.modPath_shapes (g : Group) (p : Nat) (f : Path → Path) : (g.modPath p f).shapes = g.shapes := rfl
@[simp] theorem Group.modPath_hf (g : Group) (p : Nat) (f : Path → Path) : (g.modPath p f).hf = g.hf := rfl
@[simp] theorem Group.modPath_fslots (g : Group) (p : Nat) (f : Path → Path) : (g.modPath p f).fslots = g.fslots := rfl
@[simp] theorem Group.modPath_ages (g : Group) (p : Nat) (f : Path → Path) : (g.modPath p f).ages = g.ages := rfl
@[simp] theorem Group.modPath_ageValid (g : Group) (p : Nat) (f : Path → Path) : (g.modPath p f).ageValid = g.ageValid := rfl
@[simp] theorem Group.modPath_caches (g : Group) (p : Nat) (f : Path → Path) : (g.modPath p f).caches = g.caches := rfl
@[simp] theorem Group.modPath_cacheValid (g : Group) (p : Nat) (f : Path → Path) : (g.modPath p f).cacheValid = g.cacheValid := rfl
@[simp] theorem Group.modPath_tiles (g : Group) (p : Nat) (f : Path → Path) : (g.modPath p f).tiles = g.tiles := rfl
@[simp] theorem Group.modPath_tpc (g : Group) (p : Nat) (f : Path → Path) : (g.modPath p f).tpc = g.tpc := rfl
@[simp] theorem Group.modPath_tcause (g : Group) (p : Nat) (f : Path → Path) : (g.modPath p f).tcause = g.tcause := rfl
@[simp] theorem Group.modPath_uipc (g : Group) (p : Nat) (f : Path → Path) : (g.modPath p f).uipc = g.uipc := rfl
@[simp] theorem Group.modPath_cbase (g : Group) (p : Nat) (f : Path → Path) : (g.modPath p f).cbase = g.cbase := rfl
@[simp] theorem Group.modPath_csize (g : Group) (p : Nat) (f : Path → Path) : (g.modPath p f).csize = g.csize := rfl
@[simp] theorem Group.modPath_inst (g : Group) (p : Nat) (f : Path → Path) : (g.modPath p f).inst = g.inst := rfl
@[simp] theorem Group.modPath_slices (g : Group) (p : Nat) (f : Path → Path) : (g.modPath p f).slices = g.slices := rfl
@[simp] theorem Group.modPath_cur (g : Group) (p : Nat) (f : Path → Path) : (g.modPath p f).cur = g.cur := rfl
@[simp] theorem Group.modPath_lastPath (g : Group) (p : Nat) (f : Path → Path) : (g.modPath p f).lastPath = g.lastPath := rfl
@[simp] theorem Group.modPath_nextPath (g : Group) (p : Nat) (f : Path → Path) : (g.modPath p f).nextPath = g.nextPath := rfl
@[simp] theorem Group.modPath_hdl (g : Group) (p : Nat) (f : Path → Path) : (g.modPath p f).hdl = g.hdl := rfl
@[simp] theorem Group.modPath_ints (g : Group) (p : Nat) (f : Path → Path) : (g.modPath p f).ints = g.ints := rfl
@[simp] theorem Group.modPath_cnt (g : Group) (p : Nat) (f : Path → Path) : (g.modPath p f).cnt = g.cnt := rfl
@[simp] theorem Group.modPath_seq (g : Group) (p : Nat) (f : Path → Path) : (g.modPath p f).seq = g.seq := rfl
@[simp] theorem Group.modPath_gang (g : Group) (p : Nat) (f : Path → Path) : (g.modPath p f).gang = g.gang := rfl
@[simp] theorem Group.modPath_mxFlags (g : Group) (p : Nat) (f : Path → Path) : (g.modPath p f).mxFlags = g.mxFlags := rfl
@[simp] theorem Group.modPath_bars (g : Group) (p : Nat) (f : Path → Path) : (g.modPath p f).bars = g.bars := rfl
@[simp] theorem Group.modPath_flags (g : Group) (p : Nat) (f : Path → Path) : (g.modPath p f).flags = g.flags := rfl
@[simp] theorem Group.modPath_wake (g : Group) (p : Nat) (f : Path → Path) : (g.modPath p f).wake = g.wake := rfl
@[simp] theorem Group.modPath_drowsy (g : Group) (p : Nat) (f : Path → Path) : (g.modPath p f).drowsy = g.drowsy := rfl
@[simp] theorem Group.modPath_linkLost (g : Group) (p : Nat) (f : Path → Path) : (g.modPath p f).linkLost = g.linkLost := rfl
@[simp] theorem Group.modPath_passed (g : Group) (p : Nat) (f : Path → Path) : (g.modPath p f).passed = g.passed := rfl
@[simp] theorem Group.modPath_absentSince (g : Group) (p : Nat) (f : Path → Path) : (g.modPath p f).absentSince = g.absentSince := rfl
@[simp] theorem Group.modPath_setSince (g : Group) (p : Nat) (f : Path → Path) : (g.modPath p f).setSince = g.setSince := rfl
@[simp] theorem Group.modPath_readySince (g : Group) (p : Nat) (f : Path → Path) : (g.modPath p f).readySince = g.readySince := rfl
@[simp] theorem Group.modPath_issueFrom (g : Group) (p : Nat) (f : Path → Path) : (g.modPath p f).issueFrom = g.issueFrom := rfl
@[simp] theorem Group.modPath_lastIssue (g : Group) (p : Nat) (f : Path → Path) : (g.modPath p f).lastIssue = g.lastIssue := rfl
@[simp] theorem Group.modPath_bound (g : Group) (p : Nat) (f : Path → Path) : (g.modPath p f).bound = g.bound := rfl
@[simp] theorem Group.modPath_late (g : Group) (p : Nat) (f : Path → Path) : (g.modPath p f).late = g.late := rfl
@[simp] theorem Group.modPath_soft (g : Group) (p : Nat) (f : Path → Path) : (g.modPath p f).soft = g.soft := rfl
@[simp] theorem Group.modPath_yielding (g : Group) (p : Nat) (f : Path → Path) : (g.modPath p f).yielding = g.yielding := rfl
@[simp] theorem Group.modPath_xfer (g : Group) (p : Nat) (f : Path → Path) : (g.modPath p f).xfer = g.xfer := rfl
@[simp] theorem Group.modPath_fw (g : Group) (p : Nat) (f : Path → Path) : (g.modPath p f).fw = g.fw := rfl

/-! ### Group.push -/

@[simp] theorem Group.push_unit (g : Group) (v : Lanes) (m : LaneMask) : (g.push v m).unit = g.unit := rfl
@[simp] theorem Group.push_serial (g : Group) (v : Lanes) (m : LaneMask) : (g.push v m).serial = g.serial := rfl
@[simp] theorem Group.push_kind (g : Group) (v : Lanes) (m : LaneMask) : (g.push v m).kind = g.kind := rfl
@[simp] theorem Group.push_st (g : Group) (v : Lanes) (m : LaneMask) : (g.push v m).st = g.st := rfl
@[simp] theorem Group.push_ctx (g : Group) (v : Lanes) (m : LaneMask) : (g.push v m).ctx = g.ctx := rfl
@[simp] theorem Group.push_part (g : Group) (v : Lanes) (m : LaneMask) : (g.push v m).part = g.part := rfl
@[simp] theorem Group.push_world (g : Group) (v : Lanes) (m : LaneMask) : (g.push v m).world = g.world := rfl
@[simp] theorem Group.push_gid (g : Group) (v : Lanes) (m : LaneMask) : (g.push v m).gid = g.gid := rfl
@[simp] theorem Group.push_bid (g : Group) (v : Lanes) (m : LaneMask) : (g.push v m).bid = g.bid := rfl
@[simp] theorem Group.push_cid (g : Group) (v : Lanes) (m : LaneMask) : (g.push v m).cid = g.cid := rfl
@[simp] theorem Group.push_kernel (g : Group) (v : Lanes) (m : LaneMask) : (g.push v m).kernel = g.kernel := rfl
@[simp] theorem Group.push_alloc (g : Group) (v : Lanes) (m : LaneMask) : (g.push v m).alloc = g.alloc := rfl
@[simp] theorem Group.push_acc (g : Group) (v : Lanes) (m : LaneMask) : (g.push v m).acc = g.acc := rfl
@[simp] theorem Group.push_gregs (g : Group) (v : Lanes) (m : LaneMask) : (g.push v m).gregs = g.gregs := rfl
@[simp] theorem Group.push_sregs (g : Group) (v : Lanes) (m : LaneMask) : (g.push v m).sregs = g.sregs := rfl
@[simp] theorem Group.push_preds (g : Group) (v : Lanes) (m : LaneMask) : (g.push v m).preds = g.preds := rfl
@[simp] theorem Group.push_shapes (g : Group) (v : Lanes) (m : LaneMask) : (g.push v m).shapes = g.shapes := rfl
@[simp] theorem Group.push_hf (g : Group) (v : Lanes) (m : LaneMask) : (g.push v m).hf = g.hf := rfl
@[simp] theorem Group.push_fslots (g : Group) (v : Lanes) (m : LaneMask) : (g.push v m).fslots = g.fslots := rfl
@[simp] theorem Group.push_caches (g : Group) (v : Lanes) (m : LaneMask) : (g.push v m).caches = g.caches := rfl
@[simp] theorem Group.push_cacheValid (g : Group) (v : Lanes) (m : LaneMask) : (g.push v m).cacheValid = g.cacheValid := rfl
@[simp] theorem Group.push_tiles (g : Group) (v : Lanes) (m : LaneMask) : (g.push v m).tiles = g.tiles := rfl
@[simp] theorem Group.push_tpc (g : Group) (v : Lanes) (m : LaneMask) : (g.push v m).tpc = g.tpc := rfl
@[simp] theorem Group.push_tcause (g : Group) (v : Lanes) (m : LaneMask) : (g.push v m).tcause = g.tcause := rfl
@[simp] theorem Group.push_uipc (g : Group) (v : Lanes) (m : LaneMask) : (g.push v m).uipc = g.uipc := rfl
@[simp] theorem Group.push_cbase (g : Group) (v : Lanes) (m : LaneMask) : (g.push v m).cbase = g.cbase := rfl
@[simp] theorem Group.push_csize (g : Group) (v : Lanes) (m : LaneMask) : (g.push v m).csize = g.csize := rfl
@[simp] theorem Group.push_inst (g : Group) (v : Lanes) (m : LaneMask) : (g.push v m).inst = g.inst := rfl
@[simp] theorem Group.push_slices (g : Group) (v : Lanes) (m : LaneMask) : (g.push v m).slices = g.slices := rfl
@[simp] theorem Group.push_paths (g : Group) (v : Lanes) (m : LaneMask) : (g.push v m).paths = g.paths := rfl
@[simp] theorem Group.push_cur (g : Group) (v : Lanes) (m : LaneMask) : (g.push v m).cur = g.cur := rfl
@[simp] theorem Group.push_lastPath (g : Group) (v : Lanes) (m : LaneMask) : (g.push v m).lastPath = g.lastPath := rfl
@[simp] theorem Group.push_nextPath (g : Group) (v : Lanes) (m : LaneMask) : (g.push v m).nextPath = g.nextPath := rfl
@[simp] theorem Group.push_hdl (g : Group) (v : Lanes) (m : LaneMask) : (g.push v m).hdl = g.hdl := rfl
@[simp] theorem Group.push_ints (g : Group) (v : Lanes) (m : LaneMask) : (g.push v m).ints = g.ints := rfl
@[simp] theorem Group.push_cnt (g : Group) (v : Lanes) (m : LaneMask) : (g.push v m).cnt = g.cnt := rfl
@[simp] theorem Group.push_seq (g : Group) (v : Lanes) (m : LaneMask) : (g.push v m).seq = g.seq := rfl
@[simp] theorem Group.push_gang (g : Group) (v : Lanes) (m : LaneMask) : (g.push v m).gang = g.gang := rfl
@[simp] theorem Group.push_mxFlags (g : Group) (v : Lanes) (m : LaneMask) : (g.push v m).mxFlags = g.mxFlags := rfl
@[simp] theorem Group.push_bars (g : Group) (v : Lanes) (m : LaneMask) : (g.push v m).bars = g.bars := rfl
@[simp] theorem Group.push_flags (g : Group) (v : Lanes) (m : LaneMask) : (g.push v m).flags = g.flags := rfl
@[simp] theorem Group.push_wake (g : Group) (v : Lanes) (m : LaneMask) : (g.push v m).wake = g.wake := rfl
@[simp] theorem Group.push_drowsy (g : Group) (v : Lanes) (m : LaneMask) : (g.push v m).drowsy = g.drowsy := rfl
@[simp] theorem Group.push_linkLost (g : Group) (v : Lanes) (m : LaneMask) : (g.push v m).linkLost = g.linkLost := rfl
@[simp] theorem Group.push_passed (g : Group) (v : Lanes) (m : LaneMask) : (g.push v m).passed = g.passed := rfl
@[simp] theorem Group.push_absentSince (g : Group) (v : Lanes) (m : LaneMask) : (g.push v m).absentSince = g.absentSince := rfl
@[simp] theorem Group.push_setSince (g : Group) (v : Lanes) (m : LaneMask) : (g.push v m).setSince = g.setSince := rfl
@[simp] theorem Group.push_readySince (g : Group) (v : Lanes) (m : LaneMask) : (g.push v m).readySince = g.readySince := rfl
@[simp] theorem Group.push_issueFrom (g : Group) (v : Lanes) (m : LaneMask) : (g.push v m).issueFrom = g.issueFrom := rfl
@[simp] theorem Group.push_lastIssue (g : Group) (v : Lanes) (m : LaneMask) : (g.push v m).lastIssue = g.lastIssue := rfl
@[simp] theorem Group.push_bound (g : Group) (v : Lanes) (m : LaneMask) : (g.push v m).bound = g.bound := rfl
@[simp] theorem Group.push_late (g : Group) (v : Lanes) (m : LaneMask) : (g.push v m).late = g.late := rfl
@[simp] theorem Group.push_soft (g : Group) (v : Lanes) (m : LaneMask) : (g.push v m).soft = g.soft := rfl
@[simp] theorem Group.push_yielding (g : Group) (v : Lanes) (m : LaneMask) : (g.push v m).yielding = g.yielding := rfl
@[simp] theorem Group.push_xfer (g : Group) (v : Lanes) (m : LaneMask) : (g.push v m).xfer = g.xfer := rfl
@[simp] theorem Group.push_fw (g : Group) (v : Lanes) (m : LaneMask) : (g.push v m).fw = g.fw := rfl

/-! ### Group.clearAges -/

@[simp] theorem Group.clearAges_unit (g : Group) : (g.clearAges).unit = g.unit := rfl
@[simp] theorem Group.clearAges_serial (g : Group) : (g.clearAges).serial = g.serial := rfl
@[simp] theorem Group.clearAges_kind (g : Group) : (g.clearAges).kind = g.kind := rfl
@[simp] theorem Group.clearAges_st (g : Group) : (g.clearAges).st = g.st := rfl
@[simp] theorem Group.clearAges_ctx (g : Group) : (g.clearAges).ctx = g.ctx := rfl
@[simp] theorem Group.clearAges_part (g : Group) : (g.clearAges).part = g.part := rfl
@[simp] theorem Group.clearAges_world (g : Group) : (g.clearAges).world = g.world := rfl
@[simp] theorem Group.clearAges_gid (g : Group) : (g.clearAges).gid = g.gid := rfl
@[simp] theorem Group.clearAges_bid (g : Group) : (g.clearAges).bid = g.bid := rfl
@[simp] theorem Group.clearAges_cid (g : Group) : (g.clearAges).cid = g.cid := rfl
@[simp] theorem Group.clearAges_kernel (g : Group) : (g.clearAges).kernel = g.kernel := rfl
@[simp] theorem Group.clearAges_alloc (g : Group) : (g.clearAges).alloc = g.alloc := rfl
@[simp] theorem Group.clearAges_acc (g : Group) : (g.clearAges).acc = g.acc := rfl
@[simp] theorem Group.clearAges_gregs (g : Group) : (g.clearAges).gregs = g.gregs := rfl
@[simp] theorem Group.clearAges_sregs (g : Group) : (g.clearAges).sregs = g.sregs := rfl
@[simp] theorem Group.clearAges_preds (g : Group) : (g.clearAges).preds = g.preds := rfl
@[simp] theorem Group.clearAges_shapes (g : Group) : (g.clearAges).shapes = g.shapes := rfl
@[simp] theorem Group.clearAges_hf (g : Group) : (g.clearAges).hf = g.hf := rfl
@[simp] theorem Group.clearAges_fslots (g : Group) : (g.clearAges).fslots = g.fslots := rfl
@[simp] theorem Group.clearAges_ages (g : Group) : (g.clearAges).ages = g.ages := rfl
@[simp] theorem Group.clearAges_caches (g : Group) : (g.clearAges).caches = g.caches := rfl
@[simp] theorem Group.clearAges_cacheValid (g : Group) : (g.clearAges).cacheValid = g.cacheValid := rfl
@[simp] theorem Group.clearAges_tiles (g : Group) : (g.clearAges).tiles = g.tiles := rfl
@[simp] theorem Group.clearAges_tpc (g : Group) : (g.clearAges).tpc = g.tpc := rfl
@[simp] theorem Group.clearAges_tcause (g : Group) : (g.clearAges).tcause = g.tcause := rfl
@[simp] theorem Group.clearAges_uipc (g : Group) : (g.clearAges).uipc = g.uipc := rfl
@[simp] theorem Group.clearAges_cbase (g : Group) : (g.clearAges).cbase = g.cbase := rfl
@[simp] theorem Group.clearAges_csize (g : Group) : (g.clearAges).csize = g.csize := rfl
@[simp] theorem Group.clearAges_inst (g : Group) : (g.clearAges).inst = g.inst := rfl
@[simp] theorem Group.clearAges_slices (g : Group) : (g.clearAges).slices = g.slices := rfl
@[simp] theorem Group.clearAges_paths (g : Group) : (g.clearAges).paths = g.paths := rfl
@[simp] theorem Group.clearAges_cur (g : Group) : (g.clearAges).cur = g.cur := rfl
@[simp] theorem Group.clearAges_lastPath (g : Group) : (g.clearAges).lastPath = g.lastPath := rfl
@[simp] theorem Group.clearAges_nextPath (g : Group) : (g.clearAges).nextPath = g.nextPath := rfl
@[simp] theorem Group.clearAges_hdl (g : Group) : (g.clearAges).hdl = g.hdl := rfl
@[simp] theorem Group.clearAges_ints (g : Group) : (g.clearAges).ints = g.ints := rfl
@[simp] theorem Group.clearAges_cnt (g : Group) : (g.clearAges).cnt = g.cnt := rfl
@[simp] theorem Group.clearAges_seq (g : Group) : (g.clearAges).seq = g.seq := rfl
@[simp] theorem Group.clearAges_gang (g : Group) : (g.clearAges).gang = g.gang := rfl
@[simp] theorem Group.clearAges_mxFlags (g : Group) : (g.clearAges).mxFlags = g.mxFlags := rfl
@[simp] theorem Group.clearAges_bars (g : Group) : (g.clearAges).bars = g.bars := rfl
@[simp] theorem Group.clearAges_flags (g : Group) : (g.clearAges).flags = g.flags := rfl
@[simp] theorem Group.clearAges_wake (g : Group) : (g.clearAges).wake = g.wake := rfl
@[simp] theorem Group.clearAges_drowsy (g : Group) : (g.clearAges).drowsy = g.drowsy := rfl
@[simp] theorem Group.clearAges_linkLost (g : Group) : (g.clearAges).linkLost = g.linkLost := rfl
@[simp] theorem Group.clearAges_passed (g : Group) : (g.clearAges).passed = g.passed := rfl
@[simp] theorem Group.clearAges_absentSince (g : Group) : (g.clearAges).absentSince = g.absentSince := rfl
@[simp] theorem Group.clearAges_setSince (g : Group) : (g.clearAges).setSince = g.setSince := rfl
@[simp] theorem Group.clearAges_readySince (g : Group) : (g.clearAges).readySince = g.readySince := rfl
@[simp] theorem Group.clearAges_issueFrom (g : Group) : (g.clearAges).issueFrom = g.issueFrom := rfl
@[simp] theorem Group.clearAges_lastIssue (g : Group) : (g.clearAges).lastIssue = g.lastIssue := rfl
@[simp] theorem Group.clearAges_bound (g : Group) : (g.clearAges).bound = g.bound := rfl
@[simp] theorem Group.clearAges_late (g : Group) : (g.clearAges).late = g.late := rfl
@[simp] theorem Group.clearAges_soft (g : Group) : (g.clearAges).soft = g.soft := rfl
@[simp] theorem Group.clearAges_yielding (g : Group) : (g.clearAges).yielding = g.yielding := rfl
@[simp] theorem Group.clearAges_xfer (g : Group) : (g.clearAges).xfer = g.xfer := rfl
@[simp] theorem Group.clearAges_fw (g : Group) : (g.clearAges).fw = g.fw := rfl

/-! ### Group.clearCache -/

@[simp] theorem Group.clearCache_unit (g : Group) : (g.clearCache).unit = g.unit := rfl
@[simp] theorem Group.clearCache_serial (g : Group) : (g.clearCache).serial = g.serial := rfl
@[simp] theorem Group.clearCache_kind (g : Group) : (g.clearCache).kind = g.kind := rfl
@[simp] theorem Group.clearCache_st (g : Group) : (g.clearCache).st = g.st := rfl
@[simp] theorem Group.clearCache_ctx (g : Group) : (g.clearCache).ctx = g.ctx := rfl
@[simp] theorem Group.clearCache_part (g : Group) : (g.clearCache).part = g.part := rfl
@[simp] theorem Group.clearCache_world (g : Group) : (g.clearCache).world = g.world := rfl
@[simp] theorem Group.clearCache_gid (g : Group) : (g.clearCache).gid = g.gid := rfl
@[simp] theorem Group.clearCache_bid (g : Group) : (g.clearCache).bid = g.bid := rfl
@[simp] theorem Group.clearCache_cid (g : Group) : (g.clearCache).cid = g.cid := rfl
@[simp] theorem Group.clearCache_kernel (g : Group) : (g.clearCache).kernel = g.kernel := rfl
@[simp] theorem Group.clearCache_alloc (g : Group) : (g.clearCache).alloc = g.alloc := rfl
@[simp] theorem Group.clearCache_acc (g : Group) : (g.clearCache).acc = g.acc := rfl
@[simp] theorem Group.clearCache_gregs (g : Group) : (g.clearCache).gregs = g.gregs := rfl
@[simp] theorem Group.clearCache_sregs (g : Group) : (g.clearCache).sregs = g.sregs := rfl
@[simp] theorem Group.clearCache_preds (g : Group) : (g.clearCache).preds = g.preds := rfl
@[simp] theorem Group.clearCache_shapes (g : Group) : (g.clearCache).shapes = g.shapes := rfl
@[simp] theorem Group.clearCache_hf (g : Group) : (g.clearCache).hf = g.hf := rfl
@[simp] theorem Group.clearCache_fslots (g : Group) : (g.clearCache).fslots = g.fslots := rfl
@[simp] theorem Group.clearCache_ages (g : Group) : (g.clearCache).ages = g.ages := rfl
@[simp] theorem Group.clearCache_ageValid (g : Group) : (g.clearCache).ageValid = g.ageValid := rfl
@[simp] theorem Group.clearCache_caches (g : Group) : (g.clearCache).caches = g.caches := rfl
@[simp] theorem Group.clearCache_tiles (g : Group) : (g.clearCache).tiles = g.tiles := rfl
@[simp] theorem Group.clearCache_tpc (g : Group) : (g.clearCache).tpc = g.tpc := rfl
@[simp] theorem Group.clearCache_tcause (g : Group) : (g.clearCache).tcause = g.tcause := rfl
@[simp] theorem Group.clearCache_uipc (g : Group) : (g.clearCache).uipc = g.uipc := rfl
@[simp] theorem Group.clearCache_cbase (g : Group) : (g.clearCache).cbase = g.cbase := rfl
@[simp] theorem Group.clearCache_csize (g : Group) : (g.clearCache).csize = g.csize := rfl
@[simp] theorem Group.clearCache_inst (g : Group) : (g.clearCache).inst = g.inst := rfl
@[simp] theorem Group.clearCache_slices (g : Group) : (g.clearCache).slices = g.slices := rfl
@[simp] theorem Group.clearCache_paths (g : Group) : (g.clearCache).paths = g.paths := rfl
@[simp] theorem Group.clearCache_cur (g : Group) : (g.clearCache).cur = g.cur := rfl
@[simp] theorem Group.clearCache_lastPath (g : Group) : (g.clearCache).lastPath = g.lastPath := rfl
@[simp] theorem Group.clearCache_nextPath (g : Group) : (g.clearCache).nextPath = g.nextPath := rfl
@[simp] theorem Group.clearCache_hdl (g : Group) : (g.clearCache).hdl = g.hdl := rfl
@[simp] theorem Group.clearCache_ints (g : Group) : (g.clearCache).ints = g.ints := rfl
@[simp] theorem Group.clearCache_cnt (g : Group) : (g.clearCache).cnt = g.cnt := rfl
@[simp] theorem Group.clearCache_seq (g : Group) : (g.clearCache).seq = g.seq := rfl
@[simp] theorem Group.clearCache_gang (g : Group) : (g.clearCache).gang = g.gang := rfl
@[simp] theorem Group.clearCache_mxFlags (g : Group) : (g.clearCache).mxFlags = g.mxFlags := rfl
@[simp] theorem Group.clearCache_bars (g : Group) : (g.clearCache).bars = g.bars := rfl
@[simp] theorem Group.clearCache_flags (g : Group) : (g.clearCache).flags = g.flags := rfl
@[simp] theorem Group.clearCache_wake (g : Group) : (g.clearCache).wake = g.wake := rfl
@[simp] theorem Group.clearCache_drowsy (g : Group) : (g.clearCache).drowsy = g.drowsy := rfl
@[simp] theorem Group.clearCache_linkLost (g : Group) : (g.clearCache).linkLost = g.linkLost := rfl
@[simp] theorem Group.clearCache_passed (g : Group) : (g.clearCache).passed = g.passed := rfl
@[simp] theorem Group.clearCache_absentSince (g : Group) : (g.clearCache).absentSince = g.absentSince := rfl
@[simp] theorem Group.clearCache_setSince (g : Group) : (g.clearCache).setSince = g.setSince := rfl
@[simp] theorem Group.clearCache_readySince (g : Group) : (g.clearCache).readySince = g.readySince := rfl
@[simp] theorem Group.clearCache_issueFrom (g : Group) : (g.clearCache).issueFrom = g.issueFrom := rfl
@[simp] theorem Group.clearCache_lastIssue (g : Group) : (g.clearCache).lastIssue = g.lastIssue := rfl
@[simp] theorem Group.clearCache_bound (g : Group) : (g.clearCache).bound = g.bound := rfl
@[simp] theorem Group.clearCache_late (g : Group) : (g.clearCache).late = g.late := rfl
@[simp] theorem Group.clearCache_soft (g : Group) : (g.clearCache).soft = g.soft := rfl
@[simp] theorem Group.clearCache_yielding (g : Group) : (g.clearCache).yielding = g.yielding := rfl
@[simp] theorem Group.clearCache_xfer (g : Group) : (g.clearCache).xfer = g.xfer := rfl
@[simp] theorem Group.clearCache_fw (g : Group) : (g.clearCache).fw = g.fw := rfl

/-! ### Group.clearUpper -/

@[simp] theorem Group.clearUpper_unit (g : Group) : (g.clearUpper).unit = g.unit := rfl
@[simp] theorem Group.clearUpper_serial (g : Group) : (g.clearUpper).serial = g.serial := rfl
@[simp] theorem Group.clearUpper_kind (g : Group) : (g.clearUpper).kind = g.kind := rfl
@[simp] theorem Group.clearUpper_st (g : Group) : (g.clearUpper).st = g.st := rfl
@[simp] theorem Group.clearUpper_ctx (g : Group) : (g.clearUpper).ctx = g.ctx := rfl
@[simp] theorem Group.clearUpper_part (g : Group) : (g.clearUpper).part = g.part := rfl
@[simp] theorem Group.clearUpper_world (g : Group) : (g.clearUpper).world = g.world := rfl
@[simp] theorem Group.clearUpper_gid (g : Group) : (g.clearUpper).gid = g.gid := rfl
@[simp] theorem Group.clearUpper_bid (g : Group) : (g.clearUpper).bid = g.bid := rfl
@[simp] theorem Group.clearUpper_cid (g : Group) : (g.clearUpper).cid = g.cid := rfl
@[simp] theorem Group.clearUpper_kernel (g : Group) : (g.clearUpper).kernel = g.kernel := rfl
@[simp] theorem Group.clearUpper_alloc (g : Group) : (g.clearUpper).alloc = g.alloc := rfl
@[simp] theorem Group.clearUpper_acc (g : Group) : (g.clearUpper).acc = g.acc := rfl
@[simp] theorem Group.clearUpper_gregs (g : Group) : (g.clearUpper).gregs = g.gregs := rfl
@[simp] theorem Group.clearUpper_sregs (g : Group) : (g.clearUpper).sregs = g.sregs := rfl
@[simp] theorem Group.clearUpper_preds (g : Group) : (g.clearUpper).preds = g.preds := rfl
@[simp] theorem Group.clearUpper_shapes (g : Group) : (g.clearUpper).shapes = g.shapes := rfl
@[simp] theorem Group.clearUpper_hf (g : Group) : (g.clearUpper).hf = g.hf := rfl
@[simp] theorem Group.clearUpper_fslots (g : Group) : (g.clearUpper).fslots = g.fslots := rfl
@[simp] theorem Group.clearUpper_ages (g : Group) : (g.clearUpper).ages = g.ages := rfl
@[simp] theorem Group.clearUpper_caches (g : Group) : (g.clearUpper).caches = g.caches := rfl
@[simp] theorem Group.clearUpper_tiles (g : Group) : (g.clearUpper).tiles = g.tiles := rfl
@[simp] theorem Group.clearUpper_tpc (g : Group) : (g.clearUpper).tpc = g.tpc := rfl
@[simp] theorem Group.clearUpper_tcause (g : Group) : (g.clearUpper).tcause = g.tcause := rfl
@[simp] theorem Group.clearUpper_uipc (g : Group) : (g.clearUpper).uipc = g.uipc := rfl
@[simp] theorem Group.clearUpper_cbase (g : Group) : (g.clearUpper).cbase = g.cbase := rfl
@[simp] theorem Group.clearUpper_csize (g : Group) : (g.clearUpper).csize = g.csize := rfl
@[simp] theorem Group.clearUpper_inst (g : Group) : (g.clearUpper).inst = g.inst := rfl
@[simp] theorem Group.clearUpper_slices (g : Group) : (g.clearUpper).slices = g.slices := rfl
@[simp] theorem Group.clearUpper_paths (g : Group) : (g.clearUpper).paths = g.paths := rfl
@[simp] theorem Group.clearUpper_cur (g : Group) : (g.clearUpper).cur = g.cur := rfl
@[simp] theorem Group.clearUpper_lastPath (g : Group) : (g.clearUpper).lastPath = g.lastPath := rfl
@[simp] theorem Group.clearUpper_nextPath (g : Group) : (g.clearUpper).nextPath = g.nextPath := rfl
@[simp] theorem Group.clearUpper_hdl (g : Group) : (g.clearUpper).hdl = g.hdl := rfl
@[simp] theorem Group.clearUpper_ints (g : Group) : (g.clearUpper).ints = g.ints := rfl
@[simp] theorem Group.clearUpper_cnt (g : Group) : (g.clearUpper).cnt = g.cnt := rfl
@[simp] theorem Group.clearUpper_seq (g : Group) : (g.clearUpper).seq = g.seq := rfl
@[simp] theorem Group.clearUpper_gang (g : Group) : (g.clearUpper).gang = g.gang := rfl
@[simp] theorem Group.clearUpper_mxFlags (g : Group) : (g.clearUpper).mxFlags = g.mxFlags := rfl
@[simp] theorem Group.clearUpper_bars (g : Group) : (g.clearUpper).bars = g.bars := rfl
@[simp] theorem Group.clearUpper_flags (g : Group) : (g.clearUpper).flags = g.flags := rfl
@[simp] theorem Group.clearUpper_wake (g : Group) : (g.clearUpper).wake = g.wake := rfl
@[simp] theorem Group.clearUpper_drowsy (g : Group) : (g.clearUpper).drowsy = g.drowsy := rfl
@[simp] theorem Group.clearUpper_linkLost (g : Group) : (g.clearUpper).linkLost = g.linkLost := rfl
@[simp] theorem Group.clearUpper_passed (g : Group) : (g.clearUpper).passed = g.passed := rfl
@[simp] theorem Group.clearUpper_absentSince (g : Group) : (g.clearUpper).absentSince = g.absentSince := rfl
@[simp] theorem Group.clearUpper_setSince (g : Group) : (g.clearUpper).setSince = g.setSince := rfl
@[simp] theorem Group.clearUpper_readySince (g : Group) : (g.clearUpper).readySince = g.readySince := rfl
@[simp] theorem Group.clearUpper_issueFrom (g : Group) : (g.clearUpper).issueFrom = g.issueFrom := rfl
@[simp] theorem Group.clearUpper_lastIssue (g : Group) : (g.clearUpper).lastIssue = g.lastIssue := rfl
@[simp] theorem Group.clearUpper_bound (g : Group) : (g.clearUpper).bound = g.bound := rfl
@[simp] theorem Group.clearUpper_late (g : Group) : (g.clearUpper).late = g.late := rfl
@[simp] theorem Group.clearUpper_soft (g : Group) : (g.clearUpper).soft = g.soft := rfl
@[simp] theorem Group.clearUpper_yielding (g : Group) : (g.clearUpper).yielding = g.yielding := rfl
@[simp] theorem Group.clearUpper_xfer (g : Group) : (g.clearUpper).xfer = g.xfer := rfl
@[simp] theorem Group.clearUpper_fw (g : Group) : (g.clearUpper).fw = g.fw := rfl

/-! ### Group.writePred -/

@[simp] theorem Group.writePred_unit (g : Group) (n : Nat) (v m : LaneMask) : (g.writePred n v m).unit = g.unit := rfl
@[simp] theorem Group.writePred_serial (g : Group) (n : Nat) (v m : LaneMask) : (g.writePred n v m).serial = g.serial := rfl
@[simp] theorem Group.writePred_kind (g : Group) (n : Nat) (v m : LaneMask) : (g.writePred n v m).kind = g.kind := rfl
@[simp] theorem Group.writePred_st (g : Group) (n : Nat) (v m : LaneMask) : (g.writePred n v m).st = g.st := rfl
@[simp] theorem Group.writePred_ctx (g : Group) (n : Nat) (v m : LaneMask) : (g.writePred n v m).ctx = g.ctx := rfl
@[simp] theorem Group.writePred_part (g : Group) (n : Nat) (v m : LaneMask) : (g.writePred n v m).part = g.part := rfl
@[simp] theorem Group.writePred_world (g : Group) (n : Nat) (v m : LaneMask) : (g.writePred n v m).world = g.world := rfl
@[simp] theorem Group.writePred_gid (g : Group) (n : Nat) (v m : LaneMask) : (g.writePred n v m).gid = g.gid := rfl
@[simp] theorem Group.writePred_bid (g : Group) (n : Nat) (v m : LaneMask) : (g.writePred n v m).bid = g.bid := rfl
@[simp] theorem Group.writePred_cid (g : Group) (n : Nat) (v m : LaneMask) : (g.writePred n v m).cid = g.cid := rfl
@[simp] theorem Group.writePred_kernel (g : Group) (n : Nat) (v m : LaneMask) : (g.writePred n v m).kernel = g.kernel := rfl
@[simp] theorem Group.writePred_alloc (g : Group) (n : Nat) (v m : LaneMask) : (g.writePred n v m).alloc = g.alloc := rfl
@[simp] theorem Group.writePred_acc (g : Group) (n : Nat) (v m : LaneMask) : (g.writePred n v m).acc = g.acc := rfl
@[simp] theorem Group.writePred_gregs (g : Group) (n : Nat) (v m : LaneMask) : (g.writePred n v m).gregs = g.gregs := rfl
@[simp] theorem Group.writePred_sregs (g : Group) (n : Nat) (v m : LaneMask) : (g.writePred n v m).sregs = g.sregs := rfl
@[simp] theorem Group.writePred_shapes (g : Group) (n : Nat) (v m : LaneMask) : (g.writePred n v m).shapes = g.shapes := rfl
@[simp] theorem Group.writePred_hf (g : Group) (n : Nat) (v m : LaneMask) : (g.writePred n v m).hf = g.hf := rfl
@[simp] theorem Group.writePred_fslots (g : Group) (n : Nat) (v m : LaneMask) : (g.writePred n v m).fslots = g.fslots := rfl
@[simp] theorem Group.writePred_ages (g : Group) (n : Nat) (v m : LaneMask) : (g.writePred n v m).ages = g.ages := rfl
@[simp] theorem Group.writePred_ageValid (g : Group) (n : Nat) (v m : LaneMask) : (g.writePred n v m).ageValid = g.ageValid := rfl
@[simp] theorem Group.writePred_caches (g : Group) (n : Nat) (v m : LaneMask) : (g.writePred n v m).caches = g.caches := rfl
@[simp] theorem Group.writePred_cacheValid (g : Group) (n : Nat) (v m : LaneMask) : (g.writePred n v m).cacheValid = g.cacheValid := rfl
@[simp] theorem Group.writePred_tiles (g : Group) (n : Nat) (v m : LaneMask) : (g.writePred n v m).tiles = g.tiles := rfl
@[simp] theorem Group.writePred_tpc (g : Group) (n : Nat) (v m : LaneMask) : (g.writePred n v m).tpc = g.tpc := rfl
@[simp] theorem Group.writePred_tcause (g : Group) (n : Nat) (v m : LaneMask) : (g.writePred n v m).tcause = g.tcause := rfl
@[simp] theorem Group.writePred_uipc (g : Group) (n : Nat) (v m : LaneMask) : (g.writePred n v m).uipc = g.uipc := rfl
@[simp] theorem Group.writePred_cbase (g : Group) (n : Nat) (v m : LaneMask) : (g.writePred n v m).cbase = g.cbase := rfl
@[simp] theorem Group.writePred_csize (g : Group) (n : Nat) (v m : LaneMask) : (g.writePred n v m).csize = g.csize := rfl
@[simp] theorem Group.writePred_inst (g : Group) (n : Nat) (v m : LaneMask) : (g.writePred n v m).inst = g.inst := rfl
@[simp] theorem Group.writePred_slices (g : Group) (n : Nat) (v m : LaneMask) : (g.writePred n v m).slices = g.slices := rfl
@[simp] theorem Group.writePred_paths (g : Group) (n : Nat) (v m : LaneMask) : (g.writePred n v m).paths = g.paths := rfl
@[simp] theorem Group.writePred_cur (g : Group) (n : Nat) (v m : LaneMask) : (g.writePred n v m).cur = g.cur := rfl
@[simp] theorem Group.writePred_lastPath (g : Group) (n : Nat) (v m : LaneMask) : (g.writePred n v m).lastPath = g.lastPath := rfl
@[simp] theorem Group.writePred_nextPath (g : Group) (n : Nat) (v m : LaneMask) : (g.writePred n v m).nextPath = g.nextPath := rfl
@[simp] theorem Group.writePred_hdl (g : Group) (n : Nat) (v m : LaneMask) : (g.writePred n v m).hdl = g.hdl := rfl
@[simp] theorem Group.writePred_ints (g : Group) (n : Nat) (v m : LaneMask) : (g.writePred n v m).ints = g.ints := rfl
@[simp] theorem Group.writePred_cnt (g : Group) (n : Nat) (v m : LaneMask) : (g.writePred n v m).cnt = g.cnt := rfl
@[simp] theorem Group.writePred_seq (g : Group) (n : Nat) (v m : LaneMask) : (g.writePred n v m).seq = g.seq := rfl
@[simp] theorem Group.writePred_gang (g : Group) (n : Nat) (v m : LaneMask) : (g.writePred n v m).gang = g.gang := rfl
@[simp] theorem Group.writePred_mxFlags (g : Group) (n : Nat) (v m : LaneMask) : (g.writePred n v m).mxFlags = g.mxFlags := rfl
@[simp] theorem Group.writePred_bars (g : Group) (n : Nat) (v m : LaneMask) : (g.writePred n v m).bars = g.bars := rfl
@[simp] theorem Group.writePred_flags (g : Group) (n : Nat) (v m : LaneMask) : (g.writePred n v m).flags = g.flags := rfl
@[simp] theorem Group.writePred_wake (g : Group) (n : Nat) (v m : LaneMask) : (g.writePred n v m).wake = g.wake := rfl
@[simp] theorem Group.writePred_drowsy (g : Group) (n : Nat) (v m : LaneMask) : (g.writePred n v m).drowsy = g.drowsy := rfl
@[simp] theorem Group.writePred_linkLost (g : Group) (n : Nat) (v m : LaneMask) : (g.writePred n v m).linkLost = g.linkLost := rfl
@[simp] theorem Group.writePred_passed (g : Group) (n : Nat) (v m : LaneMask) : (g.writePred n v m).passed = g.passed := rfl
@[simp] theorem Group.writePred_absentSince (g : Group) (n : Nat) (v m : LaneMask) : (g.writePred n v m).absentSince = g.absentSince := rfl
@[simp] theorem Group.writePred_setSince (g : Group) (n : Nat) (v m : LaneMask) : (g.writePred n v m).setSince = g.setSince := rfl
@[simp] theorem Group.writePred_readySince (g : Group) (n : Nat) (v m : LaneMask) : (g.writePred n v m).readySince = g.readySince := rfl
@[simp] theorem Group.writePred_issueFrom (g : Group) (n : Nat) (v m : LaneMask) : (g.writePred n v m).issueFrom = g.issueFrom := rfl
@[simp] theorem Group.writePred_lastIssue (g : Group) (n : Nat) (v m : LaneMask) : (g.writePred n v m).lastIssue = g.lastIssue := rfl
@[simp] theorem Group.writePred_bound (g : Group) (n : Nat) (v m : LaneMask) : (g.writePred n v m).bound = g.bound := rfl
@[simp] theorem Group.writePred_late (g : Group) (n : Nat) (v m : LaneMask) : (g.writePred n v m).late = g.late := rfl
@[simp] theorem Group.writePred_soft (g : Group) (n : Nat) (v m : LaneMask) : (g.writePred n v m).soft = g.soft := rfl
@[simp] theorem Group.writePred_yielding (g : Group) (n : Nat) (v m : LaneMask) : (g.writePred n v m).yielding = g.yielding := rfl
@[simp] theorem Group.writePred_xfer (g : Group) (n : Nat) (v m : LaneMask) : (g.writePred n v m).xfer = g.xfer := rfl
@[simp] theorem Group.writePred_fw (g : Group) (n : Nat) (v m : LaneMask) : (g.writePred n v m).fw = g.fw := rfl

/-! ### Group.writeCache -/

@[simp] theorem Group.writeCache_unit (g : Group) (n : Nat) (v : Lanes) (m : LaneMask) : (g.writeCache n v m).unit = g.unit := rfl
@[simp] theorem Group.writeCache_serial (g : Group) (n : Nat) (v : Lanes) (m : LaneMask) : (g.writeCache n v m).serial = g.serial := rfl
@[simp] theorem Group.writeCache_kind (g : Group) (n : Nat) (v : Lanes) (m : LaneMask) : (g.writeCache n v m).kind = g.kind := rfl
@[simp] theorem Group.writeCache_st (g : Group) (n : Nat) (v : Lanes) (m : LaneMask) : (g.writeCache n v m).st = g.st := rfl
@[simp] theorem Group.writeCache_ctx (g : Group) (n : Nat) (v : Lanes) (m : LaneMask) : (g.writeCache n v m).ctx = g.ctx := rfl
@[simp] theorem Group.writeCache_part (g : Group) (n : Nat) (v : Lanes) (m : LaneMask) : (g.writeCache n v m).part = g.part := rfl
@[simp] theorem Group.writeCache_world (g : Group) (n : Nat) (v : Lanes) (m : LaneMask) : (g.writeCache n v m).world = g.world := rfl
@[simp] theorem Group.writeCache_gid (g : Group) (n : Nat) (v : Lanes) (m : LaneMask) : (g.writeCache n v m).gid = g.gid := rfl
@[simp] theorem Group.writeCache_bid (g : Group) (n : Nat) (v : Lanes) (m : LaneMask) : (g.writeCache n v m).bid = g.bid := rfl
@[simp] theorem Group.writeCache_cid (g : Group) (n : Nat) (v : Lanes) (m : LaneMask) : (g.writeCache n v m).cid = g.cid := rfl
@[simp] theorem Group.writeCache_kernel (g : Group) (n : Nat) (v : Lanes) (m : LaneMask) : (g.writeCache n v m).kernel = g.kernel := rfl
@[simp] theorem Group.writeCache_alloc (g : Group) (n : Nat) (v : Lanes) (m : LaneMask) : (g.writeCache n v m).alloc = g.alloc := rfl
@[simp] theorem Group.writeCache_acc (g : Group) (n : Nat) (v : Lanes) (m : LaneMask) : (g.writeCache n v m).acc = g.acc := rfl
@[simp] theorem Group.writeCache_gregs (g : Group) (n : Nat) (v : Lanes) (m : LaneMask) : (g.writeCache n v m).gregs = g.gregs := rfl
@[simp] theorem Group.writeCache_sregs (g : Group) (n : Nat) (v : Lanes) (m : LaneMask) : (g.writeCache n v m).sregs = g.sregs := rfl
@[simp] theorem Group.writeCache_preds (g : Group) (n : Nat) (v : Lanes) (m : LaneMask) : (g.writeCache n v m).preds = g.preds := rfl
@[simp] theorem Group.writeCache_shapes (g : Group) (n : Nat) (v : Lanes) (m : LaneMask) : (g.writeCache n v m).shapes = g.shapes := rfl
@[simp] theorem Group.writeCache_hf (g : Group) (n : Nat) (v : Lanes) (m : LaneMask) : (g.writeCache n v m).hf = g.hf := rfl
@[simp] theorem Group.writeCache_fslots (g : Group) (n : Nat) (v : Lanes) (m : LaneMask) : (g.writeCache n v m).fslots = g.fslots := rfl
@[simp] theorem Group.writeCache_ages (g : Group) (n : Nat) (v : Lanes) (m : LaneMask) : (g.writeCache n v m).ages = g.ages := rfl
@[simp] theorem Group.writeCache_ageValid (g : Group) (n : Nat) (v : Lanes) (m : LaneMask) : (g.writeCache n v m).ageValid = g.ageValid := rfl
@[simp] theorem Group.writeCache_tiles (g : Group) (n : Nat) (v : Lanes) (m : LaneMask) : (g.writeCache n v m).tiles = g.tiles := rfl
@[simp] theorem Group.writeCache_tpc (g : Group) (n : Nat) (v : Lanes) (m : LaneMask) : (g.writeCache n v m).tpc = g.tpc := rfl
@[simp] theorem Group.writeCache_tcause (g : Group) (n : Nat) (v : Lanes) (m : LaneMask) : (g.writeCache n v m).tcause = g.tcause := rfl
@[simp] theorem Group.writeCache_uipc (g : Group) (n : Nat) (v : Lanes) (m : LaneMask) : (g.writeCache n v m).uipc = g.uipc := rfl
@[simp] theorem Group.writeCache_cbase (g : Group) (n : Nat) (v : Lanes) (m : LaneMask) : (g.writeCache n v m).cbase = g.cbase := rfl
@[simp] theorem Group.writeCache_csize (g : Group) (n : Nat) (v : Lanes) (m : LaneMask) : (g.writeCache n v m).csize = g.csize := rfl
@[simp] theorem Group.writeCache_inst (g : Group) (n : Nat) (v : Lanes) (m : LaneMask) : (g.writeCache n v m).inst = g.inst := rfl
@[simp] theorem Group.writeCache_slices (g : Group) (n : Nat) (v : Lanes) (m : LaneMask) : (g.writeCache n v m).slices = g.slices := rfl
@[simp] theorem Group.writeCache_paths (g : Group) (n : Nat) (v : Lanes) (m : LaneMask) : (g.writeCache n v m).paths = g.paths := rfl
@[simp] theorem Group.writeCache_cur (g : Group) (n : Nat) (v : Lanes) (m : LaneMask) : (g.writeCache n v m).cur = g.cur := rfl
@[simp] theorem Group.writeCache_lastPath (g : Group) (n : Nat) (v : Lanes) (m : LaneMask) : (g.writeCache n v m).lastPath = g.lastPath := rfl
@[simp] theorem Group.writeCache_nextPath (g : Group) (n : Nat) (v : Lanes) (m : LaneMask) : (g.writeCache n v m).nextPath = g.nextPath := rfl
@[simp] theorem Group.writeCache_hdl (g : Group) (n : Nat) (v : Lanes) (m : LaneMask) : (g.writeCache n v m).hdl = g.hdl := rfl
@[simp] theorem Group.writeCache_ints (g : Group) (n : Nat) (v : Lanes) (m : LaneMask) : (g.writeCache n v m).ints = g.ints := rfl
@[simp] theorem Group.writeCache_cnt (g : Group) (n : Nat) (v : Lanes) (m : LaneMask) : (g.writeCache n v m).cnt = g.cnt := rfl
@[simp] theorem Group.writeCache_seq (g : Group) (n : Nat) (v : Lanes) (m : LaneMask) : (g.writeCache n v m).seq = g.seq := rfl
@[simp] theorem Group.writeCache_gang (g : Group) (n : Nat) (v : Lanes) (m : LaneMask) : (g.writeCache n v m).gang = g.gang := rfl
@[simp] theorem Group.writeCache_mxFlags (g : Group) (n : Nat) (v : Lanes) (m : LaneMask) : (g.writeCache n v m).mxFlags = g.mxFlags := rfl
@[simp] theorem Group.writeCache_bars (g : Group) (n : Nat) (v : Lanes) (m : LaneMask) : (g.writeCache n v m).bars = g.bars := rfl
@[simp] theorem Group.writeCache_flags (g : Group) (n : Nat) (v : Lanes) (m : LaneMask) : (g.writeCache n v m).flags = g.flags := rfl
@[simp] theorem Group.writeCache_wake (g : Group) (n : Nat) (v : Lanes) (m : LaneMask) : (g.writeCache n v m).wake = g.wake := rfl
@[simp] theorem Group.writeCache_drowsy (g : Group) (n : Nat) (v : Lanes) (m : LaneMask) : (g.writeCache n v m).drowsy = g.drowsy := rfl
@[simp] theorem Group.writeCache_linkLost (g : Group) (n : Nat) (v : Lanes) (m : LaneMask) : (g.writeCache n v m).linkLost = g.linkLost := rfl
@[simp] theorem Group.writeCache_passed (g : Group) (n : Nat) (v : Lanes) (m : LaneMask) : (g.writeCache n v m).passed = g.passed := rfl
@[simp] theorem Group.writeCache_absentSince (g : Group) (n : Nat) (v : Lanes) (m : LaneMask) : (g.writeCache n v m).absentSince = g.absentSince := rfl
@[simp] theorem Group.writeCache_setSince (g : Group) (n : Nat) (v : Lanes) (m : LaneMask) : (g.writeCache n v m).setSince = g.setSince := rfl
@[simp] theorem Group.writeCache_readySince (g : Group) (n : Nat) (v : Lanes) (m : LaneMask) : (g.writeCache n v m).readySince = g.readySince := rfl
@[simp] theorem Group.writeCache_issueFrom (g : Group) (n : Nat) (v : Lanes) (m : LaneMask) : (g.writeCache n v m).issueFrom = g.issueFrom := rfl
@[simp] theorem Group.writeCache_lastIssue (g : Group) (n : Nat) (v : Lanes) (m : LaneMask) : (g.writeCache n v m).lastIssue = g.lastIssue := rfl
@[simp] theorem Group.writeCache_bound (g : Group) (n : Nat) (v : Lanes) (m : LaneMask) : (g.writeCache n v m).bound = g.bound := rfl
@[simp] theorem Group.writeCache_late (g : Group) (n : Nat) (v : Lanes) (m : LaneMask) : (g.writeCache n v m).late = g.late := rfl
@[simp] theorem Group.writeCache_soft (g : Group) (n : Nat) (v : Lanes) (m : LaneMask) : (g.writeCache n v m).soft = g.soft := rfl
@[simp] theorem Group.writeCache_yielding (g : Group) (n : Nat) (v : Lanes) (m : LaneMask) : (g.writeCache n v m).yielding = g.yielding := rfl
@[simp] theorem Group.writeCache_xfer (g : Group) (n : Nat) (v : Lanes) (m : LaneMask) : (g.writeCache n v m).xfer = g.xfer := rfl
@[simp] theorem Group.writeCache_fw (g : Group) (n : Nat) (v : Lanes) (m : LaneMask) : (g.writeCache n v m).fw = g.fw := rfl

end Sys2Proof.Machine
end

