-- ==== Sys2Proof/Laws/Memory.lean ====
section
/-!
SUPPORT. Memory.lean: the laws of tables and of memory: read after write, bytes elsewhere, little-endian numbers, and that every
memory operation keeps the canonical form.
-/
namespace Sys2Proof.Machine

/-! ### Tables -/

@[simp] theorem Store.get?_nil {α : Type} (k : Nat) : Store.get? ([] : Store α) k = none := rfl

theorem Store.get?_cons {α : Type} (i : Nat) (v : α) (r : Store α) (k : Nat) :
    Store.get? ((i, v) :: r) k = if i = k then some v else Store.get? r k := rfl

/-- Reading the item that was set. -/
@[simp] theorem Store.get?_set_same {α : Type} (m : Store α) (k : Nat) (v : α) : Store.get? (Store.set m k v) k = some v := by
  induction m with
  | nil => simp [Store.set, Store.get?_cons]
  | cons x r ih =>
    obtain ⟨i, w⟩ := x
    simp only [Store.set]
    split
    · simp [Store.get?_cons]
    · split
      · simp [Store.get?_cons]
      · simp [Store.get?_cons, *]

/-- Setting an item leaves the others. -/
theorem Store.get?_set_other {α : Type} (m : Store α) (k j : Nat) (v : α) (h : j ≠ k) :
    Store.get? (Store.set m k v) j = Store.get? m j := by
  induction m with
  | nil => simp [Store.set, Store.get?_cons, Ne.symm h]
  | cons x r ih =>
    obtain ⟨i, w⟩ := x
    simp only [Store.set]
    split
    · subst_vars; simp [Store.get?_cons, Ne.symm h]
    · split
      · simp [Store.get?_cons, Ne.symm h]
      · simp [Store.get?_cons, ih]

@[simp] theorem Store.getOr_set_same {α : Type} (m : Store α) (k : Nat) (v d : α) : Store.getOr (Store.set m k v) k d = v := by
  simp [Store.getOr]

theorem Store.getOr_set_other {α : Type} (m : Store α) (k j : Nat) (v d : α) (h : j ≠ k) :
    Store.getOr (Store.set m k v) j d = Store.getOr m j d := by
  simp [Store.getOr, Store.get?_set_other m k j v h]

@[simp] theorem Store.get?_del_same {α : Type} (m : Store α) (k : Nat) : Store.get? (Store.del m k) k = none := by
  induction m with
  | nil => rfl
  | cons x r ih =>
    obtain ⟨i, w⟩ := x
    simp only [Store.del]
    split
    · exact ih
    · simp [Store.get?_cons, *]

theorem Store.get?_del_other {α : Type} (m : Store α) (k j : Nat) (h : j ≠ k) : Store.get? (Store.del m k) j = Store.get? m j := by
  induction m with
  | nil => rfl
  | cons x r ih =>
    obtain ⟨i, w⟩ := x
    simp only [Store.del]
    split
    · subst_vars; simp [Store.get?_cons, Ne.symm h, ih]
    · simp [Store.get?_cons, ih]

theorem Store.mem_set {α : Type} (m : Store α) (k : Nat) (v : α) (x : Nat × α) (h : x ∈ Store.set m k v) : x = (k, v) ∨ x ∈ m := by
  induction m with
  | nil => simpa [Store.set] using h
  | cons y r ih =>
    obtain ⟨i, w⟩ := y
    simp only [Store.set] at h
    split at h
    · rcases List.mem_cons.1 h with h | h
      · exact .inl h
      · exact .inr (List.mem_cons_of_mem _ h)
    · split at h
      · rcases List.mem_cons.1 h with h | h
        · exact .inl h
        · exact .inr h
      · rcases List.mem_cons.1 h with h | h
        · exact .inr (h ▸ List.mem_cons_self)
        · rcases ih h with h | h
          · exact .inl h
          · exact .inr (List.mem_cons_of_mem _ h)

theorem Store.mem_del {α : Type} (m : Store α) (k : Nat) (x : Nat × α) (h : x ∈ Store.del m k) : x ∈ m := by
  induction m with
  | nil => exact h
  | cons y r ih =>
    obtain ⟨i, w⟩ := y
    simp only [Store.del] at h
    split at h
    · exact List.mem_cons_of_mem _ (ih h)
    · rcases List.mem_cons.1 h with h | h
      · exact h ▸ List.mem_cons_self
      · exact List.mem_cons_of_mem _ (ih h)

/-- Addresses strictly rising. -/
abbrev Store.rising {α : Type} (m : Store α) : Prop := m.Pairwise fun a b => a.1 < b.1

theorem Store.rising_set {α : Type} (m : Store α) (k : Nat) (v : α) (h : Store.rising m) : Store.rising (Store.set m k v) := by
  induction m with
  | nil => simp [Store.set]
  | cons y r ih =>
    obtain ⟨i, w⟩ := y
    obtain ⟨h1, h2⟩ := List.pairwise_cons.1 h
    simp only [Store.set]
    split
    · subst_vars; exact List.pairwise_cons.2 ⟨h1, h2⟩
    · split
      · refine List.pairwise_cons.2 ⟨fun b hb => ?_, h⟩
        rcases List.mem_cons.1 hb with hb | hb
        · subst hb; assumption
        · exact Nat.lt_trans ‹k < i› (h1 b hb)
      · refine List.pairwise_cons.2 ⟨fun b hb => ?_, ih h2⟩
        rcases Store.mem_set r k v b hb with hb | hb
        · subst hb; simp only; omega
        · exact h1 b hb

theorem Store.rising_del {α : Type} (m : Store α) (k : Nat) (h : Store.rising m) : Store.rising (Store.del m k) := by
  induction m with
  | nil => exact h
  | cons y r ih =>
    obtain ⟨i, w⟩ := y
    obtain ⟨h1, h2⟩ := List.pairwise_cons.1 h
    simp only [Store.del]
    split
    · exact ih h2
    · exact List.pairwise_cons.2 ⟨fun b hb => h1 b (Store.mem_del r k b hb), ih h2⟩

/-! ### The canonical form -/

/-- The canonical form as a list says it: rising addresses, and no entry equal to what an unlisted address reads as. -/
theorem cellsWf_iff (cells : List Host.Cell) :
    cellsWf cells = true ↔ Store.rising cells ∧ ∀ c ∈ cells, c.2 ≠ unlistedByte c.1 := by
  induction cells with
  | nil => simp [cellsWf]
  | cons x r ih =>
    obtain ⟨a, b⟩ := x
    cases r with
    | nil => simp [cellsWf]
    | cons y r =>
      obtain ⟨c, d⟩ := y
      simp only [cellsWf, Bool.and_eq_true, bne_iff_ne, decide_eq_true_eq, ih]
      constructor
      · rintro ⟨⟨hb, hac⟩, hr, hv⟩
        refine ⟨List.pairwise_cons.2 ⟨fun e he => ?_, hr⟩, ?_⟩
        · rcases List.mem_cons.1 he with he | he
          · subst he; exact hac
          · exact Nat.lt_trans hac ((List.pairwise_cons.1 hr).1 e he)
        · intro e he
          rcases List.mem_cons.1 he with he | he
          · subst he; exact hb
          · exact hv e he
      · rintro ⟨hr, hv⟩
        obtain ⟨h1, h2⟩ := List.pairwise_cons.1 hr
        exact ⟨⟨hv _ List.mem_cons_self, h1 _ List.mem_cons_self⟩, h2, fun e he => hv e (List.mem_cons_of_mem _ he)⟩

/-- Writing one byte keeps the canonical form. -/
theorem writeCell_wf (cells : List Host.Cell) (pa : Nat) (b : Byte) (h : cellsWf cells = true) : cellsWf (writeCell cells pa b) = true := by
  obtain ⟨h1, h2⟩ := (cellsWf_iff cells).1 h
  unfold writeCell
  split
  · exact (cellsWf_iff _).2 ⟨Store.rising_del _ _ h1, fun c hc => h2 c (Store.mem_del _ _ _ hc)⟩
  · refine (cellsWf_iff _).2 ⟨Store.rising_set _ _ _ h1, fun c hc => ?_⟩
    rcases Store.mem_set _ _ _ _ hc with hc | hc
    · subst hc; assumption
    · exact h2 c hc

/-- Dropping entries keeps the canonical form. -/
theorem cellsWf_filter (cells : List Host.Cell) (p : Host.Cell → Bool) (h : cellsWf cells = true) : cellsWf (cells.filter p) = true := by
  obtain ⟨h1, h2⟩ := (cellsWf_iff cells).1 h
  exact (cellsWf_iff _).2 ⟨h1.filter p, fun c hc => h2 c (List.mem_filter.1 hc).1⟩

theorem MemSys.setByte_wf (mm : MemSys) (pa : Nat) (b : Byte) (h : mm.wf) : (mm.setByte pa b).wf := writeCell_wf _ _ _ h

theorem MemSys.setBytes_wf (mm : MemSys) (pa : Nat) (bs : List Byte) (h : mm.wf) : (mm.setBytes pa bs).wf := by
  induction bs generalizing mm pa with
  | nil => exact h
  | cons b r ih => exact ih _ _ (mm.setByte_wf pa b h)

/-- A fold that keeps a property at each step keeps it. -/
theorem foldl_keeps {α β : Type} (P : β → Prop) (f : β → α → β) (l : List α) (b : β) (hb : P b) (hf : ∀ b a, P b → P (f b a)) :
    P (l.foldl f b) := by
  induction l generalizing b with
  | nil => exact hb
  | cons a r ih => exact ih _ (hf b a hb)

/-- Keeping old bundles leaves the bytes. -/
@[simp] theorem MemSys.keepOld_cells (mm before : MemSys) (agent : Agent) (bundles : List Nat) :
    (mm.keepOld before agent bundles).cells = mm.cells := by
  unfold MemSys.keepOld
  refine foldl_keeps (fun (m : MemSys) => m.cells = mm.cells) _ _ _ rfl fun m i h => ?_
  dsimp only
  split <;> simpa using h

theorem MemSys.keepOld_wf (mm before : MemSys) (agent : Agent) (bundles : List Nat) (h : mm.wf) :
    (mm.keepOld before agent bundles).wf := by
  simpa [MemSys.wf] using h

theorem MemSys.applyPartial_wf (mm : MemSys) (p : Partial) (h : mm.wf) : (mm.applyPartial p).wf :=
  MemSys.keepOld_wf _ _ _ _ (foldl_keeps MemSys.wf _ _ _ h fun _ _ hm => MemSys.setBytes_wf _ _ _ hm)

theorem MemSys.combine_wf (mm : MemSys) (line : Nat) (h : mm.wf) : (mm.combine line).wf :=
  foldl_keeps MemSys.wf _ _ { mm with partials := mm.partials.filter fun p => p.line != line } h fun m p hm => m.applyPartial_wf p hm

/-- An access by a peer link keeps the canonical form when it acts (R356). -/
theorem MemSys.updatePeer_wf (mm : MemSys) (agent : Agent) (e : PeerElem) (h : mm.wf) : (mm.updatePeer agent e).1.wf :=
  MemSys.keepOld_wf _ _ _ _ (MemSys.setBytes_wf _ _ _ h)

theorem MemSys.actOn_wf (mm : MemSys) (a : PeerAct) (h : mm.wf) : (mm.actOn a).1.wf := by
  cases a with
  | write agent ps => exact foldl_keeps MemSys.wf _ _ _ h fun m e hm => MemSys.keepOld_wf _ _ _ _ (MemSys.setBytes_wf _ _ _ hm)
  | update agent etype es =>
    unfold MemSys.actOn
    refine foldl_keeps (fun (r : MemSys × List Nat) => r.1.wf) _ _ (mm, []) h fun r e hr => ?_
    have := r.1.updatePeer_wf agent e hr
    dsimp only
    exact this
  | shared => exact h

/-- Lanes that act keep the form. -/
theorem MemSys.serveLanes_wf (mm : MemSys) (lines : List Nat) (ls : List FlightLane) (h : mm.wf) : (mm.serveLanes lines ls).1.wf := by
  unfold MemSys.serveLanes
  dsimp only [MemSys.wf]
  refine foldl_keeps (fun (r : MemSys × List FlightLane × Option Word) => r.1.wf) _ ls (mm, [], none) h ?_
  intro r x hr
  have ha (a : PeerAct) : (r.1.actOn a).1.wf := r.1.actOn_wf a hr
  generalize x.act = act
  rcases act with _ | ⟨ag, ps⟩ | ⟨ag, et, es⟩ | _
  · exact hr
  · dsimp only
    split
    · exact ha _
    · exact hr
  · dsimp only
    split
    · exact ha _
    · exact hr
  · obtain ⟨m, q, v⟩ := r
    cases v <;> exact hr

theorem MemSys.serve_wf (mm : MemSys) (lines : List Nat) (token : Nat) (h : mm.wf) : (mm.serve lines token).wf := by
  unfold MemSys.serve
  split
  · exact mm.serveLanes_wf lines _ h
  · split
    · exact mm.serveLanes_wf lines _ h
    · exact h

theorem MemSys.servePeers_wf (mm : MemSys) (lines : List Nat) (h : mm.wf) : (mm.servePeers lines).wf :=
  foldl_keeps MemSys.wf _ _ _ h fun m t hm => m.serve_wf lines t hm

theorem MemSys.settle_wf (mm : MemSys) (pa n : Nat) (h : mm.wf) : (mm.settle pa n).wf := by
  have h' : MemSys.wf (if mm.partials.isEmpty then mm else (linesAt pa n).foldl MemSys.combine mm) := by
    split
    · exact h
    · exact foldl_keeps MemSys.wf _ _ _ h fun m i hm => m.combine_wf _ hm
  unfold MemSys.settle
  dsimp only
  split
  · exact h'
  · exact MemSys.servePeers_wf _ _ h'

theorem State.touch_wf (s : State) (pa n : Nat) (h : s.mm.wf) : (s.touch pa n).mm.wf := s.mm.settle_wf pa n h

theorem State.storeRaw_wf (s : State) (unit pa : Nat) (bs : List Byte) (h : s.mm.wf) : (s.storeRaw unit pa bs).mm.wf := by
  unfold State.storeRaw
  split
  · exact h
  · exact MemSys.keepOld_wf _ _ _ _ (MemSys.setBytes_wf _ _ _ (s.mm.settle_wf _ _ h))

theorem State.store_wf (s : State) (unit pa : Nat) (bs : List Byte) (h : s.mm.wf) : (s.store unit pa bs).mm.wf := by
  unfold State.store
  split
  · exact h
  · exact State.storeRaw_wf _ _ _ _ h

/-- An instruction's writes keep the form. -/
theorem State.storeMany_wf (s : State) (ws : List Write) (h : s.mm.wf) : (s.storeMany ws).mm.wf := by
  unfold State.storeMany State.keepCode
  refine foldl_keeps (fun (s : State) => s.mm.wf) _ _ _ ?_ fun s u hs => MemSys.keepOld_wf _ _ _ _ hs
  refine foldl_keeps MemSys.wf _ _ _ ?_ fun m w hm => MemSys.setBytes_wf _ _ _ hm
  refine foldl_keeps (fun (s : State) => s.mm.wf) _ _ _ h fun s w hs => ?_
  dsimp only
  split
  · exact hs
  · exact s.mm.settle_wf _ _ hs

/-- Memory after reset is in canonical form. -/
theorem reset_wf : State.reset.mm.wf := rfl

/-! ### Bytes -/

/-- Reading the byte that was written. -/
@[simp] theorem MemSys.byte_setByte_same (mm : MemSys) (pa : Nat) (b : Byte) : (mm.setByte pa b).byte pa = b := by
  unfold MemSys.byte MemSys.setByte writeCell
  dsimp only
  split
  · simp [*]
  · simp

/-- Writing a byte leaves the others. -/
theorem MemSys.byte_setByte_other (mm : MemSys) (pa a : Nat) (b : Byte) (h : a ≠ pa) : (mm.setByte pa b).byte a = mm.byte a := by
  unfold MemSys.byte MemSys.setByte writeCell
  dsimp only
  split
  · rw [Store.get?_del_other _ _ _ h]
  · rw [Store.get?_set_other _ _ _ _ h]

/-- Writing bytes leaves every byte outside them. -/
theorem MemSys.byte_setBytes_outside (mm : MemSys) (pa a : Nat) (bs : List Byte) (h : a < pa ∨ pa + bs.length ≤ a) :
    (mm.setBytes pa bs).byte a = mm.byte a := by
  induction bs generalizing mm pa with
  | nil => rfl
  | cons b r ih =>
    simp only [List.length_cons] at h
    rw [MemSys.setBytes, ih, MemSys.byte_setByte_other]
    · omega
    · omega

/-- Reading a byte that was written. -/
theorem MemSys.byte_setBytes_inside (mm : MemSys) (pa i : Nat) (bs : List Byte) (h : i < bs.length) :
    (mm.setBytes pa bs).byte (pa + i) = bs.getD i 0 := by
  induction bs generalizing mm pa i with
  | nil => simp at h
  | cons b r ih =>
    cases i with
    | zero => rw [Nat.add_zero, MemSys.setBytes, MemSys.byte_setBytes_outside _ _ _ _ (by omega)]; simp
    | succ i =>
      have := ih (mm.setByte pa b) (pa + 1) i (by simpa using h)
      rw [MemSys.setBytes, show pa + (i + 1) = pa + 1 + i by omega, this]; simp

@[simp] theorem MemSys.bytes_length (mm : MemSys) (pa n : Nat) : (mm.bytes pa n).length = n := by
  induction n generalizing pa with
  | zero => rfl
  | succ n ih => simp [MemSys.bytes, ih]

/-- Reading the bytes that were written. -/
@[simp] theorem MemSys.bytes_setBytes_same (mm : MemSys) (pa : Nat) (bs : List Byte) : (mm.setBytes pa bs).bytes pa bs.length = bs := by
  induction bs generalizing mm pa with
  | nil => rfl
  | cons b r ih =>
    simp only [List.length_cons, MemSys.bytes, MemSys.setBytes, ih]
    rw [MemSys.byte_setBytes_outside _ _ _ _ (by omega)]; simp

/-! ### Little-endian numbers (R3) -/

@[simp] theorem leBytes_length (v n : Nat) : (leBytes v n).length = n := by
  induction n generalizing v with
  | zero => rfl
  | succ n ih => simp [leBytes, ih]

/-- The number that n little-endian bytes of v hold. -/
@[simp] theorem leNat_leBytes (v n : Nat) : leNat (leBytes v n) = v % 2 ^ (8 * n) := by
  induction n generalizing v with
  | zero => simp [leBytes, leNat, Nat.mod_one]
  | succ n ih =>
    simp only [leBytes, leNat, ih, BitVec.toNat_ofNat]
    have h : 2 ^ (8 * (n + 1)) = 256 * 2 ^ (8 * n) := by rw [show 8 * (n + 1) = 8 + 8 * n by omega, Nat.pow_add]
    rw [h]
    exact Nat.mod_mul.symm

/-- A number written and read again. -/
theorem MemSys.num_setBytes_same (mm : MemSys) (pa v n : Nat) : (mm.setBytes pa (leBytes v n)).num pa n = v % 2 ^ (8 * n) := by
  have h := mm.bytes_setBytes_same pa (leBytes v n)
  rw [leBytes_length] at h
  rw [MemSys.num, h, leNat_leBytes]

end Sys2Proof.Machine
end

