-- ==== Sys2Proof/Laws/Group.lean ====
section
/-!
SUPPORT. Group.lean: what a change of one group leaves of the device, and what each change of registers, predicates and upper
levels leaves of the group.
-/
namespace Sys2Proof.Machine

/-! ### One group of the device -/

theorem find?_map_unit (gs : List Group) (u v : Nat) (f : Group → Group) (hf : ∀ g, g.unit = u → (f g).unit = u) :
    (gs.map fun g => if g.unit = u then f g else g).find? (fun g => g.unit == v) =
    (gs.find? fun g => g.unit == v).map fun g => if g.unit = u then f g else g := by
  induction gs with
  | nil => rfl
  | cons g r ih =>
    by_cases hg : g.unit = u
    · by_cases hv : u = v
      · subst hv; simp [hg, hf g hg]
      · simp [hg, hv, hf g hg]
        simpa using ih
    · by_cases hv : g.unit = v
      · have hn : ¬v = u := fun h => hg (hv.trans h)
        simp [hn, hv]
      · simp [hg, hv]
        simpa using ih

/-- A group changed in its slot. -/
theorem State.grp_modGrp_same (s : State) (u : Nat) (f : Group → Group) (h : s.hasGrp u = true)
    (hf : ∀ g, g.unit = u → (f g).unit = u) : (s.modGrp u f).grp u = f (s.grp u) := by
  unfold State.grp State.modGrp
  rw [find?_map_unit _ _ _ _ hf]
  unfold State.hasGrp at h
  obtain ⟨g, hg⟩ := Option.isSome_iff_exists.mp ((List.find?_isSome).mpr (List.any_eq_true.mp h))
  have hu : g.unit = u := by simpa using List.find?_some hg
  simp [hg, hu]

/-- Every other group stays. -/
theorem State.grp_modGrp_other (s : State) (u v : Nat) (f : Group → Group) (hv : v ≠ u)
    (hf : ∀ g, g.unit = u → (f g).unit = u) : (s.modGrp u f).grp v = s.grp v := by
  unfold State.grp State.modGrp
  rw [find?_map_unit _ _ _ _ hf]
  cases h : s.groups.find? fun g => g.unit == v with
  | none => rfl
  | some g =>
    have hu : g.unit = v := by simpa using List.find?_some h
    simp [hu, hv]

/-- The group found in a slot stands there. -/
theorem State.grp_unit (s : State) (u : Nat) : (s.grp u).unit = u := by
  unfold State.grp
  cases h : s.groups.find? fun g => g.unit == u with
  | none => rfl
  | some g => simpa using List.find?_some h

/-- A change of a group leaves the slots occupied as they were. -/
theorem State.hasGrp_modGrp (s : State) (u v : Nat) (f : Group → Group) (hf : ∀ g, g.unit = u → (f g).unit = u) :
    (s.modGrp u f).hasGrp v = s.hasGrp v := by
  simp only [State.hasGrp, State.modGrp, List.any_map]
  congr 1
  funext g
  simp only [Function.comp]
  by_cases h : g.unit = u
  · simp [h, hf g h]
  · simp [h]

/-- Two changes of one group are one change. -/
theorem State.modGrp_modGrp (s : State) (u : Nat) (f k : Group → Group) (hf : ∀ g, g.unit = u → (f g).unit = u) :
    (s.modGrp u f).modGrp u k = s.modGrp u fun g => k (f g) := by
  simp only [State.modGrp, List.map_map]
  congr 1
  apply List.map_congr_left
  intro g _
  by_cases h : g.unit = u
  · simp [h, hf g h]
  · simp [h]

theorem State.modG_modG (s : State) (f k : Group → Group) (hf : ∀ g, g.unit = s.cur.unit → (f g).unit = s.cur.unit) :
    (s.modG f).modG k = s.modG fun g => k (f g) := State.modGrp_modGrp s _ f k hf

theorem State.g_modG (s : State) (f : Group → Group) (h : s.hasGrp s.cur.unit = true)
    (hf : ∀ g, g.unit = s.cur.unit → (f g).unit = s.cur.unit) : (s.modG f).g = f s.g :=
  State.grp_modGrp_same s _ f h hf

@[simp] theorem State.spend_g (s : State) (n : Nat) : (s.spend n).g = s.g := rfl
@[simp] theorem State.spend_grp (s : State) (n u : Nat) : (s.spend n).grp u = s.grp u := rfl
@[simp] theorem State.spend_p (s : State) (n : Nat) : (s.spend n).p = s.p := rfl
@[simp] theorem State.spend_hasGrp (s : State) (n u : Nat) : (s.spend n).hasGrp u = s.hasGrp u := rfl
@[simp] theorem State.spend_zero (s : State) : s.spend 0 = s := rfl
theorem State.spend_spend (s : State) (m n : Nat) : (s.spend m).spend n = s.spend (m + n) := by
  unfold State.spend; simp only [Nat.add_assoc]
theorem State.spend_modG (s : State) (n : Nat) (f : Group → Group) : (s.spend n).modG f = (s.modG f).spend n := rfl

/-! ### Lanes -/

theorem mem_laneIds (l : Nat) : l ∈ laneIds ↔ l < 32 := by
  constructor
  · intro h
    have : ∀ l ∈ laneIds, l < 32 := by decide
    exact this l h
  · intro h
    have : ∀ l < 32, l ∈ laneIds := by decide
    exact this l h

theorem laneIds_get (l : Nat) (h : l < 32) : laneIds[l]? = some l := by
  have : ∀ l < 32, laneIds[l]? = some l := by decide
  exact this l h

theorem laneIds_get_none (l : Nat) (h : ¬l < 32) : laneIds[l]? = none := by
  apply List.getElem?_eq_none
  have : laneIds.length = 32 := by decide
  omega

/-- The value of a lane of tabulated lanes. -/
theorem Lanes.at_of (f : Nat → Word) (l : Nat) : (Lanes.of f).at l = if l < 32 then f l else 0 := by
  unfold Lanes.at Lanes.of
  rw [List.getD_eq_getElem?_getD, List.getElem?_map]
  by_cases h : l < 32
  · simp [laneIds_get l h, h]
  · simp [laneIds_get_none l h, h]

@[simp] theorem Lanes.at_nil (l : Nat) : Lanes.at [] l = 0 := by simp [Lanes.at]

theorem Lanes.at_uniform (w : Word) (l : Nat) : (Lanes.uniform w).at l = if l < 32 then w else 0 := Lanes.at_of _ l

theorem Lanes.of_congr (f k : Nat → Word) (h : ∀ l, l < 32 → f l = k l) : Lanes.of f = Lanes.of k := by
  unfold Lanes.of
  apply List.map_congr_left
  intro l hl
  exact h l ((mem_laneIds l).mp hl)

/-- The bits of a mask that a test makes. -/
theorem getLsbD_maskOf (f : Nat → Bool) (l : Nat) : (maskOf f).getLsbD l = (decide (l < 32) && f l) := by
  have key : ∀ (ls : List Nat) (m : LaneMask), (∀ x ∈ ls, x < 32) →
      (ls.foldl (fun m l => if f l then m ||| BitVec.ofNat 32 (2 ^ l) else m) m).getLsbD l =
      (m.getLsbD l || (decide (l ∈ ls) && f l)) := by
    intro ls
    induction ls with
    | nil => intro m _; simp
    | cons x r ih =>
      intro m hm
      have hx : x < 32 := hm x (by simp)
      rw [List.foldl_cons, ih _ (fun y hy => hm y (by simp [hy]))]
      have hb : (BitVec.ofNat 32 (2 ^ x)).getLsbD l = decide (l = x) := by
        rw [BitVec.getLsbD_ofNat, Nat.testBit_two_pow]
        by_cases h : l = x
        · subst h; simp [hx]
        · simp [h, Ne.symm h]
      by_cases hf : f x = true
      · rw [if_pos hf, BitVec.getLsbD_or, hb]
        by_cases h : l = x
        · subst h; simp [hf]
        · simp [h]
      · by_cases h : l = x
        · subst h; simp [hf]
        · simp [hf, h]
  unfold maskOf
  rw [key laneIds 0 (fun x hx => (mem_laneIds x).mp hx)]
  by_cases h : l < 32 <;> simp [mem_laneIds, h]

theorem LaneMask.mem_lanes (m : LaneMask) (l : Nat) : l ∈ LaneMask.lanes m ↔ l < 32 ∧ m.getLsbD l = true := by
  simp [LaneMask.lanes, mem_laneIds]

/-- The lowest lane of a mask that has one belongs to it. -/
theorem LaneMask.lowest_mem (m : LaneMask) (h : m ≠ 0) : LaneMask.lowest m < 32 ∧ m.getLsbD (LaneMask.lowest m) = true := by
  have hne : LaneMask.lanes m ≠ [] := by
    intro he
    apply h
    apply BitVec.eq_of_getLsbD_eq
    intro i hi
    have : i ∉ LaneMask.lanes m := by simp [he]
    rw [LaneMask.mem_lanes] at this
    simp at this ⊢
    exact this hi
  obtain ⟨x, r, hx⟩ := List.exists_cons_of_ne_nil hne
  have : LaneMask.lowest m = x := by simp [LaneMask.lowest, hx]
  rw [this]
  exact (LaneMask.mem_lanes m x).mp (by simp [hx])

/-! ### Registers -/

@[simp] theorem Group.setRegState_regVal (g : Group) (r q : Nat) (st : RegState) (l : Nat) :
    ((g.setRegState r st).regVal q).at l = (g.regVal q).at l := by
  unfold Group.setRegState Group.regVal
  by_cases hr : r < 0x30 <;> by_cases hq : q < 0x30 <;> simp only [hr, hq, if_true, if_false]
  · by_cases h : q - 0x10 = r - 0x10
    · rw [h]; simp
    · rw [Store.getOr_set_other _ _ _ _ _ h]
  · by_cases h : q - 0x30 = r - 0x30
    · rw [h]; simp
    · rw [Store.getOr_set_other _ _ _ _ _ h]

/-- The state of a register after one has been set. -/
theorem Group.regState_setRegState (g : Group) (r q : Nat) (st : RegState) (hr : 0x10 ≤ r) (hq : 0x10 ≤ q) :
    (g.setRegState r st).regState q = if q = r then st else g.regState q := by
  unfold Group.setRegState Group.regState
  by_cases hr' : r < 0x30 <;> by_cases hq' : q < 0x30 <;> simp only [hr', hq', if_true, if_false]
  · by_cases h : q = r
    · subst h; simp
    · rw [if_neg h, Store.getOr_set_other _ _ _ _ _ (by omega)]
  · rw [if_neg (by omega)]
  · rw [if_neg (by omega)]
  · by_cases h : q = r
    · subst h; simp
    · rw [if_neg h, Store.getOr_set_other _ _ _ _ _ (by omega)]

theorem Group.writeReg_regVal_other (g : Group) (r q : Nat) (v : Lanes) (m : LaneMask) (hr : 0x10 ≤ r) (hq : 0x10 ≤ q)
    (h : q ≠ r) : (g.writeReg r v m).regVal q = g.regVal q := by
  unfold Group.writeReg Group.regVal
  by_cases hm : m = 0
  · simp [hm]
  · by_cases hr' : r < 0x30 <;> by_cases hq' : q < 0x30 <;> simp only [hm, hr', hq', if_true, if_false]
    · rw [Store.getOr_set_other _ _ _ _ _ (by omega)]
    · rw [Store.getOr_set_other _ _ _ _ _ (by omega)]

theorem Group.writeReg_regState (g : Group) (r q : Nat) (v : Lanes) (m : LaneMask) (hr : 0x10 ≤ r) (hq : 0x10 ≤ q) :
    (g.writeReg r v m).regState q = if q = r ∧ m ≠ 0 then .full else g.regState q := by
  unfold Group.writeReg Group.regState
  by_cases hm : m = 0
  · simp [hm]
  · by_cases hr' : r < 0x30 <;> by_cases hq' : q < 0x30 <;> simp only [hm, hr', hq', if_true, if_false, ne_eq, not_false_eq_true, and_true]
    · by_cases h : q = r
      · subst h; simp
      · rw [if_neg h, Store.getOr_set_other _ _ _ _ _ (by omega)]
    · rw [if_neg (by omega)]
    · rw [if_neg (by omega)]
    · by_cases h : q = r
      · subst h; simp
      · rw [if_neg h, Store.getOr_set_other _ _ _ _ _ (by omega)]

/-- A g register takes the lanes of the mask and keeps the others. -/
theorem Group.writeReg_greg (g : Group) (n : Nat) (v : Lanes) (m : LaneMask) (l : Nat) (hl : l < 32) :
    ((g.writeReg (0x30 + n) v m).regVal (0x30 + n)).at l = if m.getLsbD l then v.at l else (g.regVal (0x30 + n)).at l := by
  have h : ¬(0x30 + n < 0x30) := by omega
  unfold Group.writeReg Group.regVal
  by_cases hm : m = 0
  · simp [hm]
  · simp only [hm, h, if_false, Store.getOr_set_same, mergeLanes, Lanes.at_of, hl, if_true]

/-- An s register takes the value of the lowest lane of the mask. -/
theorem Group.writeReg_sreg (g : Group) (n : Nat) (hn : n < 32) (v : Lanes) (m : LaneMask) (l : Nat) (hl : l < 32) :
    ((g.writeReg (0x10 + n) v m).regVal (0x10 + n)).at l =
      if m ≠ 0 then v.at (LaneMask.lowest m) else (g.regVal (0x10 + n)).at l := by
  have h : 0x10 + n < 0x30 := by omega
  unfold Group.writeReg Group.regVal
  by_cases hm : m = 0
  · simp [hm]
  · have e : (0x10 + n) - 0x10 = n := by omega
    rw [if_neg hm, if_pos h, if_pos h]
    have hm' : ¬m = 0#32 := hm
    simp [hm', Lanes.at_uniform, hl]

theorem Group.regVal_congr (g k : Group) (h1 : g.sregs = k.sregs) (h2 : g.gregs = k.gregs) (r : Nat) :
    g.regVal r = k.regVal r := by simp [Group.regVal, h1, h2]
theorem Group.regState_congr (g k : Group) (h1 : g.sregs = k.sregs) (h2 : g.gregs = k.gregs) (r : Nat) :
    g.regState r = k.regState r := by simp [Group.regState, h1, h2]

/-- A predicate takes the lanes of the mask and keeps the others. -/
theorem Group.pred_writePred (g : Group) (n q : Nat) (v m : LaneMask) :
    (g.writePred n v m).pred q = if q = n then (g.pred n &&& ~~~m) ||| (v &&& m) else g.pred q := by
  unfold Group.writePred Group.pred
  by_cases h : q = n
  · subst h; simp
  · rw [if_neg h]; exact Store.getOr_set_other _ _ _ _ _ h

theorem Group.pred_congr (g k : Group) (h : g.preds = k.preds) (q : Nat) : g.pred q = k.pred q := by simp [Group.pred, h]

/-- Registers set dead. -/
theorem Group.foldl_dead_regState (ds : List Nat) (g : Group) (q : Nat) (hd : ∀ r ∈ ds, 0x10 ≤ r) (hq : 0x10 ≤ q) :
    (ds.foldl (fun g r => g.setRegState r .dead) g).regState q = if q ∈ ds then .dead else g.regState q := by
  induction ds generalizing g with
  | nil => simp
  | cons r rest ih =>
    rw [List.foldl_cons, ih _ (fun x hx => hd x (by simp [hx]))]
    by_cases h : q ∈ rest
    · simp [h]
    · rw [if_neg h, Group.regState_setRegState _ _ _ _ (hd r (by simp)) hq]
      by_cases h2 : q = r
      · simp [h2]
      · simp [h, h2]

theorem Group.foldl_dead_regVal (ds : List Nat) (g : Group) (q : Nat) (l : Nat) :
    ((ds.foldl (fun g r => g.setRegState r .dead) g).regVal q).at l = (g.regVal q).at l := by
  induction ds generalizing g with
  | nil => rfl
  | cons r rest ih => rw [List.foldl_cons, ih]; simp

end Sys2Proof.Machine
end

