-- ==== Sys2Proof/Laws/Issue.lean ====
section
/-!
SUPPORT. Issue.lean: the checks of an instruction as one condition, and what the issue of an instruction and its ending change.
-/
namespace Sys2Proof.Laws

open Sys2Proof.Machine Sys2Proof.Safety

/-! ### The checks -/

theorem any_badReg (l : List Nat) (alloc : Nat) : l.any (badReg alloc) = !l.all fun r => r < 0x30 + alloc := by
  induction l with
  | nil => rfl
  | cons x r ih =>
    simp only [List.any_cons, List.all_cons, ih, badReg, Bool.not_and]
    congr 1
    by_cases h : x < 0x30 + alloc
    · have h' : ¬x ≥ 0x30 + alloc := by omega
      simp [h, h']
    · have h' : x ≥ 0x30 + alloc := by omega
      simp [h, h']

/-- An instruction that lacks permission takes a privilege trap. -/
theorem enter_of_not_permitted (e : Info) (s : State) (h : permitted e s = false) : enter e s = .stop (s.trapGroup 0x0A) := by
  unfold enter
  rw [if_pos]
  unfold permitted at h
  by_cases hp : privileged e.opcode ≤ s.g.level
  · simp [hp] at h; simp [h]
  · have : privileged e.opcode > s.g.level := by omega
    simp [this]

theorem not_priv_of_permitted (e : Info) (s : State) (h : permitted e s = true) :
    ¬(decide (privileged e.opcode > s.g.level) || e.priv) = true := by
  unfold permitted at h
  simp only [Bool.and_eq_true, decide_eq_true_eq, Bool.not_eq_true'] at h
  simp [h.1, h.2]

/-- An instruction with an illegal mark, or for which an ILLEGAL condition of its entry holds. -/
theorem enter_of_not_lawful (e : Info) (s : State) (hp : permitted e s = true) (h : lawful e s = false) :
    enter e s = .stop (s.trapGroup 0x09) := by
  unfold enter
  rw [if_neg (not_priv_of_permitted e s hp), if_pos]
  unfold lawful at h
  simp only [Bool.and_eq_false_iff] at h
  rcases h with h | h <;> simp [h]

theorem not_illegal_of_lawful (e : Info) (s : State) (h : lawful e s = true) :
    ¬(!(e.marksOk s.cur.ctl) || !e.legal) = true := by
  unfold lawful at h
  simp only [Bool.and_eq_true] at h
  simp [h.1, h.2]

/-- An instruction that names a register outside the allocation. -/
theorem enter_of_not_inAllocation (e : Info) (s : State) (hp : permitted e s = true) (hl : lawful e s = true)
    (h : inAllocation e s = false) : enter e s = .stop (s.trapGroup 0x15) := by
  unfold enter
  rw [if_neg (not_priv_of_permitted e s hp), if_neg (not_illegal_of_lawful e s hl), if_pos]
  unfold inAllocation at h
  rw [any_badReg]
  by_cases hb : e.badTile
  · simp [hb]
  · simp only [hb, Bool.not_false, Bool.true_and] at h
    simp only [hb, Bool.false_or, h, Bool.not_false]

theorem not_bad_of_inAllocation (e : Info) (s : State) (h : inAllocation e s = true) :
    ¬(e.badTile || (e.sources ++ e.dests ++ e.names ++ (e.a.bind (·.op.reg?)).toList ++ e.blockA).any (badReg s.g.alloc)) = true := by
  unfold inAllocation at h
  simp only [Bool.and_eq_true, Bool.not_eq_true'] at h
  rw [any_badReg, h.1, h.2]
  simp

theorem stale_test (e : Info) (s : State) :
    (!s.p.wait.isSome && !s.p.retry.isSome && (s.g.stale e.a (s.acting e) || s.g.stale e.b (s.acting e) || s.g.stale e.c (s.acting e))) =
    (firstIssue s && !upperValid e s) := by
  unfold firstIssue upperValid
  cases s.p.wait <;> cases s.p.retry <;> cases s.g.stale e.a (s.acting e) <;> cases s.g.stale e.b (s.acting e) <;>
    cases s.g.stale e.c (s.acting e) <;> rfl

theorem hasRead_test (s : State) :
    (!decide ((s.p.wait.map (·.stage)).getD 0 > 0) && !s.p.retry.isSome) = !hasRead s := by
  unfold hasRead
  cases s.p.retry.isSome <;> cases decide ((s.p.wait.map (·.stage)).getD 0 > 0) <;> rfl

theorem any_eq_state (l : List Nat) (g : Group) (st : RegState) :
    (l.any fun r => g.regState r == st) = !l.all fun r => g.regState r != st := by
  induction l with
  | nil => rfl
  | cons x r ih => simp only [List.any_cons, List.all_cons, ih, bne, Bool.not_and, Bool.not_not]

/-- At first issue an invalid latch or slot traps. -/
theorem enter_of_stale (e : Info) (s : State) (hp : permitted e s = true) (hl : lawful e s = true) (ha : inAllocation e s = true)
    (hf : firstIssue s = true) (h : upperValid e s = false) : enter e s = .stop (s.trapGroup 0x08) := by
  unfold enter
  rw [if_neg (not_priv_of_permitted e s hp), if_neg (not_illegal_of_lawful e s hl), if_neg (not_bad_of_inAllocation e s ha)]
  simp only
  rw [if_pos]
  rw [stale_test, hf, h]; rfl

theorem enter_tail (e : Info) (s : State) (hp : permitted e s = true) (hl : lawful e s = true) (ha : inAllocation e s = true)
    (hu : (!firstIssue s || upperValid e s) = true) :
    enter e s =
      if !hasRead s && !noneDead e s then .stop (s.trapGroup 0x07)
      else if !hasRead s && !noneLost e s then .stop (s.trapGroup 0x1B)
      else if firstIssue s && (e.trapping s.cur.ctl).any (fun r => (s.g.regState r).isEmpty) then .stop (s.trapGroup 0x06)
      else if !((awaitedSources e s).isEmpty && (awaitedDests e s).isEmpty) then
        if s.g.stranded (awaitedSources e s) then
          if s.stopArmed s.g then .stop ((s.dropWait s.g.unit s.cur.path).stopGroup s.g.unit) else .stop (s.trapGroup 0x06)
        else if (awaitedSources e s ++ awaitedDests e s).any s.g.lateReg then
          .stop ((s.modG fun g => { g with late := g.late.filter fun t =>
            !(awaitedSources e s ++ awaitedDests e s).any fun r => g.regState r == .pending t }).trapGroup 0x0D)
        else .stop (s.waitFor (.regs (awaitedSources e s) (awaitedDests e s)) e ((s.p.wait.map (·.stage)).getD 0)
          ((s.p.wait.map (·.arg)).getD 0))
      else .go (s.operands e) (s.consume e) := by
  unfold enter
  rw [if_neg (not_priv_of_permitted e s hp), if_neg (not_illegal_of_lawful e s hl), if_neg (not_bad_of_inAllocation e s ha)]
  simp only
  rw [if_neg]
  · rw [any_eq_state, any_eq_state, hasRead_test]
    have h1 : (!s.p.wait.isSome && !s.p.retry.isSome) = firstIssue s := by
      unfold firstIssue
      cases s.p.wait <;> cases s.p.retry <;> rfl
    have h2 : (if (s.p.retry.isSome || decide ((s.p.wait.map (·.stage)).getD 0 > 0)) = true then []
        else e.waitSources.filter fun r => (s.g.regState r).isEmpty) = awaitedSources e s := by
      unfold awaitedSources hasRead
      rfl
    have h3 : (if (decide (s.acting e = 0) && !e.always) = true then [] else e.dests.filter fun r => (s.g.regState r).isPending) =
        awaitedDests e s := rfl
    rw [h1, h2, h3]
    rfl
  · rw [stale_test]
    cases hx : firstIssue s <;> cases h : upperValid e s <;> simp [hx, h] at hu ⊢

theorem trapping_sub (e : Info) (ctl r : Nat) (h : r ∈ e.trapping ctl) : r ∈ e.waitSources := by
  unfold Info.trapping at h
  unfold Info.waitSources
  simp only [List.mem_append] at h ⊢
  rcases h with (h | h) | h
  · by_cases hc : markOf ctl 4 && !e.noWaitA && !e.noCheckA
    · rw [if_pos hc] at h
      simp only [Bool.and_eq_true, Bool.not_eq_true'] at hc
      rw [if_neg (by simp [hc.1.2, hc.2])]
      exact .inl (.inl (.inl h))
    · rw [if_neg hc] at h; cases h
  · by_cases hc : markOf ctl 5
    · rw [if_pos hc, List.mem_append] at h
      rcases h with h | h
      · exact .inl (.inl (.inr h))
      · exact .inl (.inr h)
    · rw [if_neg hc] at h; cases h
  · by_cases hc : markOf ctl 6
    · rw [if_pos hc] at h; exact .inr h
    · rw [if_neg hc] at h; cases h

theorem no_trapping (e : Info) (s : State) (h : (awaitedSources e s).isEmpty = true) :
    (firstIssue s && (e.trapping s.cur.ctl).any (fun r => (s.g.regState r).isEmpty)) = false := by
  by_cases hf : firstIssue s
  · have hr : hasRead s = false := by
      unfold firstIssue at hf
      unfold hasRead
      cases hw : s.p.wait <;> cases hy : s.p.retry <;> simp_all
    unfold awaitedSources at h
    rw [hr] at h
    simp only [Bool.false_eq_true, if_false, List.isEmpty_iff, List.filter_eq_nil_iff] at h
    rw [hf, Bool.true_and, List.any_eq_false]
    intro r hm
    exact h r (trapping_sub e _ r hm)
  · simp [hf]

/-- An instruction that is ready reads its operands and issues. -/
theorem enter_of_ready (e : Info) (s : State) (h : ready e s = true) : enter e s = .go (s.operands e) (s.consume e) := by
  unfold ready readable at h
  simp only [Bool.and_eq_true] at h
  obtain ⟨⟨⟨⟨⟨hp, hl⟩, ha⟩, hu, hr⟩, hs⟩, hd⟩ := h
  rw [enter_tail e s hp hl ha hu]
  have h1 : (!hasRead s && !noneDead e s) = false := by
    cases h : hasRead s <;> cases h' : noneDead e s <;> simp_all
  have h2 : (!hasRead s && !noneLost e s) = false := by
    cases h : hasRead s <;> cases h' : noneLost e s <;> simp_all
  rw [h1, h2, no_trapping e s hs, hs, hd]
  rfl

theorem run_of_ready (e : Info) (s : State) (body : Ops → State → State) (h : ready e s = true) :
    run e s body = .next (body (s.operands e) (s.consume e)) := by
  unfold run
  rw [enter_of_ready e s h]

/-! ### Issue and ending -/

/-- What the issue of an instruction changes in its group. -/
def issued (e : Info) (s : State) (g : Group) : Group :=
  let g := (deadMarked e s).foldl (fun g r => g.setRegState r .dead) g
  let g := g.modPath s.cur.path fun q => { q with wait := none, retry := none, noArrive := false, brkOk := false }
  { g with lastIssue := s.cyc }

theorem consume_eq (e : Info) (s : State) : s.consume e = (s.modG (issued e s)).spend e.cost := rfl

theorem reg?_ge (o : Opnd) (r : Nat) (h : o.reg? = some r) : 0x10 ≤ r := by
  cases o <;> simp only [Opnd.reg?, Option.some.injEq, reduceCtorEq] at h <;> omega

/-- The registers of an entry's fields have codes of registers. -/
def codesOk (e : Info) : Prop := ∀ r ∈ e.blockA ++ e.blockB ++ e.blockD, 0x10 ≤ r

theorem bind_reg_ge (f : Option Fld) (r : Nat) (h : r ∈ (f.bind (·.op.reg?)).toList) : 0x10 ≤ r := by
  cases f with
  | none => cases h
  | some f =>
    simp only [Option.bind_some, Option.mem_toList] at h
    exact reg?_ge f.op r h

theorem deadMarked_ge (e : Info) (s : State) (hc : codesOk e) (r : Nat) (h : r ∈ deadMarked e s) : 0x10 ≤ r := by
  unfold deadMarked at h
  split at h
  · cases h
  simp only [List.mem_append] at h
  have hb : ∀ x, x ∈ e.blockA ∨ x ∈ e.blockB → 0x10 ≤ x := by
    intro x hx
    apply hc x
    simp only [List.mem_append]
    rcases hx with hx | hx
    · exact .inl (.inl hx)
    · exact .inl (.inr hx)
  rcases h with (h | h) | h
  · split at h
    · rcases List.mem_append.mp h with h | h
      · exact bind_reg_ge _ r h
      · exact hb r (.inl h)
    · cases h
  · split at h
    · rcases List.mem_append.mp h with h | h
      · exact bind_reg_ge _ r h
      · exact hb r (.inr h)
    · cases h
  · split at h
    · exact bind_reg_ge _ r h
    · cases h

theorem setRegState_rest (g : Group) (r : Nat) (st : RegState) :
    { g.setRegState r st with gregs := [], sregs := [] } = { g with gregs := [], sregs := [] } := by
  unfold Group.setRegState; split <;> rfl

theorem foldl_dead_rest (ds : List Nat) (g : Group) :
    { ds.foldl (fun g r => g.setRegState r .dead) g with gregs := [], sregs := [] } = { g with gregs := [], sregs := [] } := by
  induction ds generalizing g with
  | nil => rfl
  | cons r rest ih => rw [List.foldl_cons, ih, setRegState_rest]

/-- The dead marks change registers alone. -/
theorem foldl_dead_field {α : Type} (f : Group → α) (hf : ∀ g, f g = f { g with gregs := [], sregs := [] }) (ds : List Nat) (g : Group) :
    f (ds.foldl (fun g r => g.setRegState r .dead) g) = f g := by
  rw [hf, foldl_dead_rest, ← hf]

@[simp] theorem issued_unit (e : Info) (s : State) (g : Group) : (issued e s g).unit = g.unit := foldl_dead_field (·.unit) (fun _ => rfl) _ _
@[simp] theorem issued_slices (e : Info) (s : State) (g : Group) : (issued e s g).slices = g.slices :=
  foldl_dead_field (·.slices) (fun _ => rfl) _ _
@[simp] theorem issued_preds (e : Info) (s : State) (g : Group) : (issued e s g).preds = g.preds :=
  foldl_dead_field (·.preds) (fun _ => rfl) _ _
@[simp] theorem issued_ages (e : Info) (s : State) (g : Group) : (issued e s g).ages = g.ages := foldl_dead_field (·.ages) (fun _ => rfl) _ _
@[simp] theorem issued_ageValid (e : Info) (s : State) (g : Group) : (issued e s g).ageValid = g.ageValid :=
  foldl_dead_field (·.ageValid) (fun _ => rfl) _ _
@[simp] theorem issued_caches (e : Info) (s : State) (g : Group) : (issued e s g).caches = g.caches :=
  foldl_dead_field (·.caches) (fun _ => rfl) _ _
@[simp] theorem issued_cacheValid (e : Info) (s : State) (g : Group) : (issued e s g).cacheValid = g.cacheValid :=
  foldl_dead_field (·.cacheValid) (fun _ => rfl) _ _
theorem issued_rest (e : Info) (s : State) (g : Group) : groupRest (issued e s g) = groupRest g := by
  have := foldl_dead_field groupRest (fun _ => rfl) (deadMarked e s) g
  rw [← this]; rfl
theorem issued_paths (e : Info) (s : State) (g : Group) :
    (issued e s g).paths = g.paths.map fun q => if q.id = s.cur.path then { q with wait := none, retry := none, noArrive := false, brkOk := false } else q := by
  have := foldl_dead_field (·.paths) (fun _ => rfl) (deadMarked e s) g
  show (Group.modPath _ _ _).paths = _
  unfold Group.modPath
  simp only [this]

@[simp] theorem modPath_regVal (g : Group) (p : Nat) (f : Path → Path) (r : Nat) : (g.modPath p f).regVal r = g.regVal r := rfl
@[simp] theorem modPath_regState (g : Group) (p : Nat) (f : Path → Path) (r : Nat) : (g.modPath p f).regState r = g.regState r := rfl

theorem issued_regVal (e : Info) (s : State) (g : Group) (r l : Nat) : ((issued e s g).regVal r).at l = (g.regVal r).at l :=
  Group.foldl_dead_regVal (deadMarked e s) g r l

theorem issued_regState (e : Info) (s : State) (g : Group) (hc : codesOk e) (r : Nat) (hr : 0x10 ≤ r) :
    (issued e s g).regState r = if r ∈ deadMarked e s then .dead else g.regState r :=
  Group.foldl_dead_regState _ g r (fun x hx => deadMarked_ge e s hc x hx) hr

/-- The path of the issuing slot after a change of paths that keeps their numbers. -/
theorem path_modPath (g : Group) (p : Nat) (f : Path → Path) (hf : ∀ q, q.id = p → (f q).id = p) (hd : f { id := p } = { id := p }) :
    (g.modPath p f).path p = f (g.path p) := by
  unfold Group.path Group.path? Group.modPath
  simp only
  induction g.paths with
  | nil => simp [hd]
  | cons q r ih =>
    by_cases h : q.id = p
    · subst h; simp [hf q rfl]
    · simp only [List.map_cons, h, if_false]
      simpa [h] using ih

theorem issued_path (e : Info) (s : State) (g : Group) :
    (issued e s g).path s.cur.path = { g.path s.cur.path with wait := none, retry := none, noArrive := false, brkOk := false } := by
  have h : (issued e s g).path s.cur.path = (g.modPath s.cur.path fun q => { q with wait := none, retry := none, noArrive := false, brkOk := false }).path s.cur.path := by
    unfold Group.path Group.path?
    rw [issued_paths]
    rfl
  rw [h, path_modPath]
  · intro q hq; exact hq
  · rfl

/-- What the advance to the next slot changes in the group of the issuing path (R18). -/
def moved (s : State) (g : Group) : Group :=
  let g := g.modPathSlices s.cur.path fun x => { x with pc := nextSlot s }
  if bundleOf (nextSlot s) = bundleOf s.cur.pc then g else g.modPath s.cur.path fun q => { q with buf := none }

theorem advance_moved (s : State) : s.advance = s.modG (moved s) := rfl

@[simp] theorem moved_unit (s : State) (g : Group) : (moved s g).unit = g.unit := by
  unfold moved; simp only; split <;> rfl
theorem moved_slices (s : State) (g : Group) : (moved s g).slices = g.slices.map (sliceAfter s) := by
  unfold moved; simp only; split <;> rfl
theorem moved_rest (s : State) (g : Group) : { moved s g with slices := [], paths := [] } = { g with slices := [], paths := [] } := by
  unfold moved; simp only; split <;> rfl
theorem moved_congr (s t : State) (h1 : t.cur = s.cur) (h2 : t.p.buf = s.p.buf) : moved t = moved s := by
  have h : nextSlot t = nextSlot s := by unfold nextSlot; rw [h1, h2]
  unfold moved; rw [h, h1]

theorem moved_paths (s : State) (e : Info) (g k : Group) (h : g.paths = (issued e s k).paths) :
    (moved s g).paths = k.paths.map (pathAfter s) := by
  rw [issued_paths] at h
  unfold moved
  simp only
  split
  · rename_i hb
    show g.paths = _
    rw [h]
    apply List.map_congr_left
    intro q _
    unfold pathAfter
    by_cases hq : q.id = s.cur.path <;> simp [hq, hb]
  · rename_i hb
    show g.paths.map _ = _
    rw [h, List.map_map]
    apply List.map_congr_left
    intro q _
    unfold pathAfter
    by_cases hq : q.id = s.cur.path <;> simp [hq, hb]

theorem modG_consume (s : State) (e : Info) (x : Nat) (W : Group → Group) :
    ((s.consume e).spend x).modG W = (s.modG fun g => W (issued e s g)).spend (e.cost + x) := by
  have h : (s.modG (issued e s)).modG W = s.modG fun g => W (issued e s g) :=
    State.modG_modG s (issued e s) W (fun g hg => (issued_unit e s g).trans hg)
  have h2 : ((s.consume e).spend x).modG W = ((s.modG (issued e s)).modG W).spend (e.cost + x) := by
    rw [consume_eq, State.spend_spend, State.spend_modG]
  rw [h2, h]

/-- The ending of an instruction: W has been made to its group, which keeps its paths, and the path goes on. -/
theorem advance_eq (s : State) (e : Info) (x : Nat) (W : Group → Group) (hi : Issuing s) (hu : ∀ g, (W g).unit = g.unit)
    (hp : ∀ g, (W g).paths = g.paths) (t : State) (ht : t = (((s.consume e).spend x).modG W).advance) :
    t = (s.modG fun g => moved s (W (issued e s g))).spend (e.cost + x) := by
  have hU : ∀ g, g.unit = s.cur.unit → (W (issued e s g)).unit = s.cur.unit := by
    intro g hg; rw [hu, issued_unit, hg]
  rw [modG_consume, advance_moved] at ht
  have hm : moved ((s.modG fun g => W (issued e s g)).spend (e.cost + x)) = moved s := by
    apply moved_congr
    · rfl
    · show ((State.g ((s.modG fun g => W (issued e s g)).spend (e.cost + x))).path s.cur.path).buf = (s.g.path s.cur.path).buf
      rw [State.spend_g, State.g_modG s _ hi hU]
      have h1 : (W (issued e s s.g)).path s.cur.path = (issued e s s.g).path s.cur.path := by
        unfold Group.path Group.path?; rw [hp]
      rw [h1, issued_path]
  rw [hm, State.spend_modG, State.modG_modG _ _ _ hU] at ht
  exact ht

/-- The group, the other groups and the device after such an ending. -/
theorem advance_group (s : State) (e : Info) (x : Nat) (W : Group → Group) (hi : Issuing s) (hu : ∀ g, (W g).unit = g.unit)
    (hp : ∀ g, (W g).paths = g.paths) (t : State) (ht : t = (((s.consume e).spend x).modG W).advance) :
    t.g = moved s (W (issued e s s.g)) ∧ t.cur = s.cur ∧ deviceRest t = deviceRest s ∧
    ∀ u, u ≠ s.cur.unit → t.grp u = s.grp u := by
  have h := advance_eq s e x W hi hu hp t ht
  have hU : ∀ g, g.unit = s.cur.unit → (moved s (W (issued e s g))).unit = s.cur.unit := by
    intro g hg; rw [moved_unit, hu, issued_unit, hg]
  subst h
  refine ⟨?_, rfl, rfl, ?_⟩
  · rw [State.spend_g, State.g_modG s _ hi hU]
  · intro u hu'
    rw [State.spend_grp]
    exact State.grp_modGrp_other s _ u _ hu' hU

theorem field_of_rest {α : Type} (f : Group → α) (hf : ∀ g, f g = f { g with slices := [], paths := [] }) (g k : Group)
    (h : { g with slices := [], paths := [] } = { k with slices := [], paths := [] }) : f g = f k := by
  rw [hf g, h, ← hf k]

end Sys2Proof.Laws
end

