-- ==== Sys2Proof/Laws/Ending.lean ====
section
/-!
SUPPORT. Ending.lean: the common endings of instructions as the statements say them: a result written and pushed, a predicate
written, another change of the group.
-/
namespace Sys2Proof.Laws

open Sys2Proof.Machine Sys2Proof.Safety

theorem operands_clears (s : State) (e : Info) : (s.operands e).clears = clears e s := rfl
theorem operands_act (s : State) (e : Info) : (s.operands e).act = s.acting e := rfl
theorem operands_orig (s : State) (e : Info) : (s.operands e).orig = s := rfl

/-- Clearing as a change of the group. -/
def cleared (e : Info) (s : State) (g : Group) : Group := if clears e s then g.clearUpper else g

theorem clearIf_eq (s t : State) (e : Info) : t.clearIf (s.operands e) = t.modG (cleared e s) := by
  unfold State.clearIf cleared
  rw [operands_clears]
  cases clears e s
  · simp only [Bool.false_eq_true, if_false]
    unfold State.modG State.modGrp
    have : (t.groups.map fun g => if g.unit = t.cur.unit then g else g) = t.groups := by
      simp
    rw [this]
  · rfl

@[simp] theorem cleared_unit (e : Info) (s : State) (g : Group) : (cleared e s g).unit = g.unit := by
  unfold cleared; split <;> rfl
@[simp] theorem cleared_paths (e : Info) (s : State) (g : Group) : (cleared e s g).paths = g.paths := by
  unfold cleared; split <;> rfl
@[simp] theorem cleared_slices (e : Info) (s : State) (g : Group) : (cleared e s g).slices = g.slices := by
  unfold cleared; split <;> rfl
@[simp] theorem cleared_gregs (e : Info) (s : State) (g : Group) : (cleared e s g).gregs = g.gregs := by
  unfold cleared; split <;> rfl
@[simp] theorem cleared_sregs (e : Info) (s : State) (g : Group) : (cleared e s g).sregs = g.sregs := by
  unfold cleared; split <;> rfl
@[simp] theorem cleared_preds (e : Info) (s : State) (g : Group) : (cleared e s g).preds = g.preds := by
  unfold cleared; split <;> rfl
@[simp] theorem cleared_ages (e : Info) (s : State) (g : Group) : (cleared e s g).ages = g.ages := by
  unfold cleared; split <;> rfl
@[simp] theorem cleared_caches (e : Info) (s : State) (g : Group) : (cleared e s g).caches = g.caches := by
  unfold cleared; split <;> rfl
theorem cleared_ageValid (e : Info) (s : State) (g : Group) (n : Nat) :
    (cleared e s g).ageValid.getD n false = (g.ageValid.getD n false && !clears e s) := by
  unfold cleared
  cases clears e s
  · simp
  · simp only [if_true, Bool.not_true, Bool.and_false]
    show ([false, false, false, false] : List Bool).getD n false = false
    match n with
    | 0 | 1 | 2 | 3 => rfl
    | n + 4 => rfl
theorem cleared_cacheValid (e : Info) (s : State) (g : Group) (n : Nat) :
    Store.getOr (cleared e s g).cacheValid n 0 = if clears e s then 0 else Store.getOr g.cacheValid n 0 := by
  unfold cleared
  cases clears e s <;> rfl
theorem cleared_rest (e : Info) (s : State) (g : Group) : groupRest (cleared e s g) = groupRest g := by
  unfold cleared; split <;> rfl

@[simp] theorem writeReg_unit (g : Group) (r : Nat) (v : Lanes) (m : LaneMask) : (g.writeReg r v m).unit = g.unit := by
  unfold Group.writeReg; split
  · rfl
  · split <;> rfl

/-- A destination's write changes registers and cache slots alone. -/
theorem writeOpnd_rest (g : Group) (d : Opnd) (v : Lanes) (m : LaneMask) :
    { g.writeOpnd d v m with gregs := [], sregs := [], caches := [], cacheValid := [] } =
    { g with gregs := [], sregs := [], caches := [], cacheValid := [] } := by
  cases d <;> simp only [Group.writeOpnd]
  · split <;> rfl
  · unfold Group.writeReg; split
    · rfl
    · split <;> rfl
  · unfold Group.writeReg; split
    · rfl
    · split <;> rfl

theorem writeOpnd_field {α : Type} (f : Group → α)
    (hf : ∀ g, f g = f { g with gregs := [], sregs := [], caches := [], cacheValid := [] }) (g : Group) (d : Opnd) (v : Lanes)
    (m : LaneMask) : f (g.writeOpnd d v m) = f g := by rw [hf, writeOpnd_rest, ← hf]

@[simp] theorem writeOpnd_unit (g : Group) (d : Opnd) (v : Lanes) (m : LaneMask) : (g.writeOpnd d v m).unit = g.unit :=
  writeOpnd_field (·.unit) (fun _ => rfl) g d v m
@[simp] theorem writeOpnd_paths (g : Group) (d : Opnd) (v : Lanes) (m : LaneMask) : (g.writeOpnd d v m).paths = g.paths :=
  writeOpnd_field (·.paths) (fun _ => rfl) g d v m
@[simp] theorem writeOpnd_slices (g : Group) (d : Opnd) (v : Lanes) (m : LaneMask) : (g.writeOpnd d v m).slices = g.slices :=
  writeOpnd_field (·.slices) (fun _ => rfl) g d v m
@[simp] theorem writeOpnd_preds (g : Group) (d : Opnd) (v : Lanes) (m : LaneMask) : (g.writeOpnd d v m).preds = g.preds :=
  writeOpnd_field (·.preds) (fun _ => rfl) g d v m
@[simp] theorem writeOpnd_ages (g : Group) (d : Opnd) (v : Lanes) (m : LaneMask) : (g.writeOpnd d v m).ages = g.ages :=
  writeOpnd_field (·.ages) (fun _ => rfl) g d v m
@[simp] theorem writeOpnd_ageValid (g : Group) (d : Opnd) (v : Lanes) (m : LaneMask) : (g.writeOpnd d v m).ageValid = g.ageValid :=
  writeOpnd_field (·.ageValid) (fun _ => rfl) g d v m
theorem writeOpnd_groupRest (g : Group) (d : Opnd) (v : Lanes) (m : LaneMask) : groupRest (g.writeOpnd d v m) = groupRest g :=
  writeOpnd_field groupRest (fun _ => rfl) g d v m

theorem writeReg_sreg_gregs (g : Group) (n : Fin 32) (v : Lanes) (m : LaneMask) : (g.writeReg (0x10 + n) v m).gregs = g.gregs := by
  have h : 0x10 + n.val < 0x30 := by omega
  unfold Group.writeReg; rw [if_pos h]; split <;> rfl
theorem writeReg_caches (g : Group) (r : Nat) (v : Lanes) (m : LaneMask) :
    (g.writeReg r v m).caches = g.caches ∧ (g.writeReg r v m).cacheValid = g.cacheValid := by
  unfold Group.writeReg; split
  · exact ⟨rfl, rfl⟩
  · split <;> exact ⟨rfl, rfl⟩

/-- A register that is not the destination keeps its value and state. -/
theorem writeOpnd_reg (g : Group) (d : Opnd) (v : Lanes) (m : LaneMask) (r : Nat) (hr : 0x10 ≤ r) (h : d.reg? ≠ some r) :
    (g.writeOpnd d v m).regVal r = g.regVal r ∧ (g.writeOpnd d v m).regState r = g.regState r := by
  cases d with
  | cache n => simp only [Group.writeOpnd]; split <;> exact ⟨rfl, rfl⟩
  | sreg n =>
    have hn : r ≠ 0x10 + n.val := fun h' => h (by rw [h']; rfl)
    exact ⟨Group.writeReg_regVal_other g _ r v m (by omega) hr hn,
      (Group.writeReg_regState g _ r v m (by omega) hr).trans (if_neg fun h' => hn h'.1)⟩
  | greg n =>
    have hn : r ≠ 0x30 + n.val := fun h' => h (by rw [h']; rfl)
    exact ⟨Group.writeReg_regVal_other g _ r v m (by omega) hr hn,
      (Group.writeReg_regState g _ r v m (by omega) hr).trans (if_neg fun h' => hn h'.1)⟩
  | age n => exact ⟨rfl, rfl⟩
  | zero => exact ⟨rfl, rfl⟩
  | lit => exact ⟨rfl, rfl⟩
  | lane => exact ⟨rfl, rfl⟩
  | none => exact ⟨rfl, rfl⟩

/-- A cache slot that is not the destination keeps its values and validity. -/
theorem writeOpnd_cache (g : Group) (d : Opnd) (v : Lanes) (m : LaneMask) (n : Fin 8) (h : d ≠ .cache n) :
    Store.getOr (g.writeOpnd d v m).caches n [] = Store.getOr g.caches n [] ∧
    Store.getOr (g.writeOpnd d v m).cacheValid n 0 = Store.getOr g.cacheValid n 0 := by
  cases d with
  | cache k =>
    have hk : n.val ≠ k.val := fun h' => h (by rw [Fin.ext h'])
    simp only [Group.writeOpnd]
    split
    · exact ⟨rfl, rfl⟩
    · exact ⟨Store.getOr_set_other _ _ _ _ _ hk, Store.getOr_set_other _ _ _ _ _ hk⟩
  | sreg k => exact ⟨by rw [Group.writeOpnd, (writeReg_caches g _ v m).1], by rw [Group.writeOpnd, (writeReg_caches g _ v m).2]⟩
  | greg k => exact ⟨by rw [Group.writeOpnd, (writeReg_caches g _ v m).1], by rw [Group.writeOpnd, (writeReg_caches g _ v m).2]⟩
  | age _ => exact ⟨rfl, rfl⟩
  | zero => exact ⟨rfl, rfl⟩
  | lit => exact ⟨rfl, rfl⟩
  | lane => exact ⟨rfl, rfl⟩
  | none => exact ⟨rfl, rfl⟩

theorem groupRest_of {g k : Group} (h : { g with slices := [], paths := [] } = { k with slices := [], paths := [] }) :
    groupRest g = groupRest k := field_of_rest groupRest (fun _ => rfl) g k h

/-- The frame of an ending whose change W of the group leaves registers, predicates, upper levels and paths as these hypotheses
say. -/
theorem stepped_of (s t : State) (e : Info) (x : Nat) (W upd : Group → Group) (dst : Option Opnd) (preds : List Nat)
    (hi : Issuing s) (hc : codesOk e) (ht : t = (((s.consume e).spend x).modG W).advance)
    (hu : ∀ g, (W g).unit = g.unit) (hp : ∀ g, (W g).paths = g.paths)
    (hregs : ∀ g r, 0x10 ≤ r → dst.bind Opnd.reg? ≠ some r → ∀ l, ((W g).regVal r).at l = (g.regVal r).at l)
    (hstates : ∀ g r, 0x10 ≤ r → dst.bind Opnd.reg? ≠ some r → (W g).regState r = g.regState r)
    (hpreds : ∀ g q, q ∉ preds → (W g).pred q = g.pred q)
    (hcaches : ∀ g (n : Fin 8), dst ≠ some (.cache n) → Store.getOr (W g).caches n [] = Store.getOr g.caches n [] ∧
      Store.getOr (W g).cacheValid n 0 = if clears e s then 0 else Store.getOr g.cacheValid n 0)
    (hslices : (W (issued e s s.g)).slices = (upd s.g).slices) (hpaths : (upd s.g).paths = s.g.paths)
    (hrest : groupRest (W (issued e s s.g)) = groupRest (upd s.g)) : Stepped s t e upd dst preds := by
  obtain ⟨hg, -, hd, ho⟩ := advance_group s e x W hi hu hp t ht
  have hm := moved_rest s (W (issued e s s.g))
  rw [← hg] at hm
  have hmem : t.mm = s.mm := (congrArg State.mm hd : (deviceRest t).mm = (deviceRest s).mm)
  refine { regs := ?_, states := ?_, preds := ?_, slices := ?_, paths := ?_, rest := ?_, others := ho, device := hd, caches := ?_
           memory := fun a => by rw [hmem] }
  · intro r l hr hn
    rw [field_of_rest (fun g => g.regVal r) (fun _ => rfl) _ _ hm, hregs _ r hr hn, issued_regVal]
  · intro r hr hn
    rw [field_of_rest (fun g => g.regState r) (fun _ => rfl) _ _ hm, hstates _ r hr hn, issued_regState e s _ hc r hr]
  · intro q hq
    rw [field_of_rest (fun g => g.pred q) (fun _ => rfl) _ _ hm, hpreds _ q hq, Group.pred_congr _ s.g (issued_preds e s s.g)]
  · rw [hg, moved_slices, hslices]
  · rw [hg, moved_paths s e _ s.g (hp _), hpaths]
  · rw [groupRest_of hm, hrest]
  · intro n hn
    have h := hcaches (issued e s s.g) n hn
    rw [issued_caches, issued_cacheValid] at h
    rw [field_of_rest (fun g => g.caches) (fun _ => rfl) _ _ hm, field_of_rest (fun g => g.cacheValid) (fun _ => rfl) _ _ hm, h.1, h.2]
    exact ⟨fun _ => rfl, rfl⟩

/-- The age latches after an ending that does not push. -/
theorem agesKept_of (s t : State) (e : Info) (x : Nat) (W : Group → Group)
    (hi : Issuing s) (ht : t = (((s.consume e).spend x).modG W).advance) (hu : ∀ g, (W g).unit = g.unit)
    (hp : ∀ g, (W g).paths = g.paths) (ha : ∀ g, (W g).ages = g.ages)
    (hv : ∀ g n, (W g).ageValid.getD n false = (g.ageValid.getD n false && !clears e s)) : AgesKept s t e := by
  obtain ⟨hg, -, -, -⟩ := advance_group s e x W hi hu hp t ht
  have hm := moved_rest s (W (issued e s s.g))
  rw [← hg] at hm
  intro n
  rw [field_of_rest (fun g => g.ages) (fun _ => rfl) _ _ hm, field_of_rest (fun g => g.ageValid) (fun _ => rfl) _ _ hm, ha, hv]
  simp

theorem getD_push {α : Type} (x : α) (l : List α) (n : Fin 3) (d : α) : ((x :: l).take 4).getD (n + 1) d = l.getD n d := by
  have h : n.val < 3 := n.isLt
  rw [List.getD_eq_getElem?_getD, List.getD_eq_getElem?_getD, List.getElem?_take_of_lt (by omega), List.getElem?_cons_succ]

/-- What `finish` makes of the group. -/
def finished (e : Info) (s : State) (d : Opnd) (v : Lanes) (m : LaneMask) (g : Group) : Group :=
  (cleared e s (g.writeOpnd d v m)).push v m

theorem finish_eq (s t : State) (e : Info) (d : Opnd) (v : Lanes) (m : LaneMask) :
    t.finish (s.operands e) d v m = (t.modG (finished e s d (writtenBy d v m) m)).advance := by
  unfold State.finish
  simp only
  rw [clearIf_eq]
  generalize writtenBy d v m = v
  have h1 : (t.modG fun g => g.writeOpnd d v m).modG (cleared e s) = t.modG fun g => cleared e s (g.writeOpnd d v m) :=
    State.modG_modG _ _ _ fun g hg => by rw [writeOpnd_unit, hg]
  have h2 : (t.modG fun g => cleared e s (g.writeOpnd d v m)).modG (fun g => g.push v m) = t.modG (finished e s d v m) :=
    State.modG_modG _ _ _ fun g hg => by rw [cleared_unit, writeOpnd_unit, hg]
  simp only [h1, h2]

theorem finished_unit (e : Info) (s : State) (d : Opnd) (v : Lanes) (m : LaneMask) (g : Group) : (finished e s d v m g).unit = g.unit := by
  simp [finished]
theorem finished_paths (e : Info) (s : State) (d : Opnd) (v : Lanes) (m : LaneMask) (g : Group) : (finished e s d v m g).paths = g.paths := by
  simp [finished]

/-- A result written and pushed as it stands (R64 to R66, R69). -/
theorem finished_spec (s t : State) (e : Info) (x : Nat) (d : Opnd) (v : Lanes) (m : LaneMask) (hi : Issuing s) (hc : codesOk e)
    (ht : t = (((s.consume e).spend x).modG (finished e s d v m)).advance) :
    Written s t e d v.at m ∧ Pushed s t e v.at m ∧ Stepped s t e id (some d) [] := by
  obtain ⟨hg, -, hd, ho⟩ := advance_group s e x _ hi (finished_unit e s d v m) (finished_paths e s d v m) t ht
  have hm := moved_rest s (finished e s d v m (issued e s s.g))
  rw [← hg] at hm
  have hval : ∀ r, t.g.regVal r = ((issued e s s.g).writeOpnd d v m).regVal r := fun r => by
    rw [field_of_rest (fun g => g.regVal r) (fun _ => rfl) _ _ hm]
    exact Group.regVal_congr _ _ (by simp [finished]) (by simp [finished]) r
  have hst : ∀ r, t.g.regState r = ((issued e s s.g).writeOpnd d v m).regState r := fun r => by
    rw [field_of_rest (fun g => g.regState r) (fun _ => rfl) _ _ hm]
    exact Group.regState_congr _ _ (by simp [finished]) (by simp [finished]) r
  have hca : t.g.caches = ((issued e s s.g).writeOpnd d v m).caches := by
    rw [field_of_rest (fun g => g.caches) (fun _ => rfl) _ _ hm]; simp [finished]
  have hcv : ∀ n, Store.getOr t.g.cacheValid n 0 =
      if clears e s then 0 else Store.getOr ((issued e s s.g).writeOpnd d v m).cacheValid n 0 := fun n => by
    rw [field_of_rest (fun g => g.cacheValid) (fun _ => rfl) _ _ hm]
    exact cleared_cacheValid e s _ n
  refine ⟨?_, ?_, ?_⟩
  · cases d with
    | greg n =>
      refine ⟨fun l hl => ?_, ?_⟩
      · rw [hval, Group.writeOpnd, Group.writeReg_greg _ _ _ _ _ hl, issued_regVal]
      · rw [hst, Group.writeOpnd, Group.writeReg_regState _ _ _ _ _ (by omega) (by omega), issued_regState e s _ hc _ (by omega)]
        simp
    | sreg n =>
      refine ⟨fun l hl => ?_, ?_⟩
      · rw [hval, Group.writeOpnd, Group.writeReg_sreg _ _ n.isLt _ _ _ hl, issued_regVal]
      · rw [hst, Group.writeOpnd, Group.writeReg_regState _ _ _ _ _ (by omega) (by omega), issued_regState e s _ hc _ (by omega)]
        simp
    | cache n =>
      refine ⟨fun l hl => ?_, ?_⟩
      · rw [hca, Group.writeOpnd]
        by_cases h0 : m = 0
        · simp [h0]
        · rw [if_neg h0]
          simp only [Group.writeCache, Store.getOr_set_same, mergeLanes, Lanes.at_of, hl, if_true, issued_caches]
      · rw [hcv, Group.writeOpnd]
        by_cases h0 : m = 0
        · simp [h0]
        · rw [if_neg h0]
          simp only [Group.writeCache, Store.getOr_set_same, issued_cacheValid]
    | _ => trivial
  · have ha : t.g.ages = (maskLanes v m :: s.g.ages).take 4 := by
      rw [field_of_rest (fun g => g.ages) (fun _ => rfl) _ _ hm]
      simp [finished, Group.push]
    have hv : t.g.ageValid = (true :: (cleared e s ((issued e s s.g).writeOpnd d v m)).ageValid).take 4 := by
      rw [field_of_rest (fun g => g.ageValid) (fun _ => rfl) _ _ hm]
      simp [finished, Group.push]
    refine ⟨fun l hl => ?_, ?_, fun n => ⟨?_, ?_⟩⟩
    · rw [ha]
      simp only [List.take_succ_cons, List.getD_cons_zero, maskLanes, Lanes.at_of, hl, if_true]
    · rw [hv]; rfl
    · rw [ha, getD_push]
    · rw [hv, ← writeOpnd_ageValid s.g d v m]
      have h := cleared_ageValid e s ((issued e s s.g).writeOpnd d v m) n
      rw [writeOpnd_ageValid, issued_ageValid] at h
      rw [writeOpnd_ageValid, ← h, getD_push]
  · apply stepped_of s t e x (finished e s d v m) id (some d) [] hi hc ht (finished_unit e s d v m) (finished_paths e s d v m)
    · intro g r hr hn l
      rw [Group.regVal_congr (finished e s d v m g) (g.writeOpnd d v m) (by simp [finished]) (by simp [finished]) r,
        (writeOpnd_reg g d v m r hr hn).1]
    · intro g r hr hn
      rw [Group.regState_congr (finished e s d v m g) (g.writeOpnd d v m) (by simp [finished]) (by simp [finished]) r,
        (writeOpnd_reg g d v m r hr hn).2]
    · intro g q _
      exact Group.pred_congr _ _ (by simp [finished]) q
    · intro g n hn
      have h := writeOpnd_cache g d v m n (fun h => hn (by rw [h]))
      refine ⟨?_, ?_⟩
      · rw [← h.1]; simp [finished]
      · rw [← h.2]; exact cleared_cacheValid e s _ n
    · simp [finished]
    · rfl
    · show groupRest ((cleared e s ((issued e s s.g).writeOpnd d v m)).push v m) = _
      have h : ∀ g : Group, groupRest (g.push v m) = groupRest g := fun _ => rfl
      rw [h, cleared_rest, writeOpnd_groupRest, issued_rest]; rfl

/-- What an instruction without a destination makes of the group: W, and the clearing of the upper levels. -/
theorem done_eq (s t : State) (e : Info) (W : Group → Group) (hW : ∀ g, (W g).unit = g.unit) :
    (t.modG W).done (s.operands e) = (t.modG fun g => cleared e s (W g)).advance := by
  unfold State.done
  rw [clearIf_eq]
  have h1 : (t.modG W).modG (cleared e s) = t.modG fun g => cleared e s (W g) :=
    State.modG_modG _ _ _ fun g hg => by rw [hW, hg]
  rw [h1]

/-- A change of the group by an instruction without a destination. -/
theorem done_spec (s t : State) (e : Info) (x : Nat) (W : Group → Group) (dst : Option Opnd) (preds : List Nat) (hi : Issuing s)
    (hc : codesOk e) (ht : t = (((s.consume e).spend x).modG W).done (s.operands e)) (hu : ∀ g, (W g).unit = g.unit)
    (hp : ∀ g, (W g).paths = g.paths) (ha : ∀ g, (W g).ages = g.ages) (hv : ∀ g, (W g).ageValid = g.ageValid)
    (hregs : ∀ g r, 0x10 ≤ r → dst.bind Opnd.reg? ≠ some r → ∀ l, ((W g).regVal r).at l = (g.regVal r).at l)
    (hstates : ∀ g r, 0x10 ≤ r → dst.bind Opnd.reg? ≠ some r → (W g).regState r = g.regState r)
    (hpreds : ∀ g q, q ∉ preds → (W g).pred q = g.pred q)
    (hcaches : ∀ g (n : Fin 8), dst ≠ some (.cache n) → Store.getOr (W g).caches n [] = Store.getOr g.caches n [] ∧
      Store.getOr (W g).cacheValid n 0 = Store.getOr g.cacheValid n 0) (upd : Group → Group)
    (hslices : (W (issued e s s.g)).slices = (upd s.g).slices) (hpaths : (upd s.g).paths = s.g.paths)
    (hrest : groupRest (W (issued e s s.g)) = groupRest (upd s.g)) :
    AgesKept s t e ∧ Stepped s t e upd dst preds ∧ t.g = moved s (cleared e s (W (issued e s s.g))) := by
  rw [done_eq s _ e W hu] at ht
  have hu' : ∀ g, (cleared e s (W g)).unit = g.unit := fun g => by rw [cleared_unit, hu]
  have hp' : ∀ g, (cleared e s (W g)).paths = g.paths := fun g => by rw [cleared_paths, hp]
  refine ⟨?_, ?_, (advance_group s e x _ hi hu' hp' t ht).1⟩
  · apply agesKept_of s t e x _ hi ht hu' hp'
    · intro g; rw [cleared_ages, ha]
    · intro g n; rw [cleared_ageValid, hv]
  · apply stepped_of s t e x _ upd dst preds hi hc ht hu' hp'
    · intro g r hr hn l
      rw [Group.regVal_congr (cleared e s (W g)) (W g) (by simp) (by simp) r, hregs g r hr hn]
    · intro g r hr hn
      rw [Group.regState_congr (cleared e s (W g)) (W g) (by simp) (by simp) r, hstates g r hr hn]
    · intro g q hq
      rw [Group.pred_congr (cleared e s (W g)) (W g) (by simp) q, hpreds g q hq]
    · intro g n hn
      refine ⟨?_, ?_⟩
      · rw [cleared_caches, (hcaches g n hn).1]
      · rw [cleared_cacheValid, (hcaches g n hn).2]
    · rw [cleared_slices, hslices]
    · exact hpaths
    · rw [cleared_rest, hrest]

/-- Values that agree in the written lanes are the same result. -/
theorem written_congr (s t : State) (e : Info) (d : Opnd) (v k : Nat → Word) (m : LaneMask)
    (h : ∀ l, l < 32 → m.getLsbD l = true → v l = k l) (hw : Written s t e d v m) : Written s t e d k m := by
  cases d with
  | greg n =>
    refine ⟨fun l hl => ?_, hw.2⟩
    rw [hw.1 l hl]
    by_cases hm : m.getLsbD l = true
    · rw [if_pos hm, if_pos hm, h l hl hm]
    · rw [if_neg hm, if_neg hm]
  | sreg n =>
    refine ⟨fun l hl => ?_, hw.2⟩
    rw [hw.1 l hl]
    by_cases hm : m = 0
    · simp [hm]
    · obtain ⟨h1, h2⟩ := LaneMask.lowest_mem m hm
      rw [if_pos hm, if_pos hm, h _ h1 h2]
  | cache n =>
    refine ⟨fun l hl => ?_, hw.2⟩
    rw [hw.1 l hl]
    by_cases hm : m.getLsbD l = true
    · rw [if_pos hm, if_pos hm, h l hl hm]
    · rw [if_neg hm, if_neg hm]
  | _ => trivial

theorem pushed_congr (s t : State) (e : Info) (v k : Nat → Word) (m : LaneMask)
    (h : ∀ l, l < 32 → m.getLsbD l = true → v l = k l) (hw : Pushed s t e v m) : Pushed s t e k m := by
  refine ⟨fun l hl => ?_, hw.2⟩
  rw [hw.1 l hl]
  by_cases hm : m.getLsbD l = true
  · rw [if_pos hm, if_pos hm, h l hl hm]
  · rw [if_neg hm, if_neg hm]

theorem pushedFrom_congr (s t : State) (e : Info) (d : Opnd) (v k : Nat → Word) (m : LaneMask)
    (h : ∀ l, l < 32 → m.getLsbD l = true → v l = k l) (hw : PushedFrom s t e d v m) : PushedFrom s t e d k m := by
  cases d with
  | sreg n =>
    refine pushed_congr s t e _ _ m (fun l hl hm => ?_) hw
    have h0 : m ≠ 0 := by
      rintro rfl
      simp at hm
    obtain ⟨h1, h2⟩ := LaneMask.lowest_mem m h0
    exact h _ h1 h2
  | _ => exact pushed_congr s t e v k m h hw

/-- What a destination makes of a result is written as the result. -/
theorem written_writtenBy (s t : State) (e : Info) (d : Opnd) (v : Lanes) (m : LaneMask)
    (hw : Written s t e d (writtenBy d v m).at m) : Written s t e d v.at m := by
  cases d with
  | sreg n =>
    refine ⟨fun l hl => ?_, hw.2⟩
    rw [hw.1 l hl]
    by_cases hm : m = 0
    · simp [hm]
    · rw [if_pos hm, if_pos hm]
      exact (Lanes.at_uniform _ _).trans (if_pos (LaneMask.lowest_mem m hm).1)
  | _ => exact hw

theorem pushed_writtenBy (s t : State) (e : Info) (d : Opnd) (v : Lanes) (m : LaneMask)
    (hw : Pushed s t e (writtenBy d v m).at m) : PushedFrom s t e d v.at m := by
  cases d with
  | sreg n => exact pushed_congr s t e _ _ m (fun l hl _ => (Lanes.at_uniform _ _).trans (if_pos hl)) hw
  | _ => exact hw

/-- A result written and pushed (R64 to R66, R69). -/
theorem finish_spec (s t : State) (e : Info) (x : Nat) (d : Opnd) (v : Lanes) (m : LaneMask) (hi : Issuing s) (hc : codesOk e)
    (ht : t = ((s.consume e).spend x).finish (s.operands e) d v m) :
    Written s t e d v.at m ∧ PushedFrom s t e d v.at m ∧ Stepped s t e id (some d) [] := by
  rw [finish_eq] at ht
  obtain ⟨h1, h2, h3⟩ := finished_spec s t e x d _ m hi hc ht
  exact ⟨written_writtenBy s t e d v m h1, pushed_writtenBy s t e d v m h2, h3⟩

/-- An instruction that ends by writing and pushing its result yields it. -/
theorem yields_of_run (i : Instr) (s : State) (e : Info) (x : Nat) (d : Opnd) (k : Nat → Word) (v : Lanes)
    (hi : Issuing s) (hc : codesOk e)
    (hx : exec i s = .next (((s.consume e).spend x).finish (s.operands e) d v (s.acting e)))
    (hv : ∀ l, l < 32 → (s.acting e).getLsbD l = true → v.at l = k l) : Yields i s e d k := by
  obtain ⟨h1, h2, h3⟩ := finish_spec s _ e x d v (s.acting e) hi hc rfl
  exact ⟨_, hx, written_congr s _ e d _ k _ hv h1, pushedFrom_congr s _ e d _ k _ hv h2, h3⟩

end Sys2Proof.Laws
end

