-- ==== Sys2Proof/Laws/Fields.lean ====
section
/-!
SUPPORT. Fields.lean: the fields of an instruction word, read and placed (R20 to R24).
-/
namespace Sys2Proof

theorem Opnd.code_lt (o : Opnd) : o.code < 256 := by
  cases o <;> simp only [Opnd.code] <;> omega

theorem opOf_code (o : Opnd) : opOf o.code = o := by
  cases o with
  | age n => revert n; decide
  | cache n => revert n; decide
  | zero => rfl
  | lit => rfl
  | lane => rfl
  | none => rfl
  | sreg n => revert n; decide
  | greg n => revert n; decide +kernel

theorem Cond.code_lt (c : Cond) : c.code < 16 := by cases c <;> decide

theorem condOf_code (c : Cond) : condOf c.code = c := by cases c <;> rfl

theorem Bool.toNat_lt (b : Bool) : b.toNat < 2 := by cases b <;> decide

theorem opAt_eq {w lo : Nat} {o : Opnd} (h : w / 2 ^ lo % 256 = o.code) : opAt w lo = o := by rw [opAt, h, opOf_code]

theorem condAt_eq {w lo : Nat} {c : Cond} (h : w / 2 ^ lo % 16 = c.code) : condAt w lo = c := by rw [condAt, h, condOf_code]

theorem bvAt_eq {n w lo : Nat} {x : BitVec n} (h : w / 2 ^ lo % 2 ^ n = x.toNat) : bvAt n w lo = x :=
  BitVec.eq_of_toNat_eq (by rw [bvAt, BitVec.toNat_ofNat, h])

theorem finAt_eq {n w lo : Nat} {x : Fin (2 ^ n)} (h : w / 2 ^ lo % 2 ^ n = x.val) : finAt n w lo = x := Fin.ext h

theorem bitAt_eq {w lo : Nat} {b : Bool} (h : w / 2 ^ lo % 2 = b.toNat) : bitAt w lo = b := by
  rw [bitAt, h]; cases b <;> rfl

/-- The fields of a word as a number. -/
def placed (fs : List (Nat × Nat)) : Nat := (fs.map fun f => f.1 * 2 ^ f.2).sum

theorem packWord_eq (op : Nat) (fs : List (Nat × Nat)) : packWord op fs = op * 2 ^ 24 + placed fs := by exact rfl
theorem placed_nil : placed [] = 0 := by exact rfl
theorem placed_cons (v lo : Nat) (r : List (Nat × Nat)) : placed ((v, lo) :: r) = v * 2 ^ lo + placed r := by exact rfl

end Sys2Proof
end

