-- ==== Sys2Proof/Laws/Lanes.lean ====
section
/-!
SUPPORT. Lanes.lean: an instruction whose lanes may trap, as the statements say it, and the integers of the registers.
-/
namespace Sys2Proof.Laws

open Sys2Proof.Machine Sys2Proof.Safety

theorem codesOk_nil (e : Info) (h1 : e.blockA = []) (h2 : e.blockB = []) (h3 : e.blockD = []) : codesOk e := by
  intro r hr; simp [h1, h2, h3] at hr

theorem lane_lt (m : LaneMask) (l : Nat) (h : m.getLsbD l = true) : l < 32 := by
  rcases Nat.lt_or_ge l 32 with h' | h'
  · exact h'
  · rw [BitVec.getLsbD_of_ge m l h'] at h; cases h

/-- The statements' sound lanes are the model's. -/
theorem soundLanes_eq (e : Info) (s : State) (f : Nat → LaneRes) : okLanes (s.operands e) f = soundLanes e s f := by
  apply BitVec.eq_of_getLsbD_eq
  intro l hl
  unfold okLanes soundLanes trapsIn
  rw [getLsbD_maskOf, getLsbD_maskOf, operands_act]
  cases (s.acting e).getLsbD l <;> cases f l <;> rfl

theorem soundLanes_all (e : Info) (s : State) (f : Nat → LaneRes) (h : ∀ l, trapsIn e s f l = false) : soundLanes e s f = s.acting e := by
  apply BitVec.eq_of_getLsbD_eq
  intro l hl
  unfold soundLanes
  rw [getLsbD_maskOf, h l]
  simp [hl]

/-- The records of an instruction whose group still has the fields that a record takes. -/
theorem trapRecs_eq (e : Info) (s t : State) (dest : Nat) (f : Nat → LaneRes)
    (h : ∀ l cause dest status fault a b c repair, t.laneRec l cause dest status fault a b c repair =
      s.laneRec l cause dest status fault a b c repair) :
    trapRecs t (s.operands e) dest f = recordsOf e s dest f := by
  unfold trapRecs recordsOf
  congr 1
  funext l
  unfold recordOf
  cases f l with
  | val v => rfl
  | trap cause status repair fault => simp only [h]; rfl

theorem recordsOf_nil (e : Info) (s : State) (dest : Nat) (f : Nat → LaneRes) (h : ∀ l, trapsIn e s f l = false) :
    recordsOf e s dest f = [] := by
  unfold recordsOf
  rw [List.filterMap_eq_nil_iff]
  intro l hl
  have ha := ((LaneMask.mem_lanes _ l).mp hl).2
  have := h l
  unfold trapsIn at this
  rw [ha, Bool.true_and] at this
  unfold recordOf
  cases hf : f l with
  | val v => rfl
  | trap c st r q => rw [hf] at this; cases this

/-- The issue leaves what a lane's record takes. -/
theorem laneRec_consume (s : State) (e : Info) (x : Nat) (hi : Issuing s) (l cause dest status : Nat) (fault a b c repair : Word) :
    ((s.consume e).spend x).laneRec l cause dest status fault a b c repair = s.laneRec l cause dest status fault a b c repair := by
  have hg : ((s.consume e).spend x).g = issued e s s.g := by
    rw [consume_eq, State.spend_g, State.spend_g, State.g_modG s _ hi (fun g hg => by rw [issued_unit, hg])]
  have hr := issued_rest e s s.g
  have key : ∀ {α : Type} (f : Group → α), (∀ g, f g = f (groupRest g)) → f (issued e s s.g) = f s.g := by
    intro α f hf
    rw [hf, hr, ← hf]
  unfold State.laneRec
  rw [hg]
  have hs : (issued e s s.g).slice (l / 4) = s.g.slice (l / 4) := by unfold Group.slice; rw [issued_slices]
  have h1 : (issued e s s.g).threadRec l cause ((s.consume e).spend x).cur.pc = s.g.threadRec l cause s.cur.pc := by
    have hd : ∀ g : Group, g.threadRec l cause s.cur.pc = { (groupRest g).threadRec l cause s.cur.pc with depth := (g.slice (l / 4)).depth } :=
      fun _ => rfl
    show (issued e s s.g).threadRec l cause s.cur.pc = _
    rw [hd, hd s.g, hs, hr]
  have h2 (r : TrapRec) : ((s.consume e).spend x).nested (issued e s s.g) r = s.nested s.g r := key (fun g => s.nested g r) (fun _ => rfl)
  simp only [h1, h2]
  rfl

theorem yields_congr (i : Instr) (s : State) (e : Info) (d : Opnd) (v k : Nat → Word)
    (h : ∀ l, l < 32 → (s.acting e).getLsbD l = true → v l = k l) (hy : Yields i s e d v) : Yields i s e d k := by
  obtain ⟨t, h1, h2, h3, h4⟩ := hy
  exact ⟨t, h1, written_congr s t e d v k _ h h2, pushedFrom_congr s t e d v k _ h h3, h4⟩

/-- An instruction that ends by `finishLanes` does what its outcomes say, lane by lane. -/
theorem perLane_spec (i : Instr) (s : State) (e : Info) (x : Nat) (d : Opnd) (f : Nat → LaneRes) (hi : Issuing s) (hc : codesOk e)
    (hx : exec i s = .next (((s.consume e).spend x).finishLanes (s.operands e) d f)) : PerLane i s e d f := by
  have hrec : trapRecs ((s.consume e).spend x) (s.operands e) d.code f = recordsOf e s d.code f :=
    trapRecs_eq e s _ d.code f (fun l c de st fa a b cc r => laneRec_consume s e x hi l c de st fa a b cc r)
  unfold State.finishLanes at hx
  rw [hrec, soundLanes_eq] at hx
  have hv : ∀ l, l < 32 → (resLanes f).at l = outcomeValue f l := by
    intro l hl
    unfold resLanes
    rw [Lanes.at_of, if_pos hl]
    rfl
  have hk : (((s.consume e).spend x).finish (s.operands e) d (resLanes f) (soundLanes e s f)).g.kind = s.g.kind := by
    have h := (finish_spec s _ e x d (resLanes f) (soundLanes e s f) hi hc rfl).2.2.rest
    exact (congrArg Group.kind h : (groupRest _).kind = (groupRest _).kind)
  have hcur : (((s.consume e).spend x).finish (s.operands e) d (resLanes f) (soundLanes e s f)).cur = s.cur := by
    have h := (finish_spec s _ e x d (resLanes f) (soundLanes e s f) hi hc rfl).2.2.device
    exact (congrArg State.cur h : (deviceRest _).cur = (deviceRest _).cur)
  refine ⟨fun h => ?_, fun r rs hrs => ⟨fun hcu => ?_, fun hcu => ?_⟩⟩
  · rw [recordsOf_nil e s _ f h, soundLanes_all e s f h] at hx
    exact yields_of_run i s e x d (outcomeValue f) (resLanes f) hi hc hx (fun l hl _ => hv l hl)
  · rw [hrs] at hx
    rw [hx]
    unfold State.detach
    rw [hk, if_neg (by simp), if_pos hcu]
    rfl
  · rw [hrs] at hx
    unfold State.detach at hx
    rw [hk, if_neg (by simp), if_neg hcu, hcur, show (s.operands e).orig.cyc = s.cyc from rfl] at hx
    obtain ⟨h1, h2, h3⟩ := finish_spec s _ e x d (resLanes f) (soundLanes e s f) hi hc rfl
    exact ⟨_, hx, written_congr s _ e d _ _ _ (fun l hl _ => hv l hl) h1, pushedFrom_congr s _ e d _ _ _ (fun l hl _ => hv l hl) h2, h3⟩

/-- Where no lane traps, such an instruction yields its values. -/
theorem perLane_yields (i : Instr) (s : State) (e : Info) (x : Nat) (d : Opnd) (f : Nat → LaneRes) (k : Nat → Word)
    (hi : Issuing s) (hc : codesOk e) (hx : exec i s = .next (((s.consume e).spend x).finishLanes (s.operands e) d f))
    (hf : ∀ l, l < 32 → (s.acting e).getLsbD l = true → f l = .val (k l)) : Yields i s e d k := by
  have h := (perLane_spec i s e x d f hi hc hx).1 ?_
  · apply yields_congr i s e d _ k _ h
    intro l hl ha
    unfold outcomeValue
    rw [hf l hl ha]
  · intro l
    unfold trapsIn
    by_cases ha : (s.acting e).getLsbD l = true
    · rw [hf l (lane_lt _ l ha) ha]; simp
    · simp [ha]

/-- An entry and what follows from its executing. -/
theorem runs_intro (i : Instr) (s : State) (P : Info → Prop) (e : Info) (h : entryOf i s = some e) (hp : ready e s = true → P e) :
    Runs i s P := by
  intro e' he' hr
  rw [h] at he'
  injection he' with he'
  subst he'
  exact hp hr

/-! ### Integers (R40, R48, R49) -/

theorem width_pos (t : EType) : 0 < t.width := by cases t <;> decide

theorem intOf_signed (r w : Nat) (hw : 0 < w) : intOf r w true = (r : Int).bmod (2 ^ w) := by
  unfold intOf Int.bmod
  have h2 : 2 ^ w = 2 * 2 ^ (w - 1) := by
    rw [← Nat.pow_succ']; congr 1; omega
  have hm : (r : Int) % ((2 ^ w : Nat) : Int) = ((r % 2 ^ w : Nat) : Int) := by simp
  simp only [Bool.true_and, ge_iff_le, decide_eq_true_eq]
  rw [hm]
  have hlt : r % 2 ^ w < 2 ^ w := Nat.mod_lt _ (Nat.two_pow_pos w)
  generalize r % 2 ^ w = q at *
  rw [h2] at *
  generalize 2 ^ (w - 1) = p at *
  split <;> split <;> omega

/-- The integer of a register is the statements'. -/
theorem intArg_eq (t : EType) (v : Word) : intArg t v = intOf v.toNat t.width t.signed := by
  unfold intArg
  cases h : t.signed
  · simp [intOf]
  · simp only [if_true]; exact (intOf_signed _ _ (width_pos t)).symm

theorem intWord_eq (w : Nat) (sg : Bool) (v : Int) (hw : 0 < w) : intImage v w sg = intWord w sg v := by
  unfold intImage intWord
  congr 1
  have hp : (0 : Int) < ((2 ^ w : Nat) : Int) := by have := Nat.two_pow_pos w; omega
  have h0 : 0 ≤ v % ((2 ^ w : Nat) : Int) := Int.emod_nonneg _ (by omega)
  cases sg
  · unfold intOf
    simp only [Bool.false_and, Bool.false_eq_true, if_false]
    have hl : v % ((2 ^ w : Nat) : Int) < ((2 ^ w : Nat) : Int) := Int.emod_lt_of_pos _ hp
    rw [Nat.mod_eq_of_lt (by omega)]
    omega
  · rw [intOf_signed _ _ hw]
    simp only [if_true]
    rw [Int.toNat_of_nonneg h0]
    exact Int.emod_bmod v (2 ^ w)

/-- Fit of R149 is the statements'. -/
theorem intResult_eq (t : EType) (sat : Bool) (v : Int) : fitInt sat v t.width t.signed = intResult t sat v := by
  unfold fitInt intResult
  rw [intWord_eq _ _ _ (width_pos t)]
  cases sat
  · rfl
  · simp only [if_true]
    congr 1
    have hmin : intMin t.width t.signed = leastOf t := by
      unfold intMin leastOf; split <;> simp
    have hmax : intMax t.width t.signed = greatestOf t := by
      unfold intMax greatestOf; split <;> simp
    have hle : leastOf t ≤ greatestOf t := by cases t <;> decide
    unfold clampInt
    rw [hmin, hmax]
    split
    · omega
    · split <;> omega

end Sys2Proof.Laws
end

