-- ==== Sys2Proof/Laws/PerInstr.lean ====
section
/-!
SUPPORT. PerInstr.lean: for each constructor of Instr, that decoding the word of a well-formed instruction gives it back
(R20 to R24, R33, R34), with every operand at every value of its field.
-/
namespace Sys2Proof.Laws

set_option Elab.async false

/-- The word of a well-formed instruction decodes to it; an event has no word. -/
def RoundTrip.Statement (i : Instr) : Prop := i.wf = true → encode i ≠ noWord → decode (encode i) = .ok i

/-! ### The table of each opcode range -/

theorem decode_0 {w : Nat} (h : w / 2 ^ 28 % 16 = 0) : decode w = decodeControl w := by rw [decode, h]; rfl
theorem decode_1 {w : Nat} (h : w / 2 ^ 28 % 16 = 1) : decode w = decodeControl w := by rw [decode, h]; rfl
theorem decode_2 {w : Nat} (h : w / 2 ^ 28 % 16 = 2) : decode w = decodeInteger w := by rw [decode, h]; rfl
theorem decode_3 {w : Nat} (h : w / 2 ^ 28 % 16 = 3) : decode w = decodeLogic w := by rw [decode, h]; rfl
theorem decode_4 {w : Nat} (h : w / 2 ^ 28 % 16 = 4) : decode w = decodeFloat w := by rw [decode, h]; rfl
theorem decode_5 {w : Nat} (h : w / 2 ^ 28 % 16 = 5) : decode w = decodeConvert w := by rw [decode, h]; rfl
theorem decode_6 {w : Nat} (h : w / 2 ^ 28 % 16 = 6) : decode w = decodeLane w := by rw [decode, h]; rfl
theorem decode_7 {w : Nat} (h : w / 2 ^ 28 % 16 = 7) : decode w = decodeRegister w := by rw [decode, h]; rfl
theorem decode_8 {w : Nat} (h : w / 2 ^ 28 % 16 = 8) : decode w = decodeMemory w := by rw [decode, h]; rfl
theorem decode_9 {w : Nat} (h : w / 2 ^ 28 % 16 = 9) : decode w = decodeAtomic w := by rw [decode, h]; rfl
theorem decode_10 {w : Nat} (h : w / 2 ^ 28 % 16 = 10) : decode w = decodeEngine w := by rw [decode, h]; rfl
theorem decode_11 {w : Nat} (h : w / 2 ^ 28 % 16 = 11) : decode w = decodeSync w := by rw [decode, h]; rfl
theorem decode_12 {w : Nat} (h : w / 2 ^ 28 % 16 = 12) : decode w = decodeMatrix w := by rw [decode, h]; rfl
theorem decode_13 {w : Nat} (h : w / 2 ^ 28 % 16 = 13) : decode w = decodeTable w := by rw [decode, h]; rfl
theorem decode_14 {w : Nat} (h : w / 2 ^ 28 % 16 = 14) : decode w = decodeSupervisor w := by rw [decode, h]; rfl

/-! ### The fields of packed words -/

theorem fields_0_24 (op : Nat) {x0 : Nat} (h0 : x0 < 2 ^ 24) (ho : op < 256 := by decide) :
    (packWord op [(x0, 0)]) / 2 ^ 28 % 16 = op / 16 ∧
    (packWord op [(x0, 0)]) / 2 ^ 24 % 2 ^ 8 = op ∧
    (packWord op [(x0, 0)]) / 2 ^ 0 % 2 ^ 24 = x0 := by
  simp only [packWord_eq, placed_cons, placed_nil, Nat.reducePow] at *; omega
theorem fields_23_1_20_3_0_20 (op : Nat) {x0 x1 x2 : Nat} (h0 : x0 < 2) (h1 : x1 < 2 ^ 3) (h2 : x2 < 2 ^ 20) (ho : op < 256 := by decide) :
    (packWord op [(x0, 23), (x1, 20), (x2, 0)]) / 2 ^ 28 % 16 = op / 16 ∧
    (packWord op [(x0, 23), (x1, 20), (x2, 0)]) / 2 ^ 24 % 2 ^ 8 = op ∧
    (packWord op [(x0, 23), (x1, 20), (x2, 0)]) / 2 ^ 23 % 2 = x0 ∧
    (packWord op [(x0, 23), (x1, 20), (x2, 0)]) / 2 ^ 20 % 2 ^ 3 = x1 ∧
    (packWord op [(x0, 23), (x1, 20), (x2, 0)]) / 2 ^ 0 % 2 ^ 20 = x2 := by
  simp only [packWord_eq, placed_cons, placed_nil, Nat.reducePow] at *; omega
theorem fields_8_8_z_8_0_16_8_0 (op : Nat) {x0 : Nat} (h0 : x0 < 256) (ho : op < 256 := by decide) :
    (packWord op [(x0, 8)]) / 2 ^ 28 % 16 = op / 16 ∧
    (packWord op [(x0, 8)]) / 2 ^ 24 % 2 ^ 8 = op ∧
    (packWord op [(x0, 8)]) / 2 ^ 8 % 256 = x0 ∧
    (packWord op [(x0, 8)]) % 2 ^ 8 = 0 ∧
    (packWord op [(x0, 8)]) / 2 ^ 16 % 2 ^ 8 = 0 := by
  simp only [packWord_eq, placed_cons, placed_nil, Nat.reducePow] at *; omega
theorem fields_16_8_8_8_z_8_0 (op : Nat) {x0 x1 : Nat} (h0 : x0 < 256) (h1 : x1 < 256) (ho : op < 256 := by decide) :
    (packWord op [(x0, 16), (x1, 8)]) / 2 ^ 28 % 16 = op / 16 ∧
    (packWord op [(x0, 16), (x1, 8)]) / 2 ^ 24 % 2 ^ 8 = op ∧
    (packWord op [(x0, 16), (x1, 8)]) / 2 ^ 16 % 256 = x0 ∧
    (packWord op [(x0, 16), (x1, 8)]) / 2 ^ 8 % 256 = x1 ∧
    (packWord op [(x0, 16), (x1, 8)]) % 2 ^ 8 = 0 := by
  simp only [packWord_eq, placed_cons, placed_nil, Nat.reducePow] at *; omega
theorem fields_8_8_0_8_z_16_8_0 (op : Nat) {x0 x1 : Nat} (h0 : x0 < 256) (h1 : x1 < 2 ^ 8) (ho : op < 256 := by decide) :
    (packWord op [(x0, 8), (x1, 0)]) / 2 ^ 28 % 16 = op / 16 ∧
    (packWord op [(x0, 8), (x1, 0)]) / 2 ^ 24 % 2 ^ 8 = op ∧
    (packWord op [(x0, 8), (x1, 0)]) / 2 ^ 8 % 256 = x0 ∧
    (packWord op [(x0, 8), (x1, 0)]) / 2 ^ 0 % 2 ^ 8 = x1 ∧
    (packWord op [(x0, 8), (x1, 0)]) / 2 ^ 16 % 2 ^ 8 = 0 := by
  simp only [packWord_eq, placed_cons, placed_nil, Nat.reducePow] at *; omega
theorem fields_16_8_8_8_0_8 (op : Nat) {x0 x1 x2 : Nat} (h0 : x0 < 256) (h1 : x1 < 256) (h2 : x2 < 2 ^ 8) (ho : op < 256 := by decide) :
    (packWord op [(x0, 16), (x1, 8), (x2, 0)]) / 2 ^ 28 % 16 = op / 16 ∧
    (packWord op [(x0, 16), (x1, 8), (x2, 0)]) / 2 ^ 24 % 2 ^ 8 = op ∧
    (packWord op [(x0, 16), (x1, 8), (x2, 0)]) / 2 ^ 16 % 256 = x0 ∧
    (packWord op [(x0, 16), (x1, 8), (x2, 0)]) / 2 ^ 8 % 256 = x1 ∧
    (packWord op [(x0, 16), (x1, 8), (x2, 0)]) / 2 ^ 0 % 2 ^ 8 = x2 := by
  simp only [packWord_eq, placed_cons, placed_nil, Nat.reducePow] at *; omega
theorem fields_16_8_8_8_0_8_imm (op : Nat) {x0 x1 x2 : Nat} (h0 : x0 < 256) (h1 : x1 < 256) (h2 : x2 < 256) (ho : op < 256 := by decide) :
    (packWord op [(x0, 16), (x1, 8), (x2, 0)]) / 2 ^ 28 % 16 = op / 16 ∧
    (packWord op [(x0, 16), (x1, 8), (x2, 0)]) / 2 ^ 24 % 2 ^ 8 = op ∧
    (packWord op [(x0, 16), (x1, 8), (x2, 0)]) / 2 ^ 16 % 256 = x0 ∧
    (packWord op [(x0, 16), (x1, 8), (x2, 0)]) / 2 ^ 8 % 256 = x1 ∧
    (packWord op [(x0, 16), (x1, 8), (x2, 0)]) / 2 ^ 0 % 256 = x2 := by
  simp only [packWord_eq, placed_cons, placed_nil, Nat.reducePow] at *; omega
theorem fields_8_8_0_8_z_16_8_0_imm (op : Nat) {x0 x1 : Nat} (h0 : x0 < 256) (h1 : x1 < 256) (ho : op < 256 := by decide) :
    (packWord op [(x0, 8), (x1, 0)]) / 2 ^ 28 % 16 = op / 16 ∧
    (packWord op [(x0, 8), (x1, 0)]) / 2 ^ 24 % 2 ^ 8 = op ∧
    (packWord op [(x0, 8), (x1, 0)]) / 2 ^ 8 % 256 = x0 ∧
    (packWord op [(x0, 8), (x1, 0)]) / 2 ^ 0 % 256 = x1 ∧
    (packWord op [(x0, 8), (x1, 0)]) / 2 ^ 16 % 2 ^ 8 = 0 := by
  simp only [packWord_eq, placed_cons, placed_nil, Nat.reducePow] at *; omega
theorem fields_16_8_0_8_z_8_8_0 (op : Nat) {x0 x1 : Nat} (h0 : x0 < 256) (h1 : x1 < 2 ^ 8) (ho : op < 256 := by decide) :
    (packWord op [(x0, 16), (x1, 0)]) / 2 ^ 28 % 16 = op / 16 ∧
    (packWord op [(x0, 16), (x1, 0)]) / 2 ^ 24 % 2 ^ 8 = op ∧
    (packWord op [(x0, 16), (x1, 0)]) / 2 ^ 16 % 256 = x0 ∧
    (packWord op [(x0, 16), (x1, 0)]) / 2 ^ 0 % 2 ^ 8 = x1 ∧
    (packWord op [(x0, 16), (x1, 0)]) / 2 ^ 8 % 2 ^ 8 = 0 := by
  simp only [packWord_eq, placed_cons, placed_nil, Nat.reducePow] at *; omega
theorem fields_19_4_16_3_8_8_0_8_z_23_1_0 (op : Nat) {x0 x1 x2 x3 : Nat} (h0 : x0 < 16) (h1 : x1 < 2 ^ 3) (h2 : x2 < 256) (h3 : x3 < 256) (ho : op < 256 := by decide) :
    (packWord op [(x0, 19), (x1, 16), (x2, 8), (x3, 0)]) / 2 ^ 28 % 16 = op / 16 ∧
    (packWord op [(x0, 19), (x1, 16), (x2, 8), (x3, 0)]) / 2 ^ 24 % 2 ^ 8 = op ∧
    (packWord op [(x0, 19), (x1, 16), (x2, 8), (x3, 0)]) / 2 ^ 19 % 16 = x0 ∧
    (packWord op [(x0, 19), (x1, 16), (x2, 8), (x3, 0)]) / 2 ^ 16 % 2 ^ 3 = x1 ∧
    (packWord op [(x0, 19), (x1, 16), (x2, 8), (x3, 0)]) / 2 ^ 8 % 256 = x2 ∧
    (packWord op [(x0, 19), (x1, 16), (x2, 8), (x3, 0)]) / 2 ^ 0 % 256 = x3 ∧
    (packWord op [(x0, 19), (x1, 16), (x2, 8), (x3, 0)]) / 2 ^ 23 % 2 ^ 1 = 0 := by
  simp only [packWord_eq, placed_cons, placed_nil, Nat.reducePow] at *; omega
theorem fields_16_8_8_8_0_5_z_5_3_0 (op : Nat) {x0 x1 x2 : Nat} (h0 : x0 < 256) (h1 : x1 < 256) (h2 : x2 < 2 ^ 5) (ho : op < 256 := by decide) :
    (packWord op [(x0, 16), (x1, 8), (x2, 0)]) / 2 ^ 28 % 16 = op / 16 ∧
    (packWord op [(x0, 16), (x1, 8), (x2, 0)]) / 2 ^ 24 % 2 ^ 8 = op ∧
    (packWord op [(x0, 16), (x1, 8), (x2, 0)]) / 2 ^ 16 % 256 = x0 ∧
    (packWord op [(x0, 16), (x1, 8), (x2, 0)]) / 2 ^ 8 % 256 = x1 ∧
    (packWord op [(x0, 16), (x1, 8), (x2, 0)]) / 2 ^ 0 % 2 ^ 5 = x2 ∧
    (packWord op [(x0, 16), (x1, 8), (x2, 0)]) / 2 ^ 5 % 2 ^ 3 = 0 := by
  simp only [packWord_eq, placed_cons, placed_nil, Nat.reducePow] at *; omega
theorem fields_19_4_16_3_11_1_8_3_z_8_0_14_0_23_1_0 (op : Nat) {x0 x1 x2 x3 : Nat} (h0 : x0 < 2 ^ 4) (h1 : x1 < 2 ^ 3) (h2 : x2 < 2) (h3 : x3 < 2 ^ 3) (ho : op < 256 := by decide) :
    (packWord op [(x0, 19), (x1, 16), (x2, 11), (x3, 8)]) / 2 ^ 28 % 16 = op / 16 ∧
    (packWord op [(x0, 19), (x1, 16), (x2, 11), (x3, 8)]) / 2 ^ 24 % 2 ^ 8 = op ∧
    (packWord op [(x0, 19), (x1, 16), (x2, 11), (x3, 8)]) / 2 ^ 19 % 2 ^ 4 = x0 ∧
    (packWord op [(x0, 19), (x1, 16), (x2, 11), (x3, 8)]) / 2 ^ 16 % 2 ^ 3 = x1 ∧
    (packWord op [(x0, 19), (x1, 16), (x2, 11), (x3, 8)]) / 2 ^ 11 % 2 = x2 ∧
    (packWord op [(x0, 19), (x1, 16), (x2, 11), (x3, 8)]) / 2 ^ 8 % 2 ^ 3 = x3 ∧
    (packWord op [(x0, 19), (x1, 16), (x2, 11), (x3, 8)]) % 2 ^ 8 = 0 ∧
    (packWord op [(x0, 19), (x1, 16), (x2, 11), (x3, 8)]) / 2 ^ 12 % 2 ^ 4 = 0 ∧
    (packWord op [(x0, 19), (x1, 16), (x2, 11), (x3, 8)]) / 2 ^ 23 % 2 ^ 1 = 0 := by
  simp only [packWord_eq, placed_cons, placed_nil, Nat.reducePow] at *; omega
theorem fields_16_8_11_1_8_3_z_8_0_14_0 (op : Nat) {x0 x1 x2 : Nat} (h0 : x0 < 256) (h1 : x1 < 2) (h2 : x2 < 2 ^ 3) (ho : op < 256 := by decide) :
    (packWord op [(x0, 16), (x1, 11), (x2, 8)]) / 2 ^ 28 % 16 = op / 16 ∧
    (packWord op [(x0, 16), (x1, 11), (x2, 8)]) / 2 ^ 24 % 2 ^ 8 = op ∧
    (packWord op [(x0, 16), (x1, 11), (x2, 8)]) / 2 ^ 16 % 256 = x0 ∧
    (packWord op [(x0, 16), (x1, 11), (x2, 8)]) / 2 ^ 11 % 2 = x1 ∧
    (packWord op [(x0, 16), (x1, 11), (x2, 8)]) / 2 ^ 8 % 2 ^ 3 = x2 ∧
    (packWord op [(x0, 16), (x1, 11), (x2, 8)]) % 2 ^ 8 = 0 ∧
    (packWord op [(x0, 16), (x1, 11), (x2, 8)]) / 2 ^ 12 % 2 ^ 4 = 0 := by
  simp only [packWord_eq, placed_cons, placed_nil, Nat.reducePow] at *; omega
theorem fields_16_3_11_1_8_3_3_1_0_3_z_4_4_0_14_0_19_5_0 (op : Nat) {x0 x1 x2 x3 x4 : Nat} (h0 : x0 < 2 ^ 3) (h1 : x1 < 2) (h2 : x2 < 2 ^ 3) (h3 : x3 < 2) (h4 : x4 < 2 ^ 3) (ho : op < 256 := by decide) :
    (packWord op [(x0, 16), (x1, 11), (x2, 8), (x3, 3), (x4, 0)]) / 2 ^ 28 % 16 = op / 16 ∧
    (packWord op [(x0, 16), (x1, 11), (x2, 8), (x3, 3), (x4, 0)]) / 2 ^ 24 % 2 ^ 8 = op ∧
    (packWord op [(x0, 16), (x1, 11), (x2, 8), (x3, 3), (x4, 0)]) / 2 ^ 16 % 2 ^ 3 = x0 ∧
    (packWord op [(x0, 16), (x1, 11), (x2, 8), (x3, 3), (x4, 0)]) / 2 ^ 11 % 2 = x1 ∧
    (packWord op [(x0, 16), (x1, 11), (x2, 8), (x3, 3), (x4, 0)]) / 2 ^ 8 % 2 ^ 3 = x2 ∧
    (packWord op [(x0, 16), (x1, 11), (x2, 8), (x3, 3), (x4, 0)]) / 2 ^ 3 % 2 = x3 ∧
    (packWord op [(x0, 16), (x1, 11), (x2, 8), (x3, 3), (x4, 0)]) / 2 ^ 0 % 2 ^ 3 = x4 ∧
    (packWord op [(x0, 16), (x1, 11), (x2, 8), (x3, 3), (x4, 0)]) / 2 ^ 4 % 2 ^ 4 = 0 ∧
    (packWord op [(x0, 16), (x1, 11), (x2, 8), (x3, 3), (x4, 0)]) / 2 ^ 12 % 2 ^ 4 = 0 ∧
    (packWord op [(x0, 16), (x1, 11), (x2, 8), (x3, 3), (x4, 0)]) / 2 ^ 19 % 2 ^ 5 = 0 := by
  simp only [packWord_eq, placed_cons, placed_nil, Nat.reducePow] at *; omega
theorem fields_16_3_11_1_8_3_z_8_0_14_0_19_5_0 (op : Nat) {x0 x1 x2 : Nat} (h0 : x0 < 2 ^ 3) (h1 : x1 < 2) (h2 : x2 < 2 ^ 3) (ho : op < 256 := by decide) :
    (packWord op [(x0, 16), (x1, 11), (x2, 8)]) / 2 ^ 28 % 16 = op / 16 ∧
    (packWord op [(x0, 16), (x1, 11), (x2, 8)]) / 2 ^ 24 % 2 ^ 8 = op ∧
    (packWord op [(x0, 16), (x1, 11), (x2, 8)]) / 2 ^ 16 % 2 ^ 3 = x0 ∧
    (packWord op [(x0, 16), (x1, 11), (x2, 8)]) / 2 ^ 11 % 2 = x1 ∧
    (packWord op [(x0, 16), (x1, 11), (x2, 8)]) / 2 ^ 8 % 2 ^ 3 = x2 ∧
    (packWord op [(x0, 16), (x1, 11), (x2, 8)]) % 2 ^ 8 = 0 ∧
    (packWord op [(x0, 16), (x1, 11), (x2, 8)]) / 2 ^ 12 % 2 ^ 4 = 0 ∧
    (packWord op [(x0, 16), (x1, 11), (x2, 8)]) / 2 ^ 19 % 2 ^ 5 = 0 := by
  simp only [packWord_eq, placed_cons, placed_nil, Nat.reducePow] at *; omega
theorem fields_16_3_8_8_z_8_0_19_5_0 (op : Nat) {x0 x1 : Nat} (h0 : x0 < 2 ^ 3) (h1 : x1 < 256) (ho : op < 256 := by decide) :
    (packWord op [(x0, 16), (x1, 8)]) / 2 ^ 28 % 16 = op / 16 ∧
    (packWord op [(x0, 16), (x1, 8)]) / 2 ^ 24 % 2 ^ 8 = op ∧
    (packWord op [(x0, 16), (x1, 8)]) / 2 ^ 16 % 2 ^ 3 = x0 ∧
    (packWord op [(x0, 16), (x1, 8)]) / 2 ^ 8 % 256 = x1 ∧
    (packWord op [(x0, 16), (x1, 8)]) % 2 ^ 8 = 0 ∧
    (packWord op [(x0, 16), (x1, 8)]) / 2 ^ 19 % 2 ^ 5 = 0 := by
  simp only [packWord_eq, placed_cons, placed_nil, Nat.reducePow] at *; omega
theorem fields_16_3_8_8_0_6_z_6_0_19_5_0 (op : Nat) {x0 x1 x2 : Nat} (h0 : x0 < 2 ^ 3) (h1 : x1 < 256) (h2 : x2 < 2 ^ 6) (ho : op < 256 := by decide) :
    (packWord op [(x0, 16), (x1, 8), (x2, 0)]) / 2 ^ 28 % 16 = op / 16 ∧
    (packWord op [(x0, 16), (x1, 8), (x2, 0)]) / 2 ^ 24 % 2 ^ 8 = op ∧
    (packWord op [(x0, 16), (x1, 8), (x2, 0)]) / 2 ^ 16 % 2 ^ 3 = x0 ∧
    (packWord op [(x0, 16), (x1, 8), (x2, 0)]) / 2 ^ 8 % 256 = x1 ∧
    (packWord op [(x0, 16), (x1, 8), (x2, 0)]) / 2 ^ 0 % 2 ^ 6 = x2 ∧
    (packWord op [(x0, 16), (x1, 8), (x2, 0)]) / 2 ^ 6 % 2 ^ 2 = 0 ∧
    (packWord op [(x0, 16), (x1, 8), (x2, 0)]) / 2 ^ 19 % 2 ^ 5 = 0 := by
  simp only [packWord_eq, placed_cons, placed_nil, Nat.reducePow] at *; omega
theorem fields_16_8_8_3_z_8_0_11_5_0 (op : Nat) {x0 x1 : Nat} (h0 : x0 < 256) (h1 : x1 < 2 ^ 3) (ho : op < 256 := by decide) :
    (packWord op [(x0, 16), (x1, 8)]) / 2 ^ 28 % 16 = op / 16 ∧
    (packWord op [(x0, 16), (x1, 8)]) / 2 ^ 24 % 2 ^ 8 = op ∧
    (packWord op [(x0, 16), (x1, 8)]) / 2 ^ 16 % 256 = x0 ∧
    (packWord op [(x0, 16), (x1, 8)]) / 2 ^ 8 % 2 ^ 3 = x1 ∧
    (packWord op [(x0, 16), (x1, 8)]) % 2 ^ 8 = 0 ∧
    (packWord op [(x0, 16), (x1, 8)]) / 2 ^ 11 % 2 ^ 5 = 0 := by
  simp only [packWord_eq, placed_cons, placed_nil, Nat.reducePow] at *; omega
theorem fields_16_8_0_3_z_3_13_0 (op : Nat) {x0 x1 : Nat} (h0 : x0 < 256) (h1 : x1 < 2 ^ 3) (ho : op < 256 := by decide) :
    (packWord op [(x0, 16), (x1, 0)]) / 2 ^ 28 % 16 = op / 16 ∧
    (packWord op [(x0, 16), (x1, 0)]) / 2 ^ 24 % 2 ^ 8 = op ∧
    (packWord op [(x0, 16), (x1, 0)]) / 2 ^ 16 % 256 = x0 ∧
    (packWord op [(x0, 16), (x1, 0)]) / 2 ^ 0 % 2 ^ 3 = x1 ∧
    (packWord op [(x0, 16), (x1, 0)]) / 2 ^ 3 % 2 ^ 13 = 0 := by
  simp only [packWord_eq, placed_cons, placed_nil, Nat.reducePow] at *; omega
theorem fields_8_8_0_z_6_0_16_8_0 (op : Nat) {x0 x1 : Nat} (h0 : x0 < 256) (h1 : x1 < 2 ^ 2) (ho : op < 256 := by decide) :
    (packWord op [(x0, 8), (x1, 0)]) / 2 ^ 28 % 16 = op / 16 ∧
    (packWord op [(x0, 8), (x1, 0)]) / 2 ^ 24 % 2 ^ 8 = op ∧
    (packWord op [(x0, 8), (x1, 0)]) / 2 ^ 8 % 256 = x0 ∧
    (packWord op [(x0, 8), (x1, 0)]) / 2 ^ 0 % 2 ^ 2 = x1 ∧
    (packWord op [(x0, 8), (x1, 0)]) / 2 ^ 2 % 2 ^ 6 = 0 ∧
    (packWord op [(x0, 8), (x1, 0)]) / 2 ^ 16 % 2 ^ 8 = 0 := by
  simp only [packWord_eq, placed_cons, placed_nil, Nat.reducePow] at *; omega
theorem fields_8_8_0_3_z_3_5_0_16_8_0 (op : Nat) {x0 x1 : Nat} (h0 : x0 < 256) (h1 : x1 < 2 ^ 3) (ho : op < 256 := by decide) :
    (packWord op [(x0, 8), (x1, 0)]) / 2 ^ 28 % 16 = op / 16 ∧
    (packWord op [(x0, 8), (x1, 0)]) / 2 ^ 24 % 2 ^ 8 = op ∧
    (packWord op [(x0, 8), (x1, 0)]) / 2 ^ 8 % 256 = x0 ∧
    (packWord op [(x0, 8), (x1, 0)]) / 2 ^ 0 % 2 ^ 3 = x1 ∧
    (packWord op [(x0, 8), (x1, 0)]) / 2 ^ 3 % 2 ^ 5 = 0 ∧
    (packWord op [(x0, 8), (x1, 0)]) / 2 ^ 16 % 2 ^ 8 = 0 := by
  simp only [packWord_eq, placed_cons, placed_nil, Nat.reducePow] at *; omega
theorem fields_16_8_8_8_4_4_0_4 (op : Nat) {x0 x1 x2 x3 : Nat} (h0 : x0 < 256) (h1 : x1 < 256) (h2 : x2 < 2 ^ 4) (h3 : x3 < 2 ^ 4) (ho : op < 256 := by decide) :
    (packWord op [(x0, 16), (x1, 8), (x2, 4), (x3, 0)]) / 2 ^ 28 % 16 = op / 16 ∧
    (packWord op [(x0, 16), (x1, 8), (x2, 4), (x3, 0)]) / 2 ^ 24 % 2 ^ 8 = op ∧
    (packWord op [(x0, 16), (x1, 8), (x2, 4), (x3, 0)]) / 2 ^ 16 % 256 = x0 ∧
    (packWord op [(x0, 16), (x1, 8), (x2, 4), (x3, 0)]) / 2 ^ 8 % 256 = x1 ∧
    (packWord op [(x0, 16), (x1, 8), (x2, 4), (x3, 0)]) / 2 ^ 4 % 2 ^ 4 = x2 ∧
    (packWord op [(x0, 16), (x1, 8), (x2, 4), (x3, 0)]) / 2 ^ 0 % 2 ^ 4 = x3 := by
  simp only [packWord_eq, placed_cons, placed_nil, Nat.reducePow] at *; omega
theorem fields_8_8_6_0_4_z_4_0_16_8_0 (op : Nat) {x0 x1 x2 : Nat} (h0 : x0 < 256) (h1 : x1 < 2 ^ 2) (h2 : x2 < 2 ^ 4) (ho : op < 256 := by decide) :
    (packWord op [(x0, 8), (x1, 6), (x2, 0)]) / 2 ^ 28 % 16 = op / 16 ∧
    (packWord op [(x0, 8), (x1, 6), (x2, 0)]) / 2 ^ 24 % 2 ^ 8 = op ∧
    (packWord op [(x0, 8), (x1, 6), (x2, 0)]) / 2 ^ 8 % 256 = x0 ∧
    (packWord op [(x0, 8), (x1, 6), (x2, 0)]) / 2 ^ 6 % 2 ^ 2 = x1 ∧
    (packWord op [(x0, 8), (x1, 6), (x2, 0)]) / 2 ^ 0 % 2 ^ 4 = x2 ∧
    (packWord op [(x0, 8), (x1, 6), (x2, 0)]) / 2 ^ 4 % 2 ^ 2 = 0 ∧
    (packWord op [(x0, 8), (x1, 6), (x2, 0)]) / 2 ^ 16 % 2 ^ 8 = 0 := by
  simp only [packWord_eq, placed_cons, placed_nil, Nat.reducePow] at *; omega
theorem fields_6_0_4_z_4_0_8_16_0 (op : Nat) {x0 x1 : Nat} (h0 : x0 < 2 ^ 2) (h1 : x1 < 2 ^ 4) (ho : op < 256 := by decide) :
    (packWord op [(x0, 6), (x1, 0)]) / 2 ^ 28 % 16 = op / 16 ∧
    (packWord op [(x0, 6), (x1, 0)]) / 2 ^ 24 % 2 ^ 8 = op ∧
    (packWord op [(x0, 6), (x1, 0)]) / 2 ^ 6 % 2 ^ 2 = x0 ∧
    (packWord op [(x0, 6), (x1, 0)]) / 2 ^ 0 % 2 ^ 4 = x1 ∧
    (packWord op [(x0, 6), (x1, 0)]) / 2 ^ 4 % 2 ^ 2 = 0 ∧
    (packWord op [(x0, 6), (x1, 0)]) / 2 ^ 8 % 2 ^ 16 = 0 := by
  simp only [packWord_eq, placed_cons, placed_nil, Nat.reducePow] at *; omega
theorem fields_16_8_6_0_4_z_4_0_8_8_0 (op : Nat) {x0 x1 x2 : Nat} (h0 : x0 < 256) (h1 : x1 < 2 ^ 2) (h2 : x2 < 2 ^ 4) (ho : op < 256 := by decide) :
    (packWord op [(x0, 16), (x1, 6), (x2, 0)]) / 2 ^ 28 % 16 = op / 16 ∧
    (packWord op [(x0, 16), (x1, 6), (x2, 0)]) / 2 ^ 24 % 2 ^ 8 = op ∧
    (packWord op [(x0, 16), (x1, 6), (x2, 0)]) / 2 ^ 16 % 256 = x0 ∧
    (packWord op [(x0, 16), (x1, 6), (x2, 0)]) / 2 ^ 6 % 2 ^ 2 = x1 ∧
    (packWord op [(x0, 16), (x1, 6), (x2, 0)]) / 2 ^ 0 % 2 ^ 4 = x2 ∧
    (packWord op [(x0, 16), (x1, 6), (x2, 0)]) / 2 ^ 4 % 2 ^ 2 = 0 ∧
    (packWord op [(x0, 16), (x1, 6), (x2, 0)]) / 2 ^ 8 % 2 ^ 8 = 0 := by
  simp only [packWord_eq, placed_cons, placed_nil, Nat.reducePow] at *; omega
theorem fields_16_8_z_16_0 (op : Nat) {x0 : Nat} (h0 : x0 < 256) (ho : op < 256 := by decide) :
    (packWord op [(x0, 16)]) / 2 ^ 28 % 16 = op / 16 ∧
    (packWord op [(x0, 16)]) / 2 ^ 24 % 2 ^ 8 = op ∧
    (packWord op [(x0, 16)]) / 2 ^ 16 % 256 = x0 ∧
    (packWord op [(x0, 16)]) % 2 ^ 16 = 0 := by
  simp only [packWord_eq, placed_cons, placed_nil, Nat.reducePow] at *; omega
theorem fields_19_4_16_3_8_8_0_8_z_23_1_0_imm (op : Nat) {x0 x1 x2 x3 : Nat} (h0 : x0 < 2 ^ 4) (h1 : x1 < 2 ^ 3) (h2 : x2 < 256) (h3 : x3 < 256) (ho : op < 256 := by decide) :
    (packWord op [(x0, 19), (x1, 16), (x2, 8), (x3, 0)]) / 2 ^ 28 % 16 = op / 16 ∧
    (packWord op [(x0, 19), (x1, 16), (x2, 8), (x3, 0)]) / 2 ^ 24 % 2 ^ 8 = op ∧
    (packWord op [(x0, 19), (x1, 16), (x2, 8), (x3, 0)]) / 2 ^ 19 % 2 ^ 4 = x0 ∧
    (packWord op [(x0, 19), (x1, 16), (x2, 8), (x3, 0)]) / 2 ^ 16 % 2 ^ 3 = x1 ∧
    (packWord op [(x0, 19), (x1, 16), (x2, 8), (x3, 0)]) / 2 ^ 8 % 256 = x2 ∧
    (packWord op [(x0, 19), (x1, 16), (x2, 8), (x3, 0)]) / 2 ^ 0 % 256 = x3 ∧
    (packWord op [(x0, 19), (x1, 16), (x2, 8), (x3, 0)]) / 2 ^ 23 % 2 ^ 1 = 0 := by
  simp only [packWord_eq, placed_cons, placed_nil, Nat.reducePow] at *; omega
theorem fields_21_3_18_3_16_8_8_0_8 (op : Nat) {x0 x1 x2 x3 x4 : Nat} (h0 : x0 < 2 ^ 3) (h1 : x1 < 2 ^ 3) (h2 : x2 < 2 ^ 2) (h3 : x3 < 256) (h4 : x4 < 256) (ho : op < 256 := by decide) :
    (packWord op [(x0, 21), (x1, 18), (x2, 16), (x3, 8), (x4, 0)]) / 2 ^ 28 % 16 = op / 16 ∧
    (packWord op [(x0, 21), (x1, 18), (x2, 16), (x3, 8), (x4, 0)]) / 2 ^ 24 % 2 ^ 8 = op ∧
    (packWord op [(x0, 21), (x1, 18), (x2, 16), (x3, 8), (x4, 0)]) / 2 ^ 21 % 2 ^ 3 = x0 ∧
    (packWord op [(x0, 21), (x1, 18), (x2, 16), (x3, 8), (x4, 0)]) / 2 ^ 18 % 2 ^ 3 = x1 ∧
    (packWord op [(x0, 21), (x1, 18), (x2, 16), (x3, 8), (x4, 0)]) / 2 ^ 16 % 2 ^ 2 = x2 ∧
    (packWord op [(x0, 21), (x1, 18), (x2, 16), (x3, 8), (x4, 0)]) / 2 ^ 8 % 256 = x3 ∧
    (packWord op [(x0, 21), (x1, 18), (x2, 16), (x3, 8), (x4, 0)]) / 2 ^ 0 % 256 = x4 := by
  simp only [packWord_eq, placed_cons, placed_nil, Nat.reducePow] at *; omega
theorem fields_18_1_16_z_16_0_19_5_0 (op : Nat) {x0 x1 : Nat} (h0 : x0 < 2) (h1 : x1 < 2 ^ 2) (ho : op < 256 := by decide) :
    (packWord op [(x0, 18), (x1, 16)]) / 2 ^ 28 % 16 = op / 16 ∧
    (packWord op [(x0, 18), (x1, 16)]) / 2 ^ 24 % 2 ^ 8 = op ∧
    (packWord op [(x0, 18), (x1, 16)]) / 2 ^ 18 % 2 = x0 ∧
    (packWord op [(x0, 18), (x1, 16)]) / 2 ^ 16 % 2 ^ 2 = x1 ∧
    (packWord op [(x0, 18), (x1, 16)]) % 2 ^ 16 = 0 ∧
    (packWord op [(x0, 18), (x1, 16)]) / 2 ^ 19 % 2 ^ 5 = 0 := by
  simp only [packWord_eq, placed_cons, placed_nil, Nat.reducePow] at *; omega
theorem fields_16_8_10_1_8_0_8_z_11_5_0 (op : Nat) {x0 x1 x2 x3 : Nat} (h0 : x0 < 256) (h1 : x1 < 2) (h2 : x2 < 2 ^ 2) (h3 : x3 < 256) (ho : op < 256 := by decide) :
    (packWord op [(x0, 16), (x1, 10), (x2, 8), (x3, 0)]) / 2 ^ 28 % 16 = op / 16 ∧
    (packWord op [(x0, 16), (x1, 10), (x2, 8), (x3, 0)]) / 2 ^ 24 % 2 ^ 8 = op ∧
    (packWord op [(x0, 16), (x1, 10), (x2, 8), (x3, 0)]) / 2 ^ 16 % 256 = x0 ∧
    (packWord op [(x0, 16), (x1, 10), (x2, 8), (x3, 0)]) / 2 ^ 10 % 2 = x1 ∧
    (packWord op [(x0, 16), (x1, 10), (x2, 8), (x3, 0)]) / 2 ^ 8 % 2 ^ 2 = x2 ∧
    (packWord op [(x0, 16), (x1, 10), (x2, 8), (x3, 0)]) / 2 ^ 0 % 256 = x3 ∧
    (packWord op [(x0, 16), (x1, 10), (x2, 8), (x3, 0)]) / 2 ^ 11 % 2 ^ 5 = 0 := by
  simp only [packWord_eq, placed_cons, placed_nil, Nat.reducePow] at *; omega
theorem fields_18_1_16_8_8_0_8_z_19_5_0 (op : Nat) {x0 x1 x2 x3 : Nat} (h0 : x0 < 2) (h1 : x1 < 2 ^ 2) (h2 : x2 < 256) (h3 : x3 < 256) (ho : op < 256 := by decide) :
    (packWord op [(x0, 18), (x1, 16), (x2, 8), (x3, 0)]) / 2 ^ 28 % 16 = op / 16 ∧
    (packWord op [(x0, 18), (x1, 16), (x2, 8), (x3, 0)]) / 2 ^ 24 % 2 ^ 8 = op ∧
    (packWord op [(x0, 18), (x1, 16), (x2, 8), (x3, 0)]) / 2 ^ 18 % 2 = x0 ∧
    (packWord op [(x0, 18), (x1, 16), (x2, 8), (x3, 0)]) / 2 ^ 16 % 2 ^ 2 = x1 ∧
    (packWord op [(x0, 18), (x1, 16), (x2, 8), (x3, 0)]) / 2 ^ 8 % 256 = x2 ∧
    (packWord op [(x0, 18), (x1, 16), (x2, 8), (x3, 0)]) / 2 ^ 0 % 256 = x3 ∧
    (packWord op [(x0, 18), (x1, 16), (x2, 8), (x3, 0)]) / 2 ^ 19 % 2 ^ 5 = 0 := by
  simp only [packWord_eq, placed_cons, placed_nil, Nat.reducePow] at *; omega
theorem fields_16_8_0_z_14_0 (op : Nat) {x0 x1 : Nat} (h0 : x0 < 256) (h1 : x1 < 2 ^ 2) (ho : op < 256 := by decide) :
    (packWord op [(x0, 16), (x1, 0)]) / 2 ^ 28 % 16 = op / 16 ∧
    (packWord op [(x0, 16), (x1, 0)]) / 2 ^ 24 % 2 ^ 8 = op ∧
    (packWord op [(x0, 16), (x1, 0)]) / 2 ^ 16 % 256 = x0 ∧
    (packWord op [(x0, 16), (x1, 0)]) / 2 ^ 0 % 2 ^ 2 = x1 ∧
    (packWord op [(x0, 16), (x1, 0)]) / 2 ^ 2 % 2 ^ 14 = 0 := by
  simp only [packWord_eq, placed_cons, placed_nil, Nat.reducePow] at *; omega
theorem fields_16_8_8_8_0_z_6_0 (op : Nat) {x0 x1 x2 : Nat} (h0 : x0 < 256) (h1 : x1 < 256) (h2 : x2 < 2 ^ 2) (ho : op < 256 := by decide) :
    (packWord op [(x0, 16), (x1, 8), (x2, 0)]) / 2 ^ 28 % 16 = op / 16 ∧
    (packWord op [(x0, 16), (x1, 8), (x2, 0)]) / 2 ^ 24 % 2 ^ 8 = op ∧
    (packWord op [(x0, 16), (x1, 8), (x2, 0)]) / 2 ^ 16 % 256 = x0 ∧
    (packWord op [(x0, 16), (x1, 8), (x2, 0)]) / 2 ^ 8 % 256 = x1 ∧
    (packWord op [(x0, 16), (x1, 8), (x2, 0)]) / 2 ^ 0 % 2 ^ 2 = x2 ∧
    (packWord op [(x0, 16), (x1, 8), (x2, 0)]) / 2 ^ 2 % 2 ^ 6 = 0 := by
  simp only [packWord_eq, placed_cons, placed_nil, Nat.reducePow] at *; omega
theorem fields_16_8_4_4_0_z_0_8_8_0 (op : Nat) {x0 x1 x2 : Nat} (h0 : x0 < 256) (h1 : x1 < 2 ^ 4) (h2 : x2 < 2 ^ 2) (ho : op < 256 := by decide) :
    (packWord op [(x0, 16), (x1, 4), (x2, 0)]) / 2 ^ 28 % 16 = op / 16 ∧
    (packWord op [(x0, 16), (x1, 4), (x2, 0)]) / 2 ^ 24 % 2 ^ 8 = op ∧
    (packWord op [(x0, 16), (x1, 4), (x2, 0)]) / 2 ^ 16 % 256 = x0 ∧
    (packWord op [(x0, 16), (x1, 4), (x2, 0)]) / 2 ^ 4 % 2 ^ 4 = x1 ∧
    (packWord op [(x0, 16), (x1, 4), (x2, 0)]) / 2 ^ 0 % 2 ^ 2 = x2 ∧
    (packWord op [(x0, 16), (x1, 4), (x2, 0)]) / 2 ^ 2 % 2 ^ 2 = 0 ∧
    (packWord op [(x0, 16), (x1, 4), (x2, 0)]) / 2 ^ 8 % 2 ^ 8 = 0 := by
  simp only [packWord_eq, placed_cons, placed_nil, Nat.reducePow] at *; omega
theorem fields_16_8_8_8_0_3_z_3_5_0 (op : Nat) {x0 x1 x2 : Nat} (h0 : x0 < 256) (h1 : x1 < 256) (h2 : x2 < 2 ^ 3) (ho : op < 256 := by decide) :
    (packWord op [(x0, 16), (x1, 8), (x2, 0)]) / 2 ^ 28 % 16 = op / 16 ∧
    (packWord op [(x0, 16), (x1, 8), (x2, 0)]) / 2 ^ 24 % 2 ^ 8 = op ∧
    (packWord op [(x0, 16), (x1, 8), (x2, 0)]) / 2 ^ 16 % 256 = x0 ∧
    (packWord op [(x0, 16), (x1, 8), (x2, 0)]) / 2 ^ 8 % 256 = x1 ∧
    (packWord op [(x0, 16), (x1, 8), (x2, 0)]) / 2 ^ 0 % 2 ^ 3 = x2 ∧
    (packWord op [(x0, 16), (x1, 8), (x2, 0)]) / 2 ^ 3 % 2 ^ 5 = 0 := by
  simp only [packWord_eq, placed_cons, placed_nil, Nat.reducePow] at *; omega
theorem fields_16_8_8_8_0_1_z_1_7_0 (op : Nat) {x0 x1 x2 : Nat} (h0 : x0 < 256) (h1 : x1 < 256) (h2 : x2 < 2) (ho : op < 256 := by decide) :
    (packWord op [(x0, 16), (x1, 8), (x2, 0)]) / 2 ^ 28 % 16 = op / 16 ∧
    (packWord op [(x0, 16), (x1, 8), (x2, 0)]) / 2 ^ 24 % 2 ^ 8 = op ∧
    (packWord op [(x0, 16), (x1, 8), (x2, 0)]) / 2 ^ 16 % 256 = x0 ∧
    (packWord op [(x0, 16), (x1, 8), (x2, 0)]) / 2 ^ 8 % 256 = x1 ∧
    (packWord op [(x0, 16), (x1, 8), (x2, 0)]) / 2 ^ 0 % 2 = x2 ∧
    (packWord op [(x0, 16), (x1, 8), (x2, 0)]) / 2 ^ 1 % 2 ^ 7 = 0 := by
  simp only [packWord_eq, placed_cons, placed_nil, Nat.reducePow] at *; omega
theorem fields_bare_z_24_0 (op : Nat) (ho : op < 256 := by decide) :
    (packWord op []) / 2 ^ 28 % 16 = op / 16 ∧
    (packWord op []) / 2 ^ 24 % 2 ^ 8 = op ∧
    (packWord op []) % 2 ^ 24 = 0 := by
  simp only [packWord_eq, placed_nil]; omega

/-! ### Each constructor -/

theorem RoundTrip.bra (d : BitVec 24) : RoundTrip.Statement (.bra d) := by
  intro _ _
  show decode (packWord 0x01 [(d.toNat, 0)]) = _
  obtain ⟨e28, e24, e0⟩ := fields_0_24 0x01 d.isLt
  rw [decode_0 e28, decodeControl, e24]
  simp only [bvAt_eq e0]
theorem RoundTrip.br (n : Bool) (p : Fin 8) (d : BitVec 20) : RoundTrip.Statement (.br n p d) := by
  intro _ _
  show decode (packWord 0x02 [(n.toNat, 23), (p.val, 20), (d.toNat, 0)]) = _
  obtain ⟨e28, e24, e0, e1, e2⟩ := fields_23_1_20_3_0_20 0x02 (Bool.toNat_lt n) p.isLt d.isLt
  rw [decode_0 e28, decodeControl, e24]
  simp only [bitAt_eq e0, finAt_eq e1, bvAt_eq e2]
theorem RoundTrip.brx (a : Opnd) : RoundTrip.Statement (.brx a) := by
  intro _ _
  show decode (packWord 0x03 [(a.code, 8)]) = _
  obtain ⟨e28, e24, e0, c0, c1⟩ := fields_8_8_z_8_0_16_8_0 0x03 a.code_lt
  rw [decode_0 e28, decodeControl, e24]
  simp only [c0, c1, and_self, if_true, opAt_eq e0]
theorem RoundTrip.call (d : BitVec 24) : RoundTrip.Statement (.call d) := by
  intro _ _
  show decode (packWord 0x04 [(d.toNat, 0)]) = _
  obtain ⟨e28, e24, e0⟩ := fields_0_24 0x04 d.isLt
  rw [decode_0 e28, decodeControl, e24]
  simp only [bvAt_eq e0]
theorem RoundTrip.callx (d : Opnd) (a : Opnd) : RoundTrip.Statement (.callx d a) := by
  intro _ _
  show decode (packWord 0x05 [(d.code, 16), (a.code, 8)]) = _
  obtain ⟨e28, e24, e0, e1, c0⟩ := fields_16_8_8_8_z_8_0 0x05 d.code_lt a.code_lt
  rw [decode_0 e28, decodeControl, e24]
  simp only [c0, if_true, opAt_eq e0, opAt_eq e1]
theorem RoundTrip.retx (a : Opnd) : RoundTrip.Statement (.retx a) := by
  intro _ _
  show decode (packWord 0x07 [(a.code, 8)]) = _
  obtain ⟨e28, e24, e0, c0, c1⟩ := fields_8_8_z_8_0_16_8_0 0x07 a.code_lt
  rw [decode_0 e28, decodeControl, e24]
  simp only [c0, c1, and_self, if_true, opAt_eq e0]
theorem RoundTrip.rcvp (d : BitVec 24) : RoundTrip.Statement (.rcvp d) := by
  intro _ _
  show decode (packWord 0x08 [(d.toNat, 0)]) = _
  obtain ⟨e28, e24, e0⟩ := fields_0_24 0x08 d.isLt
  rw [decode_0 e28, decodeControl, e24]
  simp only [bvAt_eq e0]
theorem RoundTrip.mode (a : Opnd) : RoundTrip.Statement (.mode a) := by
  intro _ _
  show decode (packWord 0x0C [(a.code, 8)]) = _
  obtain ⟨e28, e24, e0, c0, c1⟩ := fields_8_8_z_8_0_16_8_0 0x0C a.code_lt
  rw [decode_0 e28, decodeControl, e24]
  simp only [c0, c1, and_self, if_true, opAt_eq e0]
theorem RoundTrip.modef (a : Opnd) (i : BitVec 8) : RoundTrip.Statement (.modef a i) := by
  intro _ _
  show decode (packWord 0x0D [(a.code, 8), (i.toNat, 0)]) = _
  obtain ⟨e28, e24, e0, e1, c0⟩ := fields_8_8_0_8_z_16_8_0 0x0D a.code_lt i.isLt
  rw [decode_0 e28, decodeControl, e24]
  simp only [c0, if_true, opAt_eq e0, bvAt_eq e1]
theorem RoundTrip.trap (d : Opnd) (a : Opnd) (c : BitVec 8) : RoundTrip.Statement (.trap d a c) := by
  intro _ _
  show decode (packWord 0x0E [(d.code, 16), (a.code, 8), (c.toNat, 0)]) = _
  obtain ⟨e28, e24, e0, e1, e2⟩ := fields_16_8_8_8_0_8 0x0E d.code_lt a.code_lt c.isLt
  rw [decode_0 e28, decodeControl, e24]
  simp only [opAt_eq e0, opAt_eq e1, bvAt_eq e2]
theorem RoundTrip.sleep (a : Opnd) : RoundTrip.Statement (.sleep a) := by
  intro _ _
  show decode (packWord 0x10 [(a.code, 8)]) = _
  obtain ⟨e28, e24, e0, c0, c1⟩ := fields_8_8_z_8_0_16_8_0 0x10 a.code_lt
  rw [decode_1 e28, decodeControl, e24]
  simp only [c0, c1, and_self, if_true, opAt_eq e0]
theorem RoundTrip.svc (d : Opnd) (a : Opnd) (i : BitVec 8) : RoundTrip.Statement (.svc d a i) := by
  intro _ _
  show decode (packWord 0x11 [(d.code, 16), (a.code, 8), (i.toNat, 0)]) = _
  obtain ⟨e28, e24, e0, e1, e2⟩ := fields_16_8_8_8_0_8 0x11 d.code_lt a.code_lt i.isLt
  rw [decode_1 e28, decodeControl, e24]
  simp only [opAt_eq e0, opAt_eq e1, bvAt_eq e2]
theorem RoundTrip.uintr (d : Opnd) (a : Opnd) (b : Opnd) : RoundTrip.Statement (.uintr d a b) := by
  intro _ _
  show decode (packWord 0x12 [(d.code, 16), (a.code, 8), (b.code, 0)]) = _
  obtain ⟨e28, e24, e0, e1, e2⟩ := fields_16_8_8_8_0_8_imm 0x12 d.code_lt a.code_lt b.code_lt
  rw [decode_1 e28, decodeControl, e24]
  simp only [opAt_eq e0, opAt_eq e1, opAt_eq e2]
theorem RoundTrip.hret (a : Opnd) : RoundTrip.Statement (.hret a) := by
  intro _ _
  show decode (packWord 0x14 [(a.code, 8)]) = _
  obtain ⟨e28, e24, e0, c0, c1⟩ := fields_8_8_z_8_0_16_8_0 0x14 a.code_lt
  rw [decode_1 e28, decodeControl, e24]
  simp only [c0, c1, and_self, if_true, opAt_eq e0]
theorem RoundTrip.xrd (d : Opnd) (a : Opnd) (b : Opnd) : RoundTrip.Statement (.xrd d a b) := by
  intro _ _
  show decode (packWord 0x16 [(d.code, 16), (a.code, 8), (b.code, 0)]) = _
  obtain ⟨e28, e24, e0, e1, e2⟩ := fields_16_8_8_8_0_8_imm 0x16 d.code_lt a.code_lt b.code_lt
  rw [decode_1 e28, decodeControl, e24]
  simp only [opAt_eq e0, opAt_eq e1, opAt_eq e2]
theorem RoundTrip.xwr (a : Opnd) (b : Opnd) : RoundTrip.Statement (.xwr a b) := by
  intro _ _
  show decode (packWord 0x17 [(a.code, 8), (b.code, 0)]) = _
  obtain ⟨e28, e24, e0, e1, c0⟩ := fields_8_8_0_8_z_16_8_0_imm 0x17 a.code_lt b.code_lt
  rw [decode_1 e28, decodeControl, e24]
  simp only [c0, if_true, opAt_eq e0, opAt_eq e1]
theorem RoundTrip.rdsr (d : Opnd) (s : BitVec 8) : RoundTrip.Statement (.rdsr d s) := by
  intro _ _
  show decode (packWord 0x18 [(d.code, 16), (s.toNat, 0)]) = _
  obtain ⟨e28, e24, e0, e1, c0⟩ := fields_16_8_0_8_z_8_8_0 0x18 d.code_lt s.isLt
  rw [decode_1 e28, decodeControl, e24]
  simp only [c0, if_true, opAt_eq e0, bvAt_eq e1]
theorem RoundTrip.wrsr (a : Opnd) (s : BitVec 8) : RoundTrip.Statement (.wrsr a s) := by
  intro _ _
  show decode (packWord 0x19 [(a.code, 8), (s.toNat, 0)]) = _
  obtain ⟨e28, e24, e0, e1, c0⟩ := fields_8_8_0_8_z_16_8_0 0x19 a.code_lt s.isLt
  rw [decode_1 e28, decodeControl, e24]
  simp only [c0, if_true, opAt_eq e0, bvAt_eq e1]
theorem RoundTrip.iadd (d : Opnd) (a : Opnd) (b : Opnd) : RoundTrip.Statement (.iadd d a b) := by
  intro _ _
  show decode (packWord 0x20 [(d.code, 16), (a.code, 8), (b.code, 0)]) = _
  obtain ⟨e28, e24, e0, e1, e2⟩ := fields_16_8_8_8_0_8_imm 0x20 d.code_lt a.code_lt b.code_lt
  rw [decode_2 e28, decodeInteger, e24]
  simp only [opAt_eq e0, opAt_eq e1, opAt_eq e2]
theorem RoundTrip.isub (d : Opnd) (a : Opnd) (b : Opnd) : RoundTrip.Statement (.isub d a b) := by
  intro _ _
  show decode (packWord 0x21 [(d.code, 16), (a.code, 8), (b.code, 0)]) = _
  obtain ⟨e28, e24, e0, e1, e2⟩ := fields_16_8_8_8_0_8_imm 0x21 d.code_lt a.code_lt b.code_lt
  rw [decode_2 e28, decodeInteger, e24]
  simp only [opAt_eq e0, opAt_eq e1, opAt_eq e2]
theorem RoundTrip.imul (d : Opnd) (a : Opnd) (b : Opnd) : RoundTrip.Statement (.imul d a b) := by
  intro _ _
  show decode (packWord 0x22 [(d.code, 16), (a.code, 8), (b.code, 0)]) = _
  obtain ⟨e28, e24, e0, e1, e2⟩ := fields_16_8_8_8_0_8_imm 0x22 d.code_lt a.code_lt b.code_lt
  rw [decode_2 e28, decodeInteger, e24]
  simp only [opAt_eq e0, opAt_eq e1, opAt_eq e2]
theorem RoundTrip.imulh (d : Opnd) (a : Opnd) (b : Opnd) : RoundTrip.Statement (.imulh d a b) := by
  intro _ _
  show decode (packWord 0x23 [(d.code, 16), (a.code, 8), (b.code, 0)]) = _
  obtain ⟨e28, e24, e0, e1, e2⟩ := fields_16_8_8_8_0_8_imm 0x23 d.code_lt a.code_lt b.code_lt
  rw [decode_2 e28, decodeInteger, e24]
  simp only [opAt_eq e0, opAt_eq e1, opAt_eq e2]
theorem RoundTrip.imad (d : Opnd) (a : Opnd) (b : Opnd) : RoundTrip.Statement (.imad d a b) := by
  intro _ _
  show decode (packWord 0x24 [(d.code, 16), (a.code, 8), (b.code, 0)]) = _
  obtain ⟨e28, e24, e0, e1, e2⟩ := fields_16_8_8_8_0_8_imm 0x24 d.code_lt a.code_lt b.code_lt
  rw [decode_2 e28, decodeInteger, e24]
  simp only [opAt_eq e0, opAt_eq e1, opAt_eq e2]
theorem RoundTrip.idiv (d : Opnd) (a : Opnd) (b : Opnd) : RoundTrip.Statement (.idiv d a b) := by
  intro _ _
  show decode (packWord 0x25 [(d.code, 16), (a.code, 8), (b.code, 0)]) = _
  obtain ⟨e28, e24, e0, e1, e2⟩ := fields_16_8_8_8_0_8_imm 0x25 d.code_lt a.code_lt b.code_lt
  rw [decode_2 e28, decodeInteger, e24]
  simp only [opAt_eq e0, opAt_eq e1, opAt_eq e2]
theorem RoundTrip.irem (d : Opnd) (a : Opnd) (b : Opnd) : RoundTrip.Statement (.irem d a b) := by
  intro _ _
  show decode (packWord 0x26 [(d.code, 16), (a.code, 8), (b.code, 0)]) = _
  obtain ⟨e28, e24, e0, e1, e2⟩ := fields_16_8_8_8_0_8_imm 0x26 d.code_lt a.code_lt b.code_lt
  rw [decode_2 e28, decodeInteger, e24]
  simp only [opAt_eq e0, opAt_eq e1, opAt_eq e2]
theorem RoundTrip.imin (d : Opnd) (a : Opnd) (b : Opnd) : RoundTrip.Statement (.imin d a b) := by
  intro _ _
  show decode (packWord 0x27 [(d.code, 16), (a.code, 8), (b.code, 0)]) = _
  obtain ⟨e28, e24, e0, e1, e2⟩ := fields_16_8_8_8_0_8_imm 0x27 d.code_lt a.code_lt b.code_lt
  rw [decode_2 e28, decodeInteger, e24]
  simp only [opAt_eq e0, opAt_eq e1, opAt_eq e2]
theorem RoundTrip.imax (d : Opnd) (a : Opnd) (b : Opnd) : RoundTrip.Statement (.imax d a b) := by
  intro _ _
  show decode (packWord 0x28 [(d.code, 16), (a.code, 8), (b.code, 0)]) = _
  obtain ⟨e28, e24, e0, e1, e2⟩ := fields_16_8_8_8_0_8_imm 0x28 d.code_lt a.code_lt b.code_lt
  rw [decode_2 e28, decodeInteger, e24]
  simp only [opAt_eq e0, opAt_eq e1, opAt_eq e2]
theorem RoundTrip.iabs (d : Opnd) (a : Opnd) : RoundTrip.Statement (.iabs d a) := by
  intro _ _
  show decode (packWord 0x29 [(d.code, 16), (a.code, 8)]) = _
  obtain ⟨e28, e24, e0, e1, c0⟩ := fields_16_8_8_8_z_8_0 0x29 d.code_lt a.code_lt
  rw [decode_2 e28, decodeInteger, e24]
  simp only [c0, if_true, opAt_eq e0, opAt_eq e1]
theorem RoundTrip.ineg (d : Opnd) (a : Opnd) : RoundTrip.Statement (.ineg d a) := by
  intro _ _
  show decode (packWord 0x2A [(d.code, 16), (a.code, 8)]) = _
  obtain ⟨e28, e24, e0, e1, c0⟩ := fields_16_8_8_8_z_8_0 0x2A d.code_lt a.code_lt
  rw [decode_2 e28, decodeInteger, e24]
  simp only [c0, if_true, opAt_eq e0, opAt_eq e1]
theorem RoundTrip.icmp (c : Cond) (p : Fin 8) (a : Opnd) (b : Opnd) : RoundTrip.Statement (.icmp c p a b) := by
  intro _ _
  show decode (packWord 0x2B [(c.code, 19), (p.val, 16), (a.code, 8), (b.code, 0)]) = _
  obtain ⟨e28, e24, e0, e1, e2, e3, c0⟩ := fields_19_4_16_3_8_8_0_8_z_23_1_0 0x2B c.code_lt p.isLt a.code_lt b.code_lt
  rw [decode_2 e28, decodeInteger, e24]
  simp only [c0, if_true, condAt_eq e0, finAt_eq e1, opAt_eq e2, opAt_eq e3]
theorem RoundTrip.lea (d : Opnd) (a : Opnd) (b : Opnd) : RoundTrip.Statement (.lea d a b) := by
  intro _ _
  show decode (packWord 0x2C [(d.code, 16), (a.code, 8), (b.code, 0)]) = _
  obtain ⟨e28, e24, e0, e1, e2⟩ := fields_16_8_8_8_0_8_imm 0x2C d.code_lt a.code_lt b.code_lt
  rw [decode_2 e28, decodeInteger, e24]
  simp only [opAt_eq e0, opAt_eq e1, opAt_eq e2]
theorem RoundTrip.imulw (d : Opnd) (a : Opnd) (b : Opnd) : RoundTrip.Statement (.imulw d a b) := by
  intro _ _
  show decode (packWord 0x2D [(d.code, 16), (a.code, 8), (b.code, 0)]) = _
  obtain ⟨e28, e24, e0, e1, e2⟩ := fields_16_8_8_8_0_8_imm 0x2D d.code_lt a.code_lt b.code_lt
  rw [decode_2 e28, decodeInteger, e24]
  simp only [opAt_eq e0, opAt_eq e1, opAt_eq e2]
theorem RoundTrip.and (d : Opnd) (a : Opnd) (b : Opnd) : RoundTrip.Statement (.and d a b) := by
  intro _ _
  show decode (packWord 0x30 [(d.code, 16), (a.code, 8), (b.code, 0)]) = _
  obtain ⟨e28, e24, e0, e1, e2⟩ := fields_16_8_8_8_0_8_imm 0x30 d.code_lt a.code_lt b.code_lt
  rw [decode_3 e28, decodeLogic, e24]
  simp only [opAt_eq e0, opAt_eq e1, opAt_eq e2]
theorem RoundTrip.or (d : Opnd) (a : Opnd) (b : Opnd) : RoundTrip.Statement (.or d a b) := by
  intro _ _
  show decode (packWord 0x31 [(d.code, 16), (a.code, 8), (b.code, 0)]) = _
  obtain ⟨e28, e24, e0, e1, e2⟩ := fields_16_8_8_8_0_8_imm 0x31 d.code_lt a.code_lt b.code_lt
  rw [decode_3 e28, decodeLogic, e24]
  simp only [opAt_eq e0, opAt_eq e1, opAt_eq e2]
theorem RoundTrip.xor (d : Opnd) (a : Opnd) (b : Opnd) : RoundTrip.Statement (.xor d a b) := by
  intro _ _
  show decode (packWord 0x32 [(d.code, 16), (a.code, 8), (b.code, 0)]) = _
  obtain ⟨e28, e24, e0, e1, e2⟩ := fields_16_8_8_8_0_8_imm 0x32 d.code_lt a.code_lt b.code_lt
  rw [decode_3 e28, decodeLogic, e24]
  simp only [opAt_eq e0, opAt_eq e1, opAt_eq e2]
theorem RoundTrip.andn (d : Opnd) (a : Opnd) (b : Opnd) : RoundTrip.Statement (.andn d a b) := by
  intro _ _
  show decode (packWord 0x33 [(d.code, 16), (a.code, 8), (b.code, 0)]) = _
  obtain ⟨e28, e24, e0, e1, e2⟩ := fields_16_8_8_8_0_8_imm 0x33 d.code_lt a.code_lt b.code_lt
  rw [decode_3 e28, decodeLogic, e24]
  simp only [opAt_eq e0, opAt_eq e1, opAt_eq e2]
theorem RoundTrip.not (d : Opnd) (a : Opnd) : RoundTrip.Statement (.not d a) := by
  intro _ _
  show decode (packWord 0x34 [(d.code, 16), (a.code, 8)]) = _
  obtain ⟨e28, e24, e0, e1, c0⟩ := fields_16_8_8_8_z_8_0 0x34 d.code_lt a.code_lt
  rw [decode_3 e28, decodeLogic, e24]
  simp only [c0, if_true, opAt_eq e0, opAt_eq e1]
theorem RoundTrip.shl (d : Opnd) (a : Opnd) (b : Opnd) : RoundTrip.Statement (.shl d a b) := by
  intro _ _
  show decode (packWord 0x35 [(d.code, 16), (a.code, 8), (b.code, 0)]) = _
  obtain ⟨e28, e24, e0, e1, e2⟩ := fields_16_8_8_8_0_8_imm 0x35 d.code_lt a.code_lt b.code_lt
  rw [decode_3 e28, decodeLogic, e24]
  simp only [opAt_eq e0, opAt_eq e1, opAt_eq e2]
theorem RoundTrip.shr (d : Opnd) (a : Opnd) (b : Opnd) : RoundTrip.Statement (.shr d a b) := by
  intro _ _
  show decode (packWord 0x36 [(d.code, 16), (a.code, 8), (b.code, 0)]) = _
  obtain ⟨e28, e24, e0, e1, e2⟩ := fields_16_8_8_8_0_8_imm 0x36 d.code_lt a.code_lt b.code_lt
  rw [decode_3 e28, decodeLogic, e24]
  simp only [opAt_eq e0, opAt_eq e1, opAt_eq e2]
theorem RoundTrip.sar (d : Opnd) (a : Opnd) (b : Opnd) : RoundTrip.Statement (.sar d a b) := by
  intro _ _
  show decode (packWord 0x37 [(d.code, 16), (a.code, 8), (b.code, 0)]) = _
  obtain ⟨e28, e24, e0, e1, e2⟩ := fields_16_8_8_8_0_8_imm 0x37 d.code_lt a.code_lt b.code_lt
  rw [decode_3 e28, decodeLogic, e24]
  simp only [opAt_eq e0, opAt_eq e1, opAt_eq e2]
theorem RoundTrip.rotl (d : Opnd) (a : Opnd) (b : Opnd) : RoundTrip.Statement (.rotl d a b) := by
  intro _ _
  show decode (packWord 0x38 [(d.code, 16), (a.code, 8), (b.code, 0)]) = _
  obtain ⟨e28, e24, e0, e1, e2⟩ := fields_16_8_8_8_0_8_imm 0x38 d.code_lt a.code_lt b.code_lt
  rw [decode_3 e28, decodeLogic, e24]
  simp only [opAt_eq e0, opAt_eq e1, opAt_eq e2]
theorem RoundTrip.popc (d : Opnd) (a : Opnd) : RoundTrip.Statement (.popc d a) := by
  intro _ _
  show decode (packWord 0x39 [(d.code, 16), (a.code, 8)]) = _
  obtain ⟨e28, e24, e0, e1, c0⟩ := fields_16_8_8_8_z_8_0 0x39 d.code_lt a.code_lt
  rw [decode_3 e28, decodeLogic, e24]
  simp only [c0, if_true, opAt_eq e0, opAt_eq e1]
theorem RoundTrip.clz (d : Opnd) (a : Opnd) : RoundTrip.Statement (.clz d a) := by
  intro _ _
  show decode (packWord 0x3A [(d.code, 16), (a.code, 8)]) = _
  obtain ⟨e28, e24, e0, e1, c0⟩ := fields_16_8_8_8_z_8_0 0x3A d.code_lt a.code_lt
  rw [decode_3 e28, decodeLogic, e24]
  simp only [c0, if_true, opAt_eq e0, opAt_eq e1]
theorem RoundTrip.ctz (d : Opnd) (a : Opnd) : RoundTrip.Statement (.ctz d a) := by
  intro _ _
  show decode (packWord 0x3B [(d.code, 16), (a.code, 8)]) = _
  obtain ⟨e28, e24, e0, e1, c0⟩ := fields_16_8_8_8_z_8_0 0x3B d.code_lt a.code_lt
  rw [decode_3 e28, decodeLogic, e24]
  simp only [c0, if_true, opAt_eq e0, opAt_eq e1]
theorem RoundTrip.brev (d : Opnd) (a : Opnd) : RoundTrip.Statement (.brev d a) := by
  intro _ _
  show decode (packWord 0x3C [(d.code, 16), (a.code, 8)]) = _
  obtain ⟨e28, e24, e0, e1, c0⟩ := fields_16_8_8_8_z_8_0 0x3C d.code_lt a.code_lt
  rw [decode_3 e28, decodeLogic, e24]
  simp only [c0, if_true, opAt_eq e0, opAt_eq e1]
theorem RoundTrip.bfx (d : Opnd) (a : Opnd) (b : Opnd) : RoundTrip.Statement (.bfx d a b) := by
  intro _ _
  show decode (packWord 0x3D [(d.code, 16), (a.code, 8), (b.code, 0)]) = _
  obtain ⟨e28, e24, e0, e1, e2⟩ := fields_16_8_8_8_0_8_imm 0x3D d.code_lt a.code_lt b.code_lt
  rw [decode_3 e28, decodeLogic, e24]
  simp only [opAt_eq e0, opAt_eq e1, opAt_eq e2]
theorem RoundTrip.bfi (d : Opnd) (a : Opnd) (b : Opnd) : RoundTrip.Statement (.bfi d a b) := by
  intro _ _
  show decode (packWord 0x3E [(d.code, 16), (a.code, 8), (b.code, 0)]) = _
  obtain ⟨e28, e24, e0, e1, e2⟩ := fields_16_8_8_8_0_8_imm 0x3E d.code_lt a.code_lt b.code_lt
  rw [decode_3 e28, decodeLogic, e24]
  simp only [opAt_eq e0, opAt_eq e1, opAt_eq e2]
theorem RoundTrip.sel (d : Opnd) (a : Opnd) (b : Opnd) : RoundTrip.Statement (.sel d a b) := by
  intro _ _
  show decode (packWord 0x3F [(d.code, 16), (a.code, 8), (b.code, 0)]) = _
  obtain ⟨e28, e24, e0, e1, e2⟩ := fields_16_8_8_8_0_8_imm 0x3F d.code_lt a.code_lt b.code_lt
  rw [decode_3 e28, decodeLogic, e24]
  simp only [opAt_eq e0, opAt_eq e1, opAt_eq e2]
theorem RoundTrip.fadd (d : Opnd) (a : Opnd) (b : Opnd) : RoundTrip.Statement (.fadd d a b) := by
  intro _ _
  show decode (packWord 0x40 [(d.code, 16), (a.code, 8), (b.code, 0)]) = _
  obtain ⟨e28, e24, e0, e1, e2⟩ := fields_16_8_8_8_0_8_imm 0x40 d.code_lt a.code_lt b.code_lt
  rw [decode_4 e28, decodeFloat, e24]
  simp only [opAt_eq e0, opAt_eq e1, opAt_eq e2]
theorem RoundTrip.fsub (d : Opnd) (a : Opnd) (b : Opnd) : RoundTrip.Statement (.fsub d a b) := by
  intro _ _
  show decode (packWord 0x41 [(d.code, 16), (a.code, 8), (b.code, 0)]) = _
  obtain ⟨e28, e24, e0, e1, e2⟩ := fields_16_8_8_8_0_8_imm 0x41 d.code_lt a.code_lt b.code_lt
  rw [decode_4 e28, decodeFloat, e24]
  simp only [opAt_eq e0, opAt_eq e1, opAt_eq e2]
theorem RoundTrip.fmul (d : Opnd) (a : Opnd) (b : Opnd) : RoundTrip.Statement (.fmul d a b) := by
  intro _ _
  show decode (packWord 0x42 [(d.code, 16), (a.code, 8), (b.code, 0)]) = _
  obtain ⟨e28, e24, e0, e1, e2⟩ := fields_16_8_8_8_0_8_imm 0x42 d.code_lt a.code_lt b.code_lt
  rw [decode_4 e28, decodeFloat, e24]
  simp only [opAt_eq e0, opAt_eq e1, opAt_eq e2]
theorem RoundTrip.ffma (d : Opnd) (a : Opnd) (b : Opnd) : RoundTrip.Statement (.ffma d a b) := by
  intro _ _
  show decode (packWord 0x43 [(d.code, 16), (a.code, 8), (b.code, 0)]) = _
  obtain ⟨e28, e24, e0, e1, e2⟩ := fields_16_8_8_8_0_8_imm 0x43 d.code_lt a.code_lt b.code_lt
  rw [decode_4 e28, decodeFloat, e24]
  simp only [opAt_eq e0, opAt_eq e1, opAt_eq e2]
theorem RoundTrip.ffms (d : Opnd) (a : Opnd) (b : Opnd) : RoundTrip.Statement (.ffms d a b) := by
  intro _ _
  show decode (packWord 0x44 [(d.code, 16), (a.code, 8), (b.code, 0)]) = _
  obtain ⟨e28, e24, e0, e1, e2⟩ := fields_16_8_8_8_0_8_imm 0x44 d.code_lt a.code_lt b.code_lt
  rw [decode_4 e28, decodeFloat, e24]
  simp only [opAt_eq e0, opAt_eq e1, opAt_eq e2]
theorem RoundTrip.fmin (d : Opnd) (a : Opnd) (b : Opnd) : RoundTrip.Statement (.fmin d a b) := by
  intro _ _
  show decode (packWord 0x45 [(d.code, 16), (a.code, 8), (b.code, 0)]) = _
  obtain ⟨e28, e24, e0, e1, e2⟩ := fields_16_8_8_8_0_8_imm 0x45 d.code_lt a.code_lt b.code_lt
  rw [decode_4 e28, decodeFloat, e24]
  simp only [opAt_eq e0, opAt_eq e1, opAt_eq e2]
theorem RoundTrip.fmax (d : Opnd) (a : Opnd) (b : Opnd) : RoundTrip.Statement (.fmax d a b) := by
  intro _ _
  show decode (packWord 0x46 [(d.code, 16), (a.code, 8), (b.code, 0)]) = _
  obtain ⟨e28, e24, e0, e1, e2⟩ := fields_16_8_8_8_0_8_imm 0x46 d.code_lt a.code_lt b.code_lt
  rw [decode_4 e28, decodeFloat, e24]
  simp only [opAt_eq e0, opAt_eq e1, opAt_eq e2]
theorem RoundTrip.fabs (d : Opnd) (a : Opnd) : RoundTrip.Statement (.fabs d a) := by
  intro _ _
  show decode (packWord 0x47 [(d.code, 16), (a.code, 8)]) = _
  obtain ⟨e28, e24, e0, e1, c0⟩ := fields_16_8_8_8_z_8_0 0x47 d.code_lt a.code_lt
  rw [decode_4 e28, decodeFloat, e24]
  simp only [c0, if_true, opAt_eq e0, opAt_eq e1]
theorem RoundTrip.fneg (d : Opnd) (a : Opnd) : RoundTrip.Statement (.fneg d a) := by
  intro _ _
  show decode (packWord 0x48 [(d.code, 16), (a.code, 8)]) = _
  obtain ⟨e28, e24, e0, e1, c0⟩ := fields_16_8_8_8_z_8_0 0x48 d.code_lt a.code_lt
  rw [decode_4 e28, decodeFloat, e24]
  simp only [c0, if_true, opAt_eq e0, opAt_eq e1]
theorem RoundTrip.fdiv (d : Opnd) (a : Opnd) (b : Opnd) : RoundTrip.Statement (.fdiv d a b) := by
  intro _ _
  show decode (packWord 0x49 [(d.code, 16), (a.code, 8), (b.code, 0)]) = _
  obtain ⟨e28, e24, e0, e1, e2⟩ := fields_16_8_8_8_0_8_imm 0x49 d.code_lt a.code_lt b.code_lt
  rw [decode_4 e28, decodeFloat, e24]
  simp only [opAt_eq e0, opAt_eq e1, opAt_eq e2]
theorem RoundTrip.fsqrt (d : Opnd) (a : Opnd) : RoundTrip.Statement (.fsqrt d a) := by
  intro _ _
  show decode (packWord 0x4A [(d.code, 16), (a.code, 8)]) = _
  obtain ⟨e28, e24, e0, e1, c0⟩ := fields_16_8_8_8_z_8_0 0x4A d.code_lt a.code_lt
  rw [decode_4 e28, decodeFloat, e24]
  simp only [c0, if_true, opAt_eq e0, opAt_eq e1]
theorem RoundTrip.frcp (d : Opnd) (a : Opnd) : RoundTrip.Statement (.frcp d a) := by
  intro _ _
  show decode (packWord 0x4B [(d.code, 16), (a.code, 8)]) = _
  obtain ⟨e28, e24, e0, e1, c0⟩ := fields_16_8_8_8_z_8_0 0x4B d.code_lt a.code_lt
  rw [decode_4 e28, decodeFloat, e24]
  simp only [c0, if_true, opAt_eq e0, opAt_eq e1]
theorem RoundTrip.frsq (d : Opnd) (a : Opnd) : RoundTrip.Statement (.frsq d a) := by
  intro _ _
  show decode (packWord 0x4C [(d.code, 16), (a.code, 8)]) = _
  obtain ⟨e28, e24, e0, e1, c0⟩ := fields_16_8_8_8_z_8_0 0x4C d.code_lt a.code_lt
  rw [decode_4 e28, decodeFloat, e24]
  simp only [c0, if_true, opAt_eq e0, opAt_eq e1]
theorem RoundTrip.fexp2 (d : Opnd) (a : Opnd) : RoundTrip.Statement (.fexp2 d a) := by
  intro _ _
  show decode (packWord 0x4D [(d.code, 16), (a.code, 8)]) = _
  obtain ⟨e28, e24, e0, e1, c0⟩ := fields_16_8_8_8_z_8_0 0x4D d.code_lt a.code_lt
  rw [decode_4 e28, decodeFloat, e24]
  simp only [c0, if_true, opAt_eq e0, opAt_eq e1]
theorem RoundTrip.flog2 (d : Opnd) (a : Opnd) : RoundTrip.Statement (.flog2 d a) := by
  intro _ _
  show decode (packWord 0x4E [(d.code, 16), (a.code, 8)]) = _
  obtain ⟨e28, e24, e0, e1, c0⟩ := fields_16_8_8_8_z_8_0 0x4E d.code_lt a.code_lt
  rw [decode_4 e28, decodeFloat, e24]
  simp only [c0, if_true, opAt_eq e0, opAt_eq e1]
theorem RoundTrip.fcmp (c : Cond) (p : Fin 8) (a : Opnd) (b : Opnd) : RoundTrip.Statement (.fcmp c p a b) := by
  intro _ _
  show decode (packWord 0x4F [(c.code, 19), (p.val, 16), (a.code, 8), (b.code, 0)]) = _
  obtain ⟨e28, e24, e0, e1, e2, e3, c0⟩ := fields_19_4_16_3_8_8_0_8_z_23_1_0 0x4F c.code_lt p.isLt a.code_lt b.code_lt
  rw [decode_4 e28, decodeFloat, e24]
  simp only [c0, if_true, condAt_eq e0, finAt_eq e1, opAt_eq e2, opAt_eq e3]
theorem RoundTrip.fclass (d : Opnd) (a : Opnd) : RoundTrip.Statement (.fclass d a) := by
  intro _ _
  show decode (packWord 0x50 [(d.code, 16), (a.code, 8)]) = _
  obtain ⟨e28, e24, e0, e1, c0⟩ := fields_16_8_8_8_z_8_0 0x50 d.code_lt a.code_lt
  rw [decode_5 e28, decodeConvert, e24]
  simp only [c0, if_true, opAt_eq e0, opAt_eq e1]
theorem RoundTrip.frnd (d : Opnd) (a : Opnd) (i : BitVec 8) : RoundTrip.Statement (.frnd d a i) := by
  intro _ _
  show decode (packWord 0x51 [(d.code, 16), (a.code, 8), (i.toNat, 0)]) = _
  obtain ⟨e28, e24, e0, e1, e2⟩ := fields_16_8_8_8_0_8 0x51 d.code_lt a.code_lt i.isLt
  rw [decode_5 e28, decodeConvert, e24]
  simp only [opAt_eq e0, opAt_eq e1, bvAt_eq e2]
theorem RoundTrip.fscale (d : Opnd) (a : Opnd) (b : Opnd) : RoundTrip.Statement (.fscale d a b) := by
  intro _ _
  show decode (packWord 0x52 [(d.code, 16), (a.code, 8), (b.code, 0)]) = _
  obtain ⟨e28, e24, e0, e1, e2⟩ := fields_16_8_8_8_0_8_imm 0x52 d.code_lt a.code_lt b.code_lt
  rw [decode_5 e28, decodeConvert, e24]
  simp only [opAt_eq e0, opAt_eq e1, opAt_eq e2]
theorem RoundTrip.cvt (d : Opnd) (a : Opnd) (t : BitVec 8) : RoundTrip.Statement (.cvt d a t) := by
  intro _ _
  show decode (packWord 0x53 [(d.code, 16), (a.code, 8), (t.toNat, 0)]) = _
  obtain ⟨e28, e24, e0, e1, e2⟩ := fields_16_8_8_8_0_8 0x53 d.code_lt a.code_lt t.isLt
  rw [decode_5 e28, decodeConvert, e24]
  simp only [opAt_eq e0, opAt_eq e1, bvAt_eq e2]
theorem RoundTrip.cvts (d : Opnd) (a : Opnd) (b : Opnd) : RoundTrip.Statement (.cvts d a b) := by
  intro _ _
  show decode (packWord 0x54 [(d.code, 16), (a.code, 8), (b.code, 0)]) = _
  obtain ⟨e28, e24, e0, e1, e2⟩ := fields_16_8_8_8_0_8_imm 0x54 d.code_lt a.code_lt b.code_lt
  rw [decode_5 e28, decodeConvert, e24]
  simp only [opAt_eq e0, opAt_eq e1, opAt_eq e2]
theorem RoundTrip.ladd (d : Opnd) (a : Opnd) (b : Opnd) : RoundTrip.Statement (.ladd d a b) := by
  intro _ _
  show decode (packWord 0x55 [(d.code, 16), (a.code, 8), (b.code, 0)]) = _
  obtain ⟨e28, e24, e0, e1, e2⟩ := fields_16_8_8_8_0_8_imm 0x55 d.code_lt a.code_lt b.code_lt
  rw [decode_5 e28, decodeConvert, e24]
  simp only [opAt_eq e0, opAt_eq e1, opAt_eq e2]
theorem RoundTrip.lmul (d : Opnd) (a : Opnd) (b : Opnd) : RoundTrip.Statement (.lmul d a b) := by
  intro _ _
  show decode (packWord 0x56 [(d.code, 16), (a.code, 8), (b.code, 0)]) = _
  obtain ⟨e28, e24, e0, e1, e2⟩ := fields_16_8_8_8_0_8_imm 0x56 d.code_lt a.code_lt b.code_lt
  rw [decode_5 e28, decodeConvert, e24]
  simp only [opAt_eq e0, opAt_eq e1, opAt_eq e2]
theorem RoundTrip.fdot2 (d : Opnd) (a : Opnd) (b : Opnd) : RoundTrip.Statement (.fdot2 d a b) := by
  intro _ _
  show decode (packWord 0x57 [(d.code, 16), (a.code, 8), (b.code, 0)]) = _
  obtain ⟨e28, e24, e0, e1, e2⟩ := fields_16_8_8_8_0_8_imm 0x57 d.code_lt a.code_lt b.code_lt
  rw [decode_5 e28, decodeConvert, e24]
  simp only [opAt_eq e0, opAt_eq e1, opAt_eq e2]
theorem RoundTrip.shfl (d : Opnd) (a : Opnd) (b : Opnd) : RoundTrip.Statement (.shfl d a b) := by
  intro _ _
  show decode (packWord 0x60 [(d.code, 16), (a.code, 8), (b.code, 0)]) = _
  obtain ⟨e28, e24, e0, e1, e2⟩ := fields_16_8_8_8_0_8_imm 0x60 d.code_lt a.code_lt b.code_lt
  rw [decode_6 e28, decodeLane, e24]
  simp only [opAt_eq e0, opAt_eq e1, opAt_eq e2]
theorem RoundTrip.shflu (d : Opnd) (a : Opnd) (n : Fin 32) : RoundTrip.Statement (.shflu d a n) := by
  intro _ _
  show decode (packWord 0x61 [(d.code, 16), (a.code, 8), (n.val, 0)]) = _
  obtain ⟨e28, e24, e0, e1, e2, c0⟩ := fields_16_8_8_8_0_5_z_5_3_0 0x61 d.code_lt a.code_lt n.isLt
  rw [decode_6 e28, decodeLane, e24]
  simp only [c0, if_true, opAt_eq e0, opAt_eq e1, finAt_eq e2]
theorem RoundTrip.shfld (d : Opnd) (a : Opnd) (n : Fin 32) : RoundTrip.Statement (.shfld d a n) := by
  intro _ _
  show decode (packWord 0x62 [(d.code, 16), (a.code, 8), (n.val, 0)]) = _
  obtain ⟨e28, e24, e0, e1, e2, c0⟩ := fields_16_8_8_8_0_5_z_5_3_0 0x62 d.code_lt a.code_lt n.isLt
  rw [decode_6 e28, decodeLane, e24]
  simp only [c0, if_true, opAt_eq e0, opAt_eq e1, finAt_eq e2]
theorem RoundTrip.shflx (d : Opnd) (a : Opnd) (n : Fin 32) : RoundTrip.Statement (.shflx d a n) := by
  intro _ _
  show decode (packWord 0x63 [(d.code, 16), (a.code, 8), (n.val, 0)]) = _
  obtain ⟨e28, e24, e0, e1, e2, c0⟩ := fields_16_8_8_8_0_5_z_5_3_0 0x63 d.code_lt a.code_lt n.isLt
  rw [decode_6 e28, decodeLane, e24]
  simp only [c0, if_true, opAt_eq e0, opAt_eq e1, finAt_eq e2]
theorem RoundTrip.vote (k : Fin 16) (p : Fin 8) (n : Bool) (q : Fin 8) : RoundTrip.Statement (.vote k p n q) := by
  intro _ _
  show decode (packWord 0x64 [(k.val, 19), (p.val, 16), (n.toNat, 11), (q.val, 8)]) = _
  obtain ⟨e28, e24, e0, e1, e2, e3, c0, c1, c2⟩ := fields_19_4_16_3_11_1_8_3_z_8_0_14_0_23_1_0 0x64 k.isLt p.isLt (Bool.toNat_lt n) q.isLt
  rw [decode_6 e28, decodeLane, e24]
  simp only [c0, c1, c2, and_self, if_true, finAt_eq e0, finAt_eq e1, bitAt_eq e2, finAt_eq e3]
theorem RoundTrip.ballot (d : Opnd) (n : Bool) (q : Fin 8) : RoundTrip.Statement (.ballot d n q) := by
  intro _ _
  show decode (packWord 0x65 [(d.code, 16), (n.toNat, 11), (q.val, 8)]) = _
  obtain ⟨e28, e24, e0, e1, e2, c0, c1⟩ := fields_16_8_11_1_8_3_z_8_0_14_0 0x65 d.code_lt (Bool.toNat_lt n) q.isLt
  rw [decode_6 e28, decodeLane, e24]
  simp only [c0, c1, and_self, if_true, opAt_eq e0, bitAt_eq e1, finAt_eq e2]
theorem RoundTrip.matchL (d : Opnd) (a : Opnd) : RoundTrip.Statement (.matchL d a) := by
  intro _ _
  show decode (packWord 0x66 [(d.code, 16), (a.code, 8)]) = _
  obtain ⟨e28, e24, e0, e1, c0⟩ := fields_16_8_8_8_z_8_0 0x66 d.code_lt a.code_lt
  rw [decode_6 e28, decodeLane, e24]
  simp only [c0, if_true, opAt_eq e0, opAt_eq e1]
theorem RoundTrip.rdlane (d : Opnd) (a : Opnd) (b : Opnd) : RoundTrip.Statement (.rdlane d a b) := by
  intro _ _
  show decode (packWord 0x67 [(d.code, 16), (a.code, 8), (b.code, 0)]) = _
  obtain ⟨e28, e24, e0, e1, e2⟩ := fields_16_8_8_8_0_8_imm 0x67 d.code_lt a.code_lt b.code_lt
  rw [decode_6 e28, decodeLane, e24]
  simp only [opAt_eq e0, opAt_eq e1, opAt_eq e2]
theorem RoundTrip.wrlane (d : Opnd) (a : Opnd) (b : Opnd) : RoundTrip.Statement (.wrlane d a b) := by
  intro _ _
  show decode (packWord 0x68 [(d.code, 16), (a.code, 8), (b.code, 0)]) = _
  obtain ⟨e28, e24, e0, e1, e2⟩ := fields_16_8_8_8_0_8_imm 0x68 d.code_lt a.code_lt b.code_lt
  rw [decode_6 e28, decodeLane, e24]
  simp only [opAt_eq e0, opAt_eq e1, opAt_eq e2]
theorem RoundTrip.pand (p : Fin 8) (n : Bool) (q : Fin 8) (m : Bool) (r : Fin 8) : RoundTrip.Statement (.pand p n q m r) := by
  intro _ _
  show decode (packWord 0x69 [(p.val, 16), (n.toNat, 11), (q.val, 8), (m.toNat, 3), (r.val, 0)]) = _
  obtain ⟨e28, e24, e0, e1, e2, e3, e4, c0, c1, c2⟩ := fields_16_3_11_1_8_3_3_1_0_3_z_4_4_0_14_0_19_5_0 0x69 p.isLt (Bool.toNat_lt n) q.isLt (Bool.toNat_lt m) r.isLt
  rw [decode_6 e28, decodeLane, e24]
  simp only [c0, c1, c2, and_self, if_true, finAt_eq e0, bitAt_eq e1, finAt_eq e2, bitAt_eq e3, finAt_eq e4]
theorem RoundTrip.por (p : Fin 8) (n : Bool) (q : Fin 8) (m : Bool) (r : Fin 8) : RoundTrip.Statement (.por p n q m r) := by
  intro _ _
  show decode (packWord 0x6A [(p.val, 16), (n.toNat, 11), (q.val, 8), (m.toNat, 3), (r.val, 0)]) = _
  obtain ⟨e28, e24, e0, e1, e2, e3, e4, c0, c1, c2⟩ := fields_16_3_11_1_8_3_3_1_0_3_z_4_4_0_14_0_19_5_0 0x6A p.isLt (Bool.toNat_lt n) q.isLt (Bool.toNat_lt m) r.isLt
  rw [decode_6 e28, decodeLane, e24]
  simp only [c0, c1, c2, and_self, if_true, finAt_eq e0, bitAt_eq e1, finAt_eq e2, bitAt_eq e3, finAt_eq e4]
theorem RoundTrip.pxor (p : Fin 8) (n : Bool) (q : Fin 8) (m : Bool) (r : Fin 8) : RoundTrip.Statement (.pxor p n q m r) := by
  intro _ _
  show decode (packWord 0x6B [(p.val, 16), (n.toNat, 11), (q.val, 8), (m.toNat, 3), (r.val, 0)]) = _
  obtain ⟨e28, e24, e0, e1, e2, e3, e4, c0, c1, c2⟩ := fields_16_3_11_1_8_3_3_1_0_3_z_4_4_0_14_0_19_5_0 0x6B p.isLt (Bool.toNat_lt n) q.isLt (Bool.toNat_lt m) r.isLt
  rw [decode_6 e28, decodeLane, e24]
  simp only [c0, c1, c2, and_self, if_true, finAt_eq e0, bitAt_eq e1, finAt_eq e2, bitAt_eq e3, finAt_eq e4]
theorem RoundTrip.pnot (p : Fin 8) (n : Bool) (q : Fin 8) : RoundTrip.Statement (.pnot p n q) := by
  intro _ _
  show decode (packWord 0x6C [(p.val, 16), (n.toNat, 11), (q.val, 8)]) = _
  obtain ⟨e28, e24, e0, e1, e2, c0, c1, c2⟩ := fields_16_3_11_1_8_3_z_8_0_14_0_19_5_0 0x6C p.isLt (Bool.toNat_lt n) q.isLt
  rw [decode_6 e28, decodeLane, e24]
  simp only [c0, c1, c2, and_self, if_true, finAt_eq e0, bitAt_eq e1, finAt_eq e2]
theorem RoundTrip.pmov (p : Fin 8) (a : Opnd) : RoundTrip.Statement (.pmov p a) := by
  intro _ _
  show decode (packWord 0x6D [(p.val, 16), (a.code, 8)]) = _
  obtain ⟨e28, e24, e0, e1, c0, c1⟩ := fields_16_3_8_8_z_8_0_19_5_0 0x6D p.isLt a.code_lt
  rw [decode_6 e28, decodeLane, e24]
  simp only [c0, c1, and_self, if_true, finAt_eq e0, opAt_eq e1]
theorem RoundTrip.pset (p : Fin 8) (a : Opnd) (i : Fin 64) : RoundTrip.Statement (.pset p a i) := by
  intro _ _
  show decode (packWord 0x6E [(p.val, 16), (a.code, 8), (i.val, 0)]) = _
  obtain ⟨e28, e24, e0, e1, e2, c0, c1⟩ := fields_16_3_8_8_0_6_z_6_0_19_5_0 0x6E p.isLt a.code_lt i.isLt
  rw [decode_6 e28, decodeLane, e24]
  simp only [c0, c1, and_self, if_true, finAt_eq e0, opAt_eq e1, finAt_eq e2]
theorem RoundTrip.mov (d : Opnd) (a : Opnd) : RoundTrip.Statement (.mov d a) := by
  intro _ _
  show decode (packWord 0x70 [(d.code, 16), (a.code, 8)]) = _
  obtain ⟨e28, e24, e0, e1, c0⟩ := fields_16_8_8_8_z_8_0 0x70 d.code_lt a.code_lt
  rw [decode_7 e28, decodeRegister, e24]
  simp only [c0, if_true, opAt_eq e0, opAt_eq e1]
theorem RoundTrip.movu (d : Opnd) (a : Opnd) : RoundTrip.Statement (.movu d a) := by
  intro _ _
  show decode (packWord 0x71 [(d.code, 16), (a.code, 8)]) = _
  obtain ⟨e28, e24, e0, e1, c0⟩ := fields_16_8_8_8_z_8_0 0x71 d.code_lt a.code_lt
  rw [decode_7 e28, decodeRegister, e24]
  simp only [c0, if_true, opAt_eq e0, opAt_eq e1]
theorem RoundTrip.kill (a : Opnd) : RoundTrip.Statement (.kill a) := by
  intro _ _
  show decode (packWord 0x72 [(a.code, 8)]) = _
  obtain ⟨e28, e24, e0, c0, c1⟩ := fields_8_8_z_8_0_16_8_0 0x72 a.code_lt
  rw [decode_7 e28, decodeRegister, e24]
  simp only [c0, c1, and_self, if_true, opAt_eq e0]
theorem RoundTrip.sete (a : Opnd) : RoundTrip.Statement (.sete a) := by
  intro _ _
  show decode (packWord 0x73 [(a.code, 8)]) = _
  obtain ⟨e28, e24, e0, c0, c1⟩ := fields_8_8_z_8_0_16_8_0 0x73 a.code_lt
  rw [decode_7 e28, decodeRegister, e24]
  simp only [c0, c1, and_self, if_true, opAt_eq e0]
theorem RoundTrip.setf (a : Opnd) : RoundTrip.Statement (.setf a) := by
  intro _ _
  show decode (packWord 0x74 [(a.code, 8)]) = _
  obtain ⟨e28, e24, e0, c0, c1⟩ := fields_8_8_z_8_0_16_8_0 0x74 a.code_lt
  rw [decode_7 e28, decodeRegister, e24]
  simp only [c0, c1, and_self, if_true, opAt_eq e0]
theorem RoundTrip.testf (d : Opnd) (a : Opnd) : RoundTrip.Statement (.testf d a) := by
  intro _ _
  show decode (packWord 0x75 [(d.code, 16), (a.code, 8)]) = _
  obtain ⟨e28, e24, e0, e1, c0⟩ := fields_16_8_8_8_z_8_0 0x75 d.code_lt a.code_lt
  rw [decode_7 e28, decodeRegister, e24]
  simp only [c0, if_true, opAt_eq e0, opAt_eq e1]
theorem RoundTrip.cinv (a : Opnd) : RoundTrip.Statement (.cinv a) := by
  intro _ _
  show decode (packWord 0x76 [(a.code, 8)]) = _
  obtain ⟨e28, e24, e0, c0, c1⟩ := fields_8_8_z_8_0_16_8_0 0x76 a.code_lt
  rw [decode_7 e28, decodeRegister, e24]
  simp only [c0, c1, and_self, if_true, opAt_eq e0]
theorem RoundTrip.shape (h : Fin 8) (a : Opnd) : RoundTrip.Statement (.shape h a) := by
  intro _ _
  show decode (packWord 0x77 [(h.val, 16), (a.code, 8)]) = _
  obtain ⟨e28, e24, e0, e1, c0, c1⟩ := fields_16_3_8_8_z_8_0_19_5_0 0x77 h.isLt a.code_lt
  rw [decode_7 e28, decodeRegister, e24]
  simp only [c0, c1, and_self, if_true, finAt_eq e0, opAt_eq e1]
theorem RoundTrip.shapeq (d : Opnd) (h : Fin 8) : RoundTrip.Statement (.shapeq d h) := by
  intro _ _
  show decode (packWord 0x78 [(d.code, 16), (h.val, 8)]) = _
  obtain ⟨e28, e24, e0, e1, c0, c1⟩ := fields_16_8_8_3_z_8_0_11_5_0 0x78 d.code_lt h.isLt
  rw [decode_7 e28, decodeRegister, e24]
  simp only [c0, c1, and_self, if_true, opAt_eq e0, finAt_eq e1]
theorem RoundTrip.fslot (d : Opnd) (f : Fin 8) : RoundTrip.Statement (.fslot d f) := by
  intro _ _
  show decode (packWord 0x79 [(d.code, 16), (f.val, 0)]) = _
  obtain ⟨e28, e24, e0, e1, c0⟩ := fields_16_8_0_3_z_3_13_0 0x79 d.code_lt f.isLt
  rw [decode_7 e28, decodeRegister, e24]
  simp only [c0, if_true, opAt_eq e0, finAt_eq e1]
theorem RoundTrip.ld (d : Opnd) (a : Opnd) (b : Opnd) : RoundTrip.Statement (.ld d a b) := by
  intro _ _
  show decode (packWord 0x80 [(d.code, 16), (a.code, 8), (b.code, 0)]) = _
  obtain ⟨e28, e24, e0, e1, e2⟩ := fields_16_8_8_8_0_8_imm 0x80 d.code_lt a.code_lt b.code_lt
  rw [decode_8 e28, decodeMemory, e24]
  simp only [opAt_eq e0, opAt_eq e1, opAt_eq e2]
theorem RoundTrip.st (d : Opnd) (a : Opnd) (b : Opnd) : RoundTrip.Statement (.st d a b) := by
  intro _ _
  show decode (packWord 0x81 [(d.code, 16), (a.code, 8), (b.code, 0)]) = _
  obtain ⟨e28, e24, e0, e1, e2⟩ := fields_16_8_8_8_0_8_imm 0x81 d.code_lt a.code_lt b.code_lt
  rw [decode_8 e28, decodeMemory, e24]
  simp only [opAt_eq e0, opAt_eq e1, opAt_eq e2]
theorem RoundTrip.ldx (d : Opnd) (a : Opnd) (b : Opnd) : RoundTrip.Statement (.ldx d a b) := by
  intro _ _
  show decode (packWord 0x82 [(d.code, 16), (a.code, 8), (b.code, 0)]) = _
  obtain ⟨e28, e24, e0, e1, e2⟩ := fields_16_8_8_8_0_8_imm 0x82 d.code_lt a.code_lt b.code_lt
  rw [decode_8 e28, decodeMemory, e24]
  simp only [opAt_eq e0, opAt_eq e1, opAt_eq e2]
theorem RoundTrip.stx (d : Opnd) (a : Opnd) (b : Opnd) : RoundTrip.Statement (.stx d a b) := by
  intro _ _
  show decode (packWord 0x83 [(d.code, 16), (a.code, 8), (b.code, 0)]) = _
  obtain ⟨e28, e24, e0, e1, e2⟩ := fields_16_8_8_8_0_8_imm 0x83 d.code_lt a.code_lt b.code_lt
  rw [decode_8 e28, decodeMemory, e24]
  simp only [opAt_eq e0, opAt_eq e1, opAt_eq e2]
theorem RoundTrip.lda (d : Opnd) (a : Opnd) (b : Opnd) : RoundTrip.Statement (.lda d a b) := by
  intro _ _
  show decode (packWord 0x84 [(d.code, 16), (a.code, 8), (b.code, 0)]) = _
  obtain ⟨e28, e24, e0, e1, e2⟩ := fields_16_8_8_8_0_8_imm 0x84 d.code_lt a.code_lt b.code_lt
  rw [decode_8 e28, decodeMemory, e24]
  simp only [opAt_eq e0, opAt_eq e1, opAt_eq e2]
theorem RoundTrip.stl (d : Opnd) (a : Opnd) (b : Opnd) : RoundTrip.Statement (.stl d a b) := by
  intro _ _
  show decode (packWord 0x85 [(d.code, 16), (a.code, 8), (b.code, 0)]) = _
  obtain ⟨e28, e24, e0, e1, e2⟩ := fields_16_8_8_8_0_8_imm 0x85 d.code_lt a.code_lt b.code_lt
  rw [decode_8 e28, decodeMemory, e24]
  simp only [opAt_eq e0, opAt_eq e1, opAt_eq e2]
theorem RoundTrip.ldp (d : Opnd) (a : Opnd) (b : Opnd) : RoundTrip.Statement (.ldp d a b) := by
  intro _ _
  show decode (packWord 0x86 [(d.code, 16), (a.code, 8), (b.code, 0)]) = _
  obtain ⟨e28, e24, e0, e1, e2⟩ := fields_16_8_8_8_0_8_imm 0x86 d.code_lt a.code_lt b.code_lt
  rw [decode_8 e28, decodeMemory, e24]
  simp only [opAt_eq e0, opAt_eq e1, opAt_eq e2]
theorem RoundTrip.stp (d : Opnd) (a : Opnd) (b : Opnd) : RoundTrip.Statement (.stp d a b) := by
  intro _ _
  show decode (packWord 0x87 [(d.code, 16), (a.code, 8), (b.code, 0)]) = _
  obtain ⟨e28, e24, e0, e1, e2⟩ := fields_16_8_8_8_0_8_imm 0x87 d.code_lt a.code_lt b.code_lt
  rw [decode_8 e28, decodeMemory, e24]
  simp only [opAt_eq e0, opAt_eq e1, opAt_eq e2]
theorem RoundTrip.ldc (d : Opnd) (a : Opnd) (b : Opnd) : RoundTrip.Statement (.ldc d a b) := by
  intro _ _
  show decode (packWord 0x88 [(d.code, 16), (a.code, 8), (b.code, 0)]) = _
  obtain ⟨e28, e24, e0, e1, e2⟩ := fields_16_8_8_8_0_8_imm 0x88 d.code_lt a.code_lt b.code_lt
  rw [decode_8 e28, decodeMemory, e24]
  simp only [opAt_eq e0, opAt_eq e1, opAt_eq e2]
theorem RoundTrip.pf (a : Opnd) (b : Opnd) : RoundTrip.Statement (.pf a b) := by
  intro _ _
  show decode (packWord 0x8B [(a.code, 8), (b.code, 0)]) = _
  obtain ⟨e28, e24, e0, e1, c0⟩ := fields_8_8_0_8_z_16_8_0_imm 0x8B a.code_lt b.code_lt
  rw [decode_8 e28, decodeMemory, e24]
  simp only [c0, if_true, opAt_eq e0, opAt_eq e1]
theorem RoundTrip.cctl (a : Opnd) (o : Fin 4) : RoundTrip.Statement (.cctl a o) := by
  intro _ _
  show decode (packWord 0x8C [(a.code, 8), (o.val, 0)]) = _
  obtain ⟨e28, e24, e0, e1, c0, c1⟩ := fields_8_8_0_z_6_0_16_8_0 0x8C a.code_lt o.isLt
  rw [decode_8 e28, decodeMemory, e24]
  simp only [c0, c1, and_self, if_true, opAt_eq e0, finAt_eq e1]
theorem RoundTrip.aadd (d : Opnd) (a : Opnd) (b : Opnd) : RoundTrip.Statement (.aadd d a b) := by
  intro _ _
  show decode (packWord 0x90 [(d.code, 16), (a.code, 8), (b.code, 0)]) = _
  obtain ⟨e28, e24, e0, e1, e2⟩ := fields_16_8_8_8_0_8_imm 0x90 d.code_lt a.code_lt b.code_lt
  rw [decode_9 e28, decodeAtomic, e24]
  simp only [opAt_eq e0, opAt_eq e1, opAt_eq e2]
theorem RoundTrip.afadd (d : Opnd) (a : Opnd) (b : Opnd) : RoundTrip.Statement (.afadd d a b) := by
  intro _ _
  show decode (packWord 0x91 [(d.code, 16), (a.code, 8), (b.code, 0)]) = _
  obtain ⟨e28, e24, e0, e1, e2⟩ := fields_16_8_8_8_0_8_imm 0x91 d.code_lt a.code_lt b.code_lt
  rw [decode_9 e28, decodeAtomic, e24]
  simp only [opAt_eq e0, opAt_eq e1, opAt_eq e2]
theorem RoundTrip.amin (d : Opnd) (a : Opnd) (b : Opnd) : RoundTrip.Statement (.amin d a b) := by
  intro _ _
  show decode (packWord 0x92 [(d.code, 16), (a.code, 8), (b.code, 0)]) = _
  obtain ⟨e28, e24, e0, e1, e2⟩ := fields_16_8_8_8_0_8_imm 0x92 d.code_lt a.code_lt b.code_lt
  rw [decode_9 e28, decodeAtomic, e24]
  simp only [opAt_eq e0, opAt_eq e1, opAt_eq e2]
theorem RoundTrip.amax (d : Opnd) (a : Opnd) (b : Opnd) : RoundTrip.Statement (.amax d a b) := by
  intro _ _
  show decode (packWord 0x93 [(d.code, 16), (a.code, 8), (b.code, 0)]) = _
  obtain ⟨e28, e24, e0, e1, e2⟩ := fields_16_8_8_8_0_8_imm 0x93 d.code_lt a.code_lt b.code_lt
  rw [decode_9 e28, decodeAtomic, e24]
  simp only [opAt_eq e0, opAt_eq e1, opAt_eq e2]
theorem RoundTrip.aand (d : Opnd) (a : Opnd) (b : Opnd) : RoundTrip.Statement (.aand d a b) := by
  intro _ _
  show decode (packWord 0x94 [(d.code, 16), (a.code, 8), (b.code, 0)]) = _
  obtain ⟨e28, e24, e0, e1, e2⟩ := fields_16_8_8_8_0_8_imm 0x94 d.code_lt a.code_lt b.code_lt
  rw [decode_9 e28, decodeAtomic, e24]
  simp only [opAt_eq e0, opAt_eq e1, opAt_eq e2]
theorem RoundTrip.aor (d : Opnd) (a : Opnd) (b : Opnd) : RoundTrip.Statement (.aor d a b) := by
  intro _ _
  show decode (packWord 0x95 [(d.code, 16), (a.code, 8), (b.code, 0)]) = _
  obtain ⟨e28, e24, e0, e1, e2⟩ := fields_16_8_8_8_0_8_imm 0x95 d.code_lt a.code_lt b.code_lt
  rw [decode_9 e28, decodeAtomic, e24]
  simp only [opAt_eq e0, opAt_eq e1, opAt_eq e2]
theorem RoundTrip.axor (d : Opnd) (a : Opnd) (b : Opnd) : RoundTrip.Statement (.axor d a b) := by
  intro _ _
  show decode (packWord 0x96 [(d.code, 16), (a.code, 8), (b.code, 0)]) = _
  obtain ⟨e28, e24, e0, e1, e2⟩ := fields_16_8_8_8_0_8_imm 0x96 d.code_lt a.code_lt b.code_lt
  rw [decode_9 e28, decodeAtomic, e24]
  simp only [opAt_eq e0, opAt_eq e1, opAt_eq e2]
theorem RoundTrip.axch (d : Opnd) (a : Opnd) (b : Opnd) : RoundTrip.Statement (.axch d a b) := by
  intro _ _
  show decode (packWord 0x97 [(d.code, 16), (a.code, 8), (b.code, 0)]) = _
  obtain ⟨e28, e24, e0, e1, e2⟩ := fields_16_8_8_8_0_8_imm 0x97 d.code_lt a.code_lt b.code_lt
  rw [decode_9 e28, decodeAtomic, e24]
  simp only [opAt_eq e0, opAt_eq e1, opAt_eq e2]
theorem RoundTrip.acas (d : Opnd) (a : Opnd) (b : Opnd) : RoundTrip.Statement (.acas d a b) := by
  intro _ _
  show decode (packWord 0x98 [(d.code, 16), (a.code, 8), (b.code, 0)]) = _
  obtain ⟨e28, e24, e0, e1, e2⟩ := fields_16_8_8_8_0_8_imm 0x98 d.code_lt a.code_lt b.code_lt
  rw [decode_9 e28, decodeAtomic, e24]
  simp only [opAt_eq e0, opAt_eq e1, opAt_eq e2]
theorem RoundTrip.redadd (a : Opnd) (b : Opnd) : RoundTrip.Statement (.redadd a b) := by
  intro _ _
  show decode (packWord 0x99 [(a.code, 8), (b.code, 0)]) = _
  obtain ⟨e28, e24, e0, e1, c0⟩ := fields_8_8_0_8_z_16_8_0_imm 0x99 a.code_lt b.code_lt
  rw [decode_9 e28, decodeAtomic, e24]
  simp only [c0, if_true, opAt_eq e0, opAt_eq e1]
theorem RoundTrip.redfadd (a : Opnd) (b : Opnd) : RoundTrip.Statement (.redfadd a b) := by
  intro _ _
  show decode (packWord 0x9A [(a.code, 8), (b.code, 0)]) = _
  obtain ⟨e28, e24, e0, e1, c0⟩ := fields_8_8_0_8_z_16_8_0_imm 0x9A a.code_lt b.code_lt
  rw [decode_9 e28, decodeAtomic, e24]
  simp only [c0, if_true, opAt_eq e0, opAt_eq e1]
theorem RoundTrip.redmin (a : Opnd) (b : Opnd) : RoundTrip.Statement (.redmin a b) := by
  intro _ _
  show decode (packWord 0x9B [(a.code, 8), (b.code, 0)]) = _
  obtain ⟨e28, e24, e0, e1, c0⟩ := fields_8_8_0_8_z_16_8_0_imm 0x9B a.code_lt b.code_lt
  rw [decode_9 e28, decodeAtomic, e24]
  simp only [c0, if_true, opAt_eq e0, opAt_eq e1]
theorem RoundTrip.redmax (a : Opnd) (b : Opnd) : RoundTrip.Statement (.redmax a b) := by
  intro _ _
  show decode (packWord 0x9C [(a.code, 8), (b.code, 0)]) = _
  obtain ⟨e28, e24, e0, e1, c0⟩ := fields_8_8_0_8_z_16_8_0_imm 0x9C a.code_lt b.code_lt
  rw [decode_9 e28, decodeAtomic, e24]
  simp only [c0, if_true, opAt_eq e0, opAt_eq e1]
theorem RoundTrip.cpy (d : Opnd) (a : Opnd) (b : Opnd) : RoundTrip.Statement (.cpy d a b) := by
  intro _ _
  show decode (packWord 0xA0 [(d.code, 16), (a.code, 8), (b.code, 0)]) = _
  obtain ⟨e28, e24, e0, e1, e2⟩ := fields_16_8_8_8_0_8_imm 0xA0 d.code_lt a.code_lt b.code_lt
  rw [decode_10 e28, decodeEngine, e24]
  simp only [opAt_eq e0, opAt_eq e1, opAt_eq e2]
theorem RoundTrip.cpy2 (d : Opnd) (a : Opnd) (b : Opnd) : RoundTrip.Statement (.cpy2 d a b) := by
  intro _ _
  show decode (packWord 0xA1 [(d.code, 16), (a.code, 8), (b.code, 0)]) = _
  obtain ⟨e28, e24, e0, e1, e2⟩ := fields_16_8_8_8_0_8_imm 0xA1 d.code_lt a.code_lt b.code_lt
  rw [decode_10 e28, decodeEngine, e24]
  simp only [opAt_eq e0, opAt_eq e1, opAt_eq e2]
theorem RoundTrip.gthr (d : Opnd) (a : Opnd) (b : Opnd) : RoundTrip.Statement (.gthr d a b) := by
  intro _ _
  show decode (packWord 0xA2 [(d.code, 16), (a.code, 8), (b.code, 0)]) = _
  obtain ⟨e28, e24, e0, e1, e2⟩ := fields_16_8_8_8_0_8_imm 0xA2 d.code_lt a.code_lt b.code_lt
  rw [decode_10 e28, decodeEngine, e24]
  simp only [opAt_eq e0, opAt_eq e1, opAt_eq e2]
theorem RoundTrip.sctr (d : Opnd) (a : Opnd) (b : Opnd) : RoundTrip.Statement (.sctr d a b) := by
  intro _ _
  show decode (packWord 0xA3 [(d.code, 16), (a.code, 8), (b.code, 0)]) = _
  obtain ⟨e28, e24, e0, e1, e2⟩ := fields_16_8_8_8_0_8_imm 0xA3 d.code_lt a.code_lt b.code_lt
  rw [decode_10 e28, decodeEngine, e24]
  simp only [opAt_eq e0, opAt_eq e1, opAt_eq e2]
theorem RoundTrip.waitc (a : Opnd) (c : Fin 8) : RoundTrip.Statement (.waitc a c) := by
  intro _ _
  show decode (packWord 0xA4 [(a.code, 8), (c.val, 0)]) = _
  obtain ⟨e28, e24, e0, e1, c0, c1⟩ := fields_8_8_0_3_z_3_5_0_16_8_0 0xA4 a.code_lt c.isLt
  rw [decode_10 e28, decodeEngine, e24]
  simp only [c0, c1, and_self, if_true, opAt_eq e0, finAt_eq e1]
theorem RoundTrip.rdcnt (d : Opnd) (c : Fin 8) : RoundTrip.Statement (.rdcnt d c) := by
  intro _ _
  show decode (packWord 0xA5 [(d.code, 16), (c.val, 0)]) = _
  obtain ⟨e28, e24, e0, e1, c0⟩ := fields_16_8_0_3_z_3_13_0 0xA5 d.code_lt c.isLt
  rw [decode_10 e28, decodeEngine, e24]
  simp only [c0, if_true, opAt_eq e0, finAt_eq e1]
theorem RoundTrip.htest (d : Opnd) (a : Opnd) : RoundTrip.Statement (.htest d a) := by
  intro _ _
  show decode (packWord 0xA6 [(d.code, 16), (a.code, 8)]) = _
  obtain ⟨e28, e24, e0, e1, c0⟩ := fields_16_8_8_8_z_8_0 0xA6 d.code_lt a.code_lt
  rw [decode_10 e28, decodeEngine, e24]
  simp only [c0, if_true, opAt_eq e0, opAt_eq e1]
theorem RoundTrip.hcanc (d : Opnd) (a : Opnd) : RoundTrip.Statement (.hcanc d a) := by
  intro _ _
  show decode (packWord 0xA7 [(d.code, 16), (a.code, 8)]) = _
  obtain ⟨e28, e24, e0, e1, c0⟩ := fields_16_8_8_8_z_8_0 0xA7 d.code_lt a.code_lt
  rw [decode_10 e28, decodeEngine, e24]
  simp only [c0, if_true, opAt_eq e0, opAt_eq e1]
theorem RoundTrip.hprom (d : Opnd) (a : Opnd) : RoundTrip.Statement (.hprom d a) := by
  intro _ _
  show decode (packWord 0xA8 [(d.code, 16), (a.code, 8)]) = _
  obtain ⟨e28, e24, e0, e1, c0⟩ := fields_16_8_8_8_z_8_0 0xA8 d.code_lt a.code_lt
  rw [decode_10 e28, decodeEngine, e24]
  simp only [c0, if_true, opAt_eq e0, opAt_eq e1]
theorem RoundTrip.hstat (d : Opnd) (a : Opnd) : RoundTrip.Statement (.hstat d a) := by
  intro _ _
  show decode (packWord 0xA9 [(d.code, 16), (a.code, 8)]) = _
  obtain ⟨e28, e24, e0, e1, c0⟩ := fields_16_8_8_8_z_8_0 0xA9 d.code_lt a.code_lt
  rw [decode_10 e28, decodeEngine, e24]
  simp only [c0, if_true, opAt_eq e0, opAt_eq e1]
theorem RoundTrip.coll (d : Opnd) (a : Opnd) (o : Fin 16) (k : Fin 16) : RoundTrip.Statement (.coll d a o k) := by
  intro _ _
  show decode (packWord 0xAA [(d.code, 16), (a.code, 8), (o.val, 4), (k.val, 0)]) = _
  obtain ⟨e28, e24, e0, e1, e2, e3⟩ := fields_16_8_8_8_4_4_0_4 0xAA d.code_lt a.code_lt o.isLt k.isLt
  rw [decode_10 e28, decodeEngine, e24]
  simp only [opAt_eq e0, opAt_eq e1, finAt_eq e2, finAt_eq e3]
theorem RoundTrip.bar (a : Opnd) (l : Fin 4) (n : Fin 16) : RoundTrip.Statement (.bar a l n) := by
  intro _ _
  show decode (packWord 0xB0 [(a.code, 8), (l.val, 6), (n.val, 0)]) = _
  obtain ⟨e28, e24, e0, e1, e2, c0, c1⟩ := fields_8_8_6_0_4_z_4_0_16_8_0 0xB0 a.code_lt l.isLt n.isLt
  rw [decode_11 e28, decodeSync, e24]
  simp only [c0, c1, and_self, if_true, opAt_eq e0, finAt_eq e1, finAt_eq e2]
theorem RoundTrip.bara (a : Opnd) (l : Fin 4) (n : Fin 16) : RoundTrip.Statement (.bara a l n) := by
  intro _ _
  show decode (packWord 0xB1 [(a.code, 8), (l.val, 6), (n.val, 0)]) = _
  obtain ⟨e28, e24, e0, e1, e2, c0, c1⟩ := fields_8_8_6_0_4_z_4_0_16_8_0 0xB1 a.code_lt l.isLt n.isLt
  rw [decode_11 e28, decodeSync, e24]
  simp only [c0, c1, and_self, if_true, opAt_eq e0, finAt_eq e1, finAt_eq e2]
theorem RoundTrip.barw (l : Fin 4) (n : Fin 16) : RoundTrip.Statement (.barw l n) := by
  intro _ _
  show decode (packWord 0xB2 [(l.val, 6), (n.val, 0)]) = _
  obtain ⟨e28, e24, e0, e1, c0, c1⟩ := fields_6_0_4_z_4_0_8_16_0 0xB2 l.isLt n.isLt
  rw [decode_11 e28, decodeSync, e24]
  simp only [c0, c1, and_self, if_true, finAt_eq e0, finAt_eq e1]
theorem RoundTrip.barq (d : Opnd) (l : Fin 4) (n : Fin 16) : RoundTrip.Statement (.barq d l n) := by
  intro _ _
  show decode (packWord 0xB3 [(d.code, 16), (l.val, 6), (n.val, 0)]) = _
  obtain ⟨e28, e24, e0, e1, e2, c0, c1⟩ := fields_16_8_6_0_4_z_4_0_8_8_0 0xB3 d.code_lt l.isLt n.isLt
  rw [decode_11 e28, decodeSync, e24]
  simp only [c0, c1, and_self, if_true, opAt_eq e0, finAt_eq e1, finAt_eq e2]
theorem RoundTrip.gpwait (a : Opnd) : RoundTrip.Statement (.gpwait a) := by
  intro _ _
  show decode (packWord 0xB6 [(a.code, 8)]) = _
  obtain ⟨e28, e24, e0, c0, c1⟩ := fields_8_8_z_8_0_16_8_0 0xB6 a.code_lt
  rw [decode_11 e28, decodeSync, e24]
  simp only [c0, c1, and_self, if_true, opAt_eq e0]
theorem RoundTrip.gpseq (d : Opnd) : RoundTrip.Statement (.gpseq d) := by
  intro _ _
  show decode (packWord 0xB7 [(d.code, 16)]) = _
  obtain ⟨e28, e24, e0, c0⟩ := fields_16_8_z_16_0 0xB7 d.code_lt
  rw [decode_11 e28, decodeSync, e24]
  simp only [c0, if_true, opAt_eq e0]
theorem RoundTrip.dfree (a : Opnd) (b : Opnd) : RoundTrip.Statement (.dfree a b) := by
  intro _ _
  show decode (packWord 0xB8 [(a.code, 8), (b.code, 0)]) = _
  obtain ⟨e28, e24, e0, e1, c0⟩ := fields_8_8_0_8_z_16_8_0_imm 0xB8 a.code_lt b.code_lt
  rw [decode_11 e28, decodeSync, e24]
  simp only [c0, if_true, opAt_eq e0, opAt_eq e1]
theorem RoundTrip.qpush (d : Opnd) (a : Opnd) (b : Opnd) : RoundTrip.Statement (.qpush d a b) := by
  intro _ _
  show decode (packWord 0xB9 [(d.code, 16), (a.code, 8), (b.code, 0)]) = _
  obtain ⟨e28, e24, e0, e1, e2⟩ := fields_16_8_8_8_0_8_imm 0xB9 d.code_lt a.code_lt b.code_lt
  rw [decode_11 e28, decodeSync, e24]
  simp only [opAt_eq e0, opAt_eq e1, opAt_eq e2]
theorem RoundTrip.qpop (d : Opnd) (a : Opnd) : RoundTrip.Statement (.qpop d a) := by
  intro _ _
  show decode (packWord 0xBA [(d.code, 16), (a.code, 8)]) = _
  obtain ⟨e28, e24, e0, e1, c0⟩ := fields_16_8_8_8_z_8_0 0xBA d.code_lt a.code_lt
  rw [decode_11 e28, decodeSync, e24]
  simp only [c0, if_true, opAt_eq e0, opAt_eq e1]
theorem RoundTrip.qtry (k : Fin 16) (p : Fin 8) (a : Opnd) (b : Opnd) : RoundTrip.Statement (.qtry k p a b) := by
  intro _ _
  show decode (packWord 0xBB [(k.val, 19), (p.val, 16), (a.code, 8), (b.code, 0)]) = _
  obtain ⟨e28, e24, e0, e1, e2, e3, c0⟩ := fields_19_4_16_3_8_8_0_8_z_23_1_0_imm 0xBB k.isLt p.isLt a.code_lt b.code_lt
  rw [decode_11 e28, decodeSync, e24]
  simp only [c0, if_true, finAt_eq e0, finAt_eq e1, opAt_eq e2, opAt_eq e3]
theorem RoundTrip.mma (h : Fin 8) (g : Fin 8) (t : Fin 4) (a : Opnd) (b : Opnd) : RoundTrip.Statement (.mma h g t a b) := by
  intro _ _
  show decode (packWord 0xC0 [(h.val, 21), (g.val, 18), (t.val, 16), (a.code, 8), (b.code, 0)]) = _
  obtain ⟨e28, e24, e0, e1, e2, e3, e4⟩ := fields_21_3_18_3_16_8_8_0_8 0xC0 h.isLt g.isLt t.isLt a.code_lt b.code_lt
  rw [decode_12 e28, decodeMatrix, e24]
  simp only [finAt_eq e0, finAt_eq e1, finAt_eq e2, opAt_eq e3, opAt_eq e4]
theorem RoundTrip.mmas (h : Fin 8) (g : Fin 8) (t : Fin 4) (a : Opnd) (b : Opnd) : RoundTrip.Statement (.mmas h g t a b) := by
  intro _ _
  show decode (packWord 0xC1 [(h.val, 21), (g.val, 18), (t.val, 16), (a.code, 8), (b.code, 0)]) = _
  obtain ⟨e28, e24, e0, e1, e2, e3, e4⟩ := fields_21_3_18_3_16_8_8_0_8 0xC1 h.isLt g.isLt t.isLt a.code_lt b.code_lt
  rw [decode_12 e28, decodeMatrix, e24]
  simp only [finAt_eq e0, finAt_eq e1, finAt_eq e2, opAt_eq e3, opAt_eq e4]
theorem RoundTrip.mmal (h : Fin 8) (g : Fin 8) (t : Fin 4) (a : Opnd) (b : Opnd) : RoundTrip.Statement (.mmal h g t a b) := by
  intro _ _
  show decode (packWord 0xC2 [(h.val, 21), (g.val, 18), (t.val, 16), (a.code, 8), (b.code, 0)]) = _
  obtain ⟨e28, e24, e0, e1, e2, e3, e4⟩ := fields_21_3_18_3_16_8_8_0_8 0xC2 h.isLt g.isLt t.isLt a.code_lt b.code_lt
  rw [decode_12 e28, decodeMatrix, e24]
  simp only [finAt_eq e0, finAt_eq e1, finAt_eq e2, opAt_eq e3, opAt_eq e4]
theorem RoundTrip.accz (w : Bool) (t : Fin 4) : RoundTrip.Statement (.accz w t) := by
  intro _ _
  show decode (packWord 0xC3 [(w.toNat, 18), (t.val, 16)]) = _
  obtain ⟨e28, e24, e0, e1, c0, c1⟩ := fields_18_1_16_z_16_0_19_5_0 0xC3 (Bool.toNat_lt w) t.isLt
  rw [decode_12 e28, decodeMatrix, e24]
  simp only [c0, c1, and_self, if_true, bitAt_eq e0, finAt_eq e1]
theorem RoundTrip.accrd (d : Opnd) (w : Bool) (t : Fin 4) (b : Opnd) : RoundTrip.Statement (.accrd d w t b) := by
  intro _ _
  show decode (packWord 0xC4 [(d.code, 16), (w.toNat, 10), (t.val, 8), (b.code, 0)]) = _
  obtain ⟨e28, e24, e0, e1, e2, e3, c0⟩ := fields_16_8_10_1_8_0_8_z_11_5_0 0xC4 d.code_lt (Bool.toNat_lt w) t.isLt b.code_lt
  rw [decode_12 e28, decodeMatrix, e24]
  simp only [c0, if_true, opAt_eq e0, bitAt_eq e1, finAt_eq e2, opAt_eq e3]
theorem RoundTrip.accwr (w : Bool) (t : Fin 4) (a : Opnd) (b : Opnd) : RoundTrip.Statement (.accwr w t a b) := by
  intro _ _
  show decode (packWord 0xC5 [(w.toNat, 18), (t.val, 16), (a.code, 8), (b.code, 0)]) = _
  obtain ⟨e28, e24, e0, e1, e2, e3, c0⟩ := fields_18_1_16_8_8_0_8_z_19_5_0 0xC5 (Bool.toNat_lt w) t.isLt a.code_lt b.code_lt
  rw [decode_12 e28, decodeMatrix, e24]
  simp only [c0, if_true, bitAt_eq e0, finAt_eq e1, opAt_eq e2, opAt_eq e3]
theorem RoundTrip.csld (d : Opnd) (a : Opnd) (b : Opnd) : RoundTrip.Statement (.csld d a b) := by
  intro _ _
  show decode (packWord 0xC6 [(d.code, 16), (a.code, 8), (b.code, 0)]) = _
  obtain ⟨e28, e24, e0, e1, e2⟩ := fields_16_8_8_8_0_8_imm 0xC6 d.code_lt a.code_lt b.code_lt
  rw [decode_12 e28, decodeMatrix, e24]
  simp only [opAt_eq e0, opAt_eq e1, opAt_eq e2]
theorem RoundTrip.gang (a : Opnd) : RoundTrip.Statement (.gang a) := by
  intro _ _
  show decode (packWord 0xC7 [(a.code, 8)]) = _
  obtain ⟨e28, e24, e0, c0, c1⟩ := fields_8_8_z_8_0_16_8_0 0xC7 a.code_lt
  rw [decode_12 e28, decodeMatrix, e24]
  simp only [c0, c1, and_self, if_true, opAt_eq e0]
theorem RoundTrip.mxhint (a : Opnd) : RoundTrip.Statement (.mxhint a) := by
  intro _ _
  show decode (packWord 0xC8 [(a.code, 8)]) = _
  obtain ⟨e28, e24, e0, c0, c1⟩ := fields_8_8_z_8_0_16_8_0 0xC8 a.code_lt
  rw [decode_12 e28, decodeMatrix, e24]
  simp only [c0, c1, and_self, if_true, opAt_eq e0]
theorem RoundTrip.mxgemm (d : Opnd) (a : Opnd) (b : Opnd) : RoundTrip.Statement (.mxgemm d a b) := by
  intro _ _
  show decode (packWord 0xC9 [(d.code, 16), (a.code, 8), (b.code, 0)]) = _
  obtain ⟨e28, e24, e0, e1, e2⟩ := fields_16_8_8_8_0_8_imm 0xC9 d.code_lt a.code_lt b.code_lt
  rw [decode_12 e28, decodeMatrix, e24]
  simp only [opAt_eq e0, opAt_eq e1, opAt_eq e2]
theorem RoundTrip.quant (d : Opnd) (a : Opnd) (b : Opnd) : RoundTrip.Statement (.quant d a b) := by
  intro _ _
  show decode (packWord 0xCA [(d.code, 16), (a.code, 8), (b.code, 0)]) = _
  obtain ⟨e28, e24, e0, e1, e2⟩ := fields_16_8_8_8_0_8_imm 0xCA d.code_lt a.code_lt b.code_lt
  rw [decode_12 e28, decodeMatrix, e24]
  simp only [opAt_eq e0, opAt_eq e1, opAt_eq e2]
theorem RoundTrip.mxstat (d : Opnd) (s : Fin 4) : RoundTrip.Statement (.mxstat d s) := by
  intro _ _
  show decode (packWord 0xCB [(d.code, 16), (s.val, 0)]) = _
  obtain ⟨e28, e24, e0, e1, c0⟩ := fields_16_8_0_z_14_0 0xCB d.code_lt s.isLt
  rw [decode_12 e28, decodeMatrix, e24]
  simp only [c0, if_true, opAt_eq e0, finAt_eq e1]
theorem RoundTrip.hfam (d : Opnd) (a : Opnd) (n : Fin 4) : RoundTrip.Statement (.hfam d a n) := by
  intro _ _
  show decode (packWord 0xD0 [(d.code, 16), (a.code, 8), (n.val, 0)]) = _
  obtain ⟨e28, e24, e0, e1, e2, c0⟩ := fields_16_8_8_8_0_z_6_0 0xD0 d.code_lt a.code_lt n.isLt
  rw [decode_13 e28, decodeTable, e24]
  simp only [c0, if_true, opAt_eq e0, opAt_eq e1, finAt_eq e2]
theorem RoundTrip.hash (d : Opnd) (a : Opnd) (b : Opnd) : RoundTrip.Statement (.hash d a b) := by
  intro _ _
  show decode (packWord 0xD1 [(d.code, 16), (a.code, 8), (b.code, 0)]) = _
  obtain ⟨e28, e24, e0, e1, e2⟩ := fields_16_8_8_8_0_8_imm 0xD1 d.code_lt a.code_lt b.code_lt
  rw [decode_13 e28, decodeTable, e24]
  simp only [opAt_eq e0, opAt_eq e1, opAt_eq e2]
theorem RoundTrip.probe (d : Opnd) (a : Opnd) (b : Opnd) : RoundTrip.Statement (.probe d a b) := by
  intro _ _
  show decode (packWord 0xD2 [(d.code, 16), (a.code, 8), (b.code, 0)]) = _
  obtain ⟨e28, e24, e0, e1, e2⟩ := fields_16_8_8_8_0_8_imm 0xD2 d.code_lt a.code_lt b.code_lt
  rw [decode_13 e28, decodeTable, e24]
  simp only [opAt_eq e0, opAt_eq e1, opAt_eq e2]
theorem RoundTrip.tins (d : Opnd) (a : Opnd) (b : Opnd) : RoundTrip.Statement (.tins d a b) := by
  intro _ _
  show decode (packWord 0xD3 [(d.code, 16), (a.code, 8), (b.code, 0)]) = _
  obtain ⟨e28, e24, e0, e1, e2⟩ := fields_16_8_8_8_0_8_imm 0xD3 d.code_lt a.code_lt b.code_lt
  rw [decode_13 e28, decodeTable, e24]
  simp only [opAt_eq e0, opAt_eq e1, opAt_eq e2]
theorem RoundTrip.tdel (d : Opnd) (a : Opnd) (b : Opnd) : RoundTrip.Statement (.tdel d a b) := by
  intro _ _
  show decode (packWord 0xD4 [(d.code, 16), (a.code, 8), (b.code, 0)]) = _
  obtain ⟨e28, e24, e0, e1, e2⟩ := fields_16_8_8_8_0_8_imm 0xD4 d.code_lt a.code_lt b.code_lt
  rw [decode_13 e28, decodeTable, e24]
  simp only [opAt_eq e0, opAt_eq e1, opAt_eq e2]
theorem RoundTrip.rehash (d : Opnd) (a : Opnd) (b : Opnd) : RoundTrip.Statement (.rehash d a b) := by
  intro _ _
  show decode (packWord 0xD5 [(d.code, 16), (a.code, 8), (b.code, 0)]) = _
  obtain ⟨e28, e24, e0, e1, e2⟩ := fields_16_8_8_8_0_8_imm 0xD5 d.code_lt a.code_lt b.code_lt
  rw [decode_13 e28, decodeTable, e24]
  simp only [opAt_eq e0, opAt_eq e1, opAt_eq e2]
theorem RoundTrip.rmul (d : Opnd) (a : Opnd) (b : Opnd) : RoundTrip.Statement (.rmul d a b) := by
  intro _ _
  show decode (packWord 0xD6 [(d.code, 16), (a.code, 8), (b.code, 0)]) = _
  obtain ⟨e28, e24, e0, e1, e2⟩ := fields_16_8_8_8_0_8_imm 0xD6 d.code_lt a.code_lt b.code_lt
  rw [decode_13 e28, decodeTable, e24]
  simp only [opAt_eq e0, opAt_eq e1, opAt_eq e2]
theorem RoundTrip.tstat (d : Opnd) (s : Fin 16) (n : Fin 4) : RoundTrip.Statement (.tstat d s n) := by
  intro _ _
  show decode (packWord 0xD7 [(d.code, 16), (s.val, 4), (n.val, 0)]) = _
  obtain ⟨e28, e24, e0, e1, e2, c0, c1⟩ := fields_16_8_4_4_0_z_0_8_8_0 0xD7 d.code_lt s.isLt n.isLt
  rw [decode_13 e28, decodeTable, e24]
  simp only [c0, c1, and_self, if_true, opAt_eq e0, finAt_eq e1, finAt_eq e2]
theorem RoundTrip.mbxget (d : Opnd) : RoundTrip.Statement (.mbxget d) := by
  intro _ _
  show decode (packWord 0xE0 [(d.code, 16)]) = _
  obtain ⟨e28, e24, e0, c0⟩ := fields_16_8_z_16_0 0xE0 d.code_lt
  rw [decode_14 e28, decodeSupervisor, e24]
  simp only [c0, if_true, opAt_eq e0]
theorem RoundTrip.mbxput (d : Opnd) (a : Opnd) (b : Opnd) : RoundTrip.Statement (.mbxput d a b) := by
  intro _ _
  show decode (packWord 0xE1 [(d.code, 16), (a.code, 8), (b.code, 0)]) = _
  obtain ⟨e28, e24, e0, e1, e2⟩ := fields_16_8_8_8_0_8_imm 0xE1 d.code_lt a.code_lt b.code_lt
  rw [decode_14 e28, decodeSupervisor, e24]
  simp only [opAt_eq e0, opAt_eq e1, opAt_eq e2]
theorem RoundTrip.tlbi (d : Opnd) (a : Opnd) (k : Fin 8) : RoundTrip.Statement (.tlbi d a k) := by
  intro _ _
  show decode (packWord 0xE2 [(d.code, 16), (a.code, 8), (k.val, 0)]) = _
  obtain ⟨e28, e24, e0, e1, e2, c0⟩ := fields_16_8_8_8_0_3_z_3_5_0 0xE2 d.code_lt a.code_lt k.isLt
  rw [decode_14 e28, decodeSupervisor, e24]
  simp only [c0, if_true, opAt_eq e0, opAt_eq e1, finAt_eq e2]
theorem RoundTrip.ctxld (d : Opnd) (a : Opnd) (b : Opnd) : RoundTrip.Statement (.ctxld d a b) := by
  intro _ _
  show decode (packWord 0xE3 [(d.code, 16), (a.code, 8), (b.code, 0)]) = _
  obtain ⟨e28, e24, e0, e1, e2⟩ := fields_16_8_8_8_0_8_imm 0xE3 d.code_lt a.code_lt b.code_lt
  rw [decode_14 e28, decodeSupervisor, e24]
  simp only [opAt_eq e0, opAt_eq e1, opAt_eq e2]
theorem RoundTrip.ctxst (d : Opnd) (a : Opnd) (b : Opnd) : RoundTrip.Statement (.ctxst d a b) := by
  intro _ _
  show decode (packWord 0xE4 [(d.code, 16), (a.code, 8), (b.code, 0)]) = _
  obtain ⟨e28, e24, e0, e1, e2⟩ := fields_16_8_8_8_0_8_imm 0xE4 d.code_lt a.code_lt b.code_lt
  rw [decode_14 e28, decodeSupervisor, e24]
  simp only [opAt_eq e0, opAt_eq e1, opAt_eq e2]
theorem RoundTrip.pmset (d : Opnd) (a : Opnd) (s : Bool) : RoundTrip.Statement (.pmset d a s) := by
  intro _ _
  show decode (packWord 0xE5 [(d.code, 16), (a.code, 8), (s.toNat, 0)]) = _
  obtain ⟨e28, e24, e0, e1, e2, c0⟩ := fields_16_8_8_8_0_1_z_1_7_0 0xE5 d.code_lt a.code_lt (Bool.toNat_lt s)
  rw [decode_14 e28, decodeSupervisor, e24]
  simp only [c0, if_true, opAt_eq e0, opAt_eq e1, bitAt_eq e2]
theorem RoundTrip.reservedOpcode (w : BitVec 32) : RoundTrip.Statement (.reservedOpcode w) := fun h => nomatch h
theorem RoundTrip.bundleFetch (unit : Nat) (path : Nat) : RoundTrip.Statement (.bundleFetch unit path) := fun _ h => (h rfl).elim
theorem RoundTrip.arrival (unit : Nat) (path : Nat) : RoundTrip.Statement (.arrival unit path) := fun _ h => (h rfl).elim
theorem RoundTrip.longLatencyComplete (token : Nat) : RoundTrip.Statement (.longLatencyComplete token) := fun _ h => (h rfl).elim
theorem RoundTrip.exchange (quad : Nat) : RoundTrip.Statement (.exchange quad) := fun _ h => (h rfl).elim
theorem RoundTrip.forcedExchange (quad : Nat) : RoundTrip.Statement (.forcedExchange quad) := fun _ h => (h rfl).elim
theorem RoundTrip.registersDrowsy (unit : Nat) : RoundTrip.Statement (.registersDrowsy unit) := fun _ h => (h rfl).elim
theorem RoundTrip.groupPark (unit : Nat) : RoundTrip.Statement (.groupPark unit) := fun _ h => (h rfl).elim
theorem RoundTrip.sleepWake (unit : Nat) : RoundTrip.Statement (.sleepWake unit) := fun _ h => (h rfl).elim
theorem RoundTrip.userInterruptDelivery (unit : Nat) : RoundTrip.Statement (.userInterruptDelivery unit) := fun _ h => (h rfl).elim
theorem RoundTrip.late (token : Nat) : RoundTrip.Statement (.late token) := fun _ h => (h rfl).elim
theorem RoundTrip.engineOpComplete (token : Nat) : RoundTrip.Statement (.engineOpComplete token) := fun _ h => (h rfl).elim
theorem RoundTrip.matrixStepEnd (quad : Nat) : RoundTrip.Statement (.matrixStepEnd quad) := fun _ h => (h rfl).elim
theorem RoundTrip.rampupEnd (quad : Nat) : RoundTrip.Statement (.rampupEnd quad) := fun _ h => (h rfl).elim
theorem RoundTrip.rampdownEnd (quad : Nat) : RoundTrip.Statement (.rampdownEnd quad) := fun _ h => (h rfl).elim
theorem RoundTrip.heldTimeout (quad : Nat) : RoundTrip.Statement (.heldTimeout quad) := fun _ h => (h rfl).elim
theorem RoundTrip.hintEffect (unit : Nat) (count : Nat) : RoundTrip.Statement (.hintEffect unit count) := fun _ h => (h rfl).elim
theorem RoundTrip.gangStepAccept (core : Nat) : RoundTrip.Statement (.gangStepAccept core) := fun _ h => (h rfl).elim
theorem RoundTrip.macroStep (token : Nat) : RoundTrip.Statement (.macroStep token) := fun _ h => (h rfl).elim
theorem RoundTrip.queueRequestServe (queue : Nat) : RoundTrip.Statement (.queueRequestServe queue) := fun _ h => (h rfl).elim
theorem RoundTrip.queueAnswer (token : Nat) : RoundTrip.Statement (.queueAnswer token) := fun _ h => (h rfl).elim
theorem RoundTrip.tableUpdateStep (token : Nat) : RoundTrip.Statement (.tableUpdateStep token) := fun _ h => (h rfl).elim
theorem RoundTrip.bucketCacheDrop (desc : Nat) : RoundTrip.Statement (.bucketCacheDrop desc) := fun _ h => (h rfl).elim
theorem RoundTrip.gracePeriodComplete (part : Nat) : RoundTrip.Statement (.gracePeriodComplete part) := fun _ h => (h rfl).elim
theorem RoundTrip.releaseRingAppend (part : Nat) : RoundTrip.Statement (.releaseRingAppend part) := fun _ h => (h rfl).elim
theorem RoundTrip.consumerReread (part : Nat) : RoundTrip.Statement (.consumerReread part) := fun _ h => (h rfl).elim
theorem RoundTrip.recordFiled (token : Nat) : RoundTrip.Statement (.recordFiled token) := fun _ h => (h rfl).elim
theorem RoundTrip.collectionWindow (part : Nat) (folio : Nat) : RoundTrip.Statement (.collectionWindow part folio) := fun _ h => (h rfl).elim
theorem RoundTrip.handlerPlacement (part : Nat) (folio : Nat) : RoundTrip.Statement (.handlerPlacement part folio) := fun _ h => (h rfl).elim
theorem RoundTrip.laneResumed (token : Nat) : RoundTrip.Statement (.laneResumed token) := fun _ h => (h rfl).elim
theorem RoundTrip.rejoinLimit (unit : Nat) : RoundTrip.Statement (.rejoinLimit unit) := fun _ h => (h rfl).elim
theorem RoundTrip.softerr (unit : Nat) (location : BitVec 64) : RoundTrip.Statement (.softerr unit location) := fun _ h => (h rfl).elim
theorem RoundTrip.curatorReload (core : Nat) : RoundTrip.Statement (.curatorReload core) := fun _ h => (h rfl).elim
theorem RoundTrip.launchCheck (kernel : Nat) : RoundTrip.Statement (.launchCheck kernel) := fun _ h => (h rfl).elim
theorem RoundTrip.blockPlacement (kernel : Nat) : RoundTrip.Statement (.blockPlacement kernel) := fun _ h => (h rfl).elim
theorem RoundTrip.kernelRetire (kernel : Nat) : RoundTrip.Statement (.kernelRetire kernel) := fun _ h => (h rfl).elim
theorem RoundTrip.contextSaveComplete (ctx : Nat) : RoundTrip.Statement (.contextSaveComplete ctx) := fun _ h => (h rfl).elim
theorem RoundTrip.sealCtx (token : Nat) : RoundTrip.Statement (.sealCtx token) := fun _ h => (h rfl).elim
theorem RoundTrip.checkpoint (token : Nat) : RoundTrip.Statement (.checkpoint token) := fun _ h => (h rfl).elim
theorem RoundTrip.migrate (token : Nat) : RoundTrip.Statement (.migrate token) := fun _ h => (h rfl).elim
theorem RoundTrip.restore (token : Nat) : RoundTrip.Statement (.restore token) := fun _ h => (h rfl).elim
theorem RoundTrip.importCtx (token : Nat) : RoundTrip.Statement (.importCtx token) := fun _ h => (h rfl).elim
theorem RoundTrip.contextOpComplete (token : Nat) : RoundTrip.Statement (.contextOpComplete token) := fun _ h => (h rfl).elim
theorem RoundTrip.invalidationTimeout (token : Nat) : RoundTrip.Statement (.invalidationTimeout token) := fun _ h => (h rfl).elim
theorem RoundTrip.invalidationAck (token : Nat) : RoundTrip.Statement (.invalidationAck token) := fun _ h => (h rfl).elim
theorem RoundTrip.predictorQuiet (core : Nat) (line : Nat) : RoundTrip.Statement (.predictorQuiet core line) := fun _ h => (h rfl).elim
theorem RoundTrip.create (pkt : Nat) (ctx : BitVec 32) (region : BitVec 16) (wld : BitVec 8) : RoundTrip.Statement (.create pkt ctx region wld) := fun _ h => (h rfl).elim
theorem RoundTrip.destroy (pkt : Nat) (ctx : BitVec 32) : RoundTrip.Statement (.destroy pkt ctx) := fun _ h => (h rfl).elim
theorem RoundTrip.launch (pkt : Nat) (ctx : BitVec 32) (record : BitVec 64) : RoundTrip.Statement (.launch pkt ctx record) := fun _ h => (h rfl).elim
theorem RoundTrip.killRequest (pkt : Nat) (ctx : BitVec 32) (record : BitVec 64) : RoundTrip.Statement (.killRequest pkt ctx record) := fun _ h => (h rfl).elim
theorem RoundTrip.preempt (pkt : Nat) (ctx : BitVec 32) : RoundTrip.Statement (.preempt pkt ctx) := fun _ h => (h rfl).elim
theorem RoundTrip.resume (pkt : Nat) (ctx : BitVec 32) : RoundTrip.Statement (.resume pkt ctx) := fun _ h => (h rfl).elim
theorem RoundTrip.regionSync (pkt : Nat) (ctx : BitVec 32) : RoundTrip.Statement (.regionSync pkt ctx) := fun _ h => (h rfl).elim
theorem RoundTrip.inval (pkt : Nat) (ctx : BitVec 32) (kind : BitVec 8) (addr : BitVec 64) (id : BitVec 32) : RoundTrip.Statement (.inval pkt ctx kind addr id) := fun _ h => (h rfl).elim
theorem RoundTrip.qgrant (pkt : Nat) (ctx : BitVec 32) (queue : BitVec 16) (rights : BitVec 8) (log2 : BitVec 8) (ring : BitVec 64) : RoundTrip.Statement (.qgrant pkt ctx queue rights log2 ring) := fun _ h => (h rfl).elim
theorem RoundTrip.qrevoke (pkt : Nat) (ctx : BitVec 32) (queue : BitVec 16) : RoundTrip.Statement (.qrevoke pkt ctx queue) := fun _ h => (h rfl).elim
theorem RoundTrip.svcNop (core : Nat) (entry : Nat) : RoundTrip.Statement (.svcNop core entry) := fun _ h => (h rfl).elim
theorem RoundTrip.svcLaunch (core : Nat) (entry : Nat) : RoundTrip.Statement (.svcLaunch core entry) := fun _ h => (h rfl).elim
theorem RoundTrip.svcKill (core : Nat) (entry : Nat) : RoundTrip.Statement (.svcKill core entry) := fun _ h => (h rfl).elim
theorem RoundTrip.yieldctx (core : Nat) (entry : Nat) : RoundTrip.Statement (.yieldctx core entry) := fun _ h => (h rfl).elim
theorem RoundTrip.fwver (core : Nat) (entry : Nat) : RoundTrip.Statement (.fwver core entry) := fun _ h => (h rfl).elim
theorem RoundTrip.powerStateExit (elapsed : Nat) : RoundTrip.Statement (.powerStateExit elapsed) := fun _ h => (h rfl).elim
theorem RoundTrip.zeroingComplete (bank : Bool) (unit : Nat) : RoundTrip.Statement (.zeroingComplete bank unit) := fun _ h => (h rfl).elim
theorem RoundTrip.trainingTimeout (port : Nat) : RoundTrip.Statement (.trainingTimeout port) := fun _ h => (h rfl).elim
theorem RoundTrip.ackTimeout (port : Nat) : RoundTrip.Statement (.ackTimeout port) := fun _ h => (h rfl).elim
theorem RoundTrip.replayLimit (port : Nat) : RoundTrip.Statement (.replayLimit port) := fun _ h => (h rfl).elim
theorem RoundTrip.retrainTimeout (port : Nat) : RoundTrip.Statement (.retrainTimeout port) := fun _ h => (h rfl).elim
theorem RoundTrip.accessPerformed (token : Nat) : RoundTrip.Statement (.accessPerformed token) := fun _ h => (h rfl).elim
theorem RoundTrip.homeUnitAnswer (token : Nat) : RoundTrip.Statement (.homeUnitAnswer token) := fun _ h => (h rfl).elim
theorem RoundTrip.originQuadrantAnswer (token : Nat) : RoundTrip.Statement (.originQuadrantAnswer token) := fun _ h => (h rfl).elim
theorem RoundTrip.requestRecordChecked (token : Nat) : RoundTrip.Statement (.requestRecordChecked token) := fun _ h => (h rfl).elim
theorem RoundTrip.codeInvalidationDone (token : Nat) : RoundTrip.Statement (.codeInvalidationDone token) := fun _ h => (h rfl).elim
theorem RoundTrip.badpkt (pkt : Nat) : RoundTrip.Statement (.badpkt pkt) := fun _ h => (h rfl).elim
theorem RoundTrip.pageWalkComplete (unit : Nat) (va : BitVec 64) (kind : Fin 4) : RoundTrip.Statement (.pageWalkComplete unit va kind) := fun _ h => (h rfl).elim
theorem RoundTrip.ringReadError (qi : Nat) : RoundTrip.Statement (.ringReadError qi) := fun _ h => (h rfl).elim
theorem RoundTrip.curatorImageHandoff (addr : BitVec 64) : RoundTrip.Statement (.curatorImageHandoff addr) := fun _ h => (h rfl).elim
theorem RoundTrip.softErrorCorrected (kind : Nat) (unit : Nat) (addr : BitVec 64) : RoundTrip.Statement (.softErrorCorrected kind unit addr) := fun _ h => (h rfl).elim
theorem RoundTrip.uncorrectableShared (kind : Nat) (unit : Nat) (addr : BitVec 64) (parts : List Nat) : RoundTrip.Statement (.uncorrectableShared kind unit addr parts) := fun _ h => (h rfl).elim
theorem RoundTrip.qiEnable (qi : Nat) (ctl : BitVec 64) : RoundTrip.Statement (.qiEnable qi ctl) := fun _ h => (h rfl).elim
theorem RoundTrip.qiDisable (qi : Nat) : RoundTrip.Statement (.qiDisable qi) := fun _ h => (h rfl).elim
theorem RoundTrip.notify (func : Nat) (page : Nat) (offset : Nat) (size : Nat) (value : BitVec 64) : RoundTrip.Statement (.notify func page offset size value) := fun _ h => (h rfl).elim
theorem RoundTrip.pasidRevoke (value : BitVec 32) : RoundTrip.Statement (.pasidRevoke value) := fun _ h => (h rfl).elim
theorem RoundTrip.tdispError (func : Nat) : RoundTrip.Statement (.tdispError func) := fun _ h => (h rfl).elim
theorem RoundTrip.latencyToleranceWrite (value : BitVec 32) : RoundTrip.Statement (.latencyToleranceWrite value) := fun _ h => (h rfl).elim
theorem RoundTrip.readbackRead (agent : Nat) : RoundTrip.Statement (.readbackRead agent) := fun _ h => (h rfl).elim
theorem RoundTrip.readbackWrite (agent : Nat) (value : BitVec 64) : RoundTrip.Statement (.readbackWrite agent value) := fun _ h => (h rfl).elim
theorem RoundTrip.debugStopArm (ctx : Nat) (arm : Bool) : RoundTrip.Statement (.debugStopArm ctx arm) := fun _ h => (h rfl).elim
theorem RoundTrip.debugRelease (ctx : Nat) : RoundTrip.Statement (.debugRelease ctx) := fun _ h => (h rfl).elim
theorem RoundTrip.deviceNumberWrite (value : BitVec 16) : RoundTrip.Statement (.deviceNumberWrite value) := fun _ h => (h rfl).elim
theorem RoundTrip.assignmentWordWrite (bank : Bool) (unit : Nat) (value : BitVec 32) : RoundTrip.Statement (.assignmentWordWrite bank unit value) := fun _ h => (h rfl).elim
theorem RoundTrip.registerWrite (agent : Nat) (offset : Nat) (value : BitVec 64) : RoundTrip.Statement (.registerWrite agent offset value) := fun _ h => (h rfl).elim
theorem RoundTrip.portEnable (port : Nat) : RoundTrip.Statement (.portEnable port) := fun _ h => (h rfl).elim
theorem RoundTrip.portDisable (port : Nat) : RoundTrip.Statement (.portDisable port) := fun _ h => (h rfl).elim
theorem RoundTrip.lanesTrained (port : Nat) (lanes : Nat) : RoundTrip.Statement (.lanesTrained port lanes) := fun _ h => (h rfl).elim
theorem RoundTrip.flitReceived (port : Nat) (header : BitVec 64) (crc : BitVec 64) (payload : List (BitVec 8)) : RoundTrip.Statement (.flitReceived port header crc payload) := fun _ h => (h rfl).elim
theorem RoundTrip.peerRequestServe (device : Nat) (kind : Nat) (addr : BitVec 64) (size : Nat) (data : BitVec 1024) : RoundTrip.Statement (.peerRequestServe device kind addr size data) := fun _ h => (h rfl).elim
theorem RoundTrip.getMeasurements (index : Nat) : RoundTrip.Statement (.getMeasurements index) := fun _ h => (h rfl).elim
theorem RoundTrip.challenge (nonce : BitVec 256) : RoundTrip.Statement (.challenge nonce) := fun _ h => (h rfl).elim
theorem RoundTrip.keyExchange (peer : Nat) : RoundTrip.Statement (.keyExchange peer) := fun _ h => (h rfl).elim
theorem RoundTrip.tdispStateChange (func : Nat) (st : Nat) : RoundTrip.Statement (.tdispStateChange func st) := fun _ h => (h rfl).elim
theorem RoundTrip.routeTableWrite (inbound : Bool) (device : Nat) (value : BitVec 64) : RoundTrip.Statement (.routeTableWrite inbound device value) := fun _ h => (h rfl).elim
theorem RoundTrip.msixVectorUnmask (func : Nat) (index : Nat) : RoundTrip.Statement (.msixVectorUnmask func index) := fun _ h => (h rfl).elim
theorem RoundTrip.tokenRefill : RoundTrip.Statement .tokenRefill := fun _ h => (h rfl).elim
theorem RoundTrip.powerStateEntry : RoundTrip.Statement .powerStateEntry := fun _ h => (h rfl).elim
theorem RoundTrip.powerRemoval : RoundTrip.Statement .powerRemoval := fun _ h => (h rfl).elim
theorem RoundTrip.deviceReset : RoundTrip.Statement .deviceReset := fun _ h => (h rfl).elim
theorem RoundTrip.powerOn : RoundTrip.Statement .powerOn := fun _ h => (h rfl).elim
theorem RoundTrip.nop : RoundTrip.Statement .nop := fun _ _ => rfl
theorem RoundTrip.ret : RoundTrip.Statement .ret := by
  intro _ _
  show decode (packWord 0x06 []) = _
  obtain ⟨e28, e24, c0⟩ := fields_bare_z_24_0 0x06
  rw [decode_0 e28, decodeControl, e24]
  simp only [c0, if_true]
theorem RoundTrip.regang : RoundTrip.Statement .regang := by
  intro _ _
  show decode (packWord 0x09 []) = _
  obtain ⟨e28, e24, c0⟩ := fields_bare_z_24_0 0x09
  rw [decode_0 e28, decodeControl, e24]
  simp only [c0, if_true]
theorem RoundTrip.exit : RoundTrip.Statement .exit := by
  intro _ _
  show decode (packWord 0x0A []) = _
  obtain ⟨e28, e24, c0⟩ := fields_bare_z_24_0 0x0A
  rw [decode_0 e28, decodeControl, e24]
  simp only [c0, if_true]
theorem RoundTrip.yield : RoundTrip.Statement .yield := by
  intro _ _
  show decode (packWord 0x0B []) = _
  obtain ⟨e28, e24, c0⟩ := fields_bare_z_24_0 0x0B
  rw [decode_0 e28, decodeControl, e24]
  simp only [c0, if_true]
theorem RoundTrip.brkpt : RoundTrip.Statement .brkpt := by
  intro _ _
  show decode (packWord 0x0F []) = _
  obtain ⟨e28, e24, c0⟩ := fields_bare_z_24_0 0x0F
  rw [decode_0 e28, decodeControl, e24]
  simp only [c0, if_true]
theorem RoundTrip.uiret : RoundTrip.Statement .uiret := by
  intro _ _
  show decode (packWord 0x13 []) = _
  obtain ⟨e28, e24, c0⟩ := fields_bare_z_24_0 0x13
  rw [decode_1 e28, decodeControl, e24]
  simp only [c0, if_true]
theorem RoundTrip.hkill : RoundTrip.Statement .hkill := by
  intro _ _
  show decode (packWord 0x15 []) = _
  obtain ⟨e28, e24, c0⟩ := fields_bare_z_24_0 0x15
  rw [decode_1 e28, decodeControl, e24]
  simp only [c0, if_true]
theorem RoundTrip.fence : RoundTrip.Statement .fence := by
  intro _ _
  show decode (packWord 0x89 []) = _
  obtain ⟨e28, e24, c0⟩ := fields_bare_z_24_0 0x89
  rw [decode_8 e28, decodeMemory, e24]
  simp only [c0, if_true]
theorem RoundTrip.rsb : RoundTrip.Statement .rsb := by
  intro _ _
  show decode (packWord 0xB4 []) = _
  obtain ⟨e28, e24, c0⟩ := fields_bare_z_24_0 0xB4
  rw [decode_11 e28, decodeSync, e24]
  simp only [c0, if_true]
theorem RoundTrip.rse : RoundTrip.Statement .rse := by
  intro _ _
  show decode (packWord 0xB5 []) = _
  obtain ⟨e28, e24, c0⟩ := fields_bare_z_24_0 0xB5
  rw [decode_11 e28, decodeSync, e24]
  simp only [c0, if_true]
theorem RoundTrip.tfence : RoundTrip.Statement .tfence := by
  intro _ _
  show decode (packWord 0xD8 []) = _
  obtain ⟨e28, e24, c0⟩ := fields_bare_z_24_0 0xD8
  rw [decode_13 e28, decodeTable, e24]
  simp only [c0, if_true]

end Sys2Proof.Laws
end

