-- ==== Sys2Proof/Tests/Slice0.lean ====
section
/-!
SUPPORT. Slice0.lean: the model's own tests, each with the source of its expected result, and for each statement states and
operands that meet its hypotheses.
-/
namespace Sys2Proof.Tests

open Sys2Proof.Machine Sys2Proof.Safety

set_option Elab.async false

/-! ### Well-formedness

One ill-formed term for each condition of an entry, beside a well-formed one (R24, R25, and the entries' operand tables). -/

/-- Each first term is well formed, and none of those beside it. -/
def refuses (l : List (Instr × List Instr)) : Bool := l.all fun x => x.1.wf && x.2.all fun i => !i.wf

theorem test_wf_control : refuses [
    (.brx (.greg 3), [.brx .lit]),
    (.callx (.greg 3) (.greg 3), [.callx (.age 0) (.greg 3), .callx (.sreg 2) (.greg 3), .callx (.greg 3) .lit]),
    (.retx (.greg 3), [.retx .lit]),
    (.mode .lit, [.mode (.greg 3)]),
    (.modef .lit 0x1, [.modef (.greg 3) 0x1, .modef .lit 12]),
    (.trap (.greg 3) (.greg 3) 0x1, [.trap (.sreg 2) (.greg 3) 0x1, .trap (.greg 3) .none 0x1]),
    (.sleep .lit, [.sleep (.greg 3)]),
    (.svc (.sreg 2) (.sreg 2) 0x1, [.svc (.greg 3) (.sreg 2) 0x1, .svc (.sreg 2) (.sreg 3) 0x1, .svc (.sreg 2) (.sreg 28) 0x1, .svc (.sreg 2) (.sreg 2) 0x3F]),
    (.uintr (.sreg 2) .lit .lit, [.uintr (.greg 3) .lit .lit, .uintr (.sreg 2) (.greg 3) .lit, .uintr (.sreg 2) .lit (.greg 3)]),
    (.hret (.sreg 2), [.hret (.age 0)]),
    (.xrd (.greg 3) (.greg 3) .lit, [.xrd (.sreg 2) (.greg 3) .lit, .xrd (.greg 3) (.age 0) .lit, .xrd (.greg 3) (.greg 3) (.age 0)]),
    (.xwr (.greg 3) (.greg 3), [.xwr (.age 0) (.greg 3), .xwr (.greg 3) .none]),
    (.rdsr (.greg 3) 0x1, [.rdsr (.age 0) 0x1]),
    (.wrsr .lit 0x1, [.wrsr (.greg 3) 0x1])] = true := by decide +kernel

theorem test_wf_integer : refuses [
    (.iadd (.greg 3) (.greg 3) (.greg 3), [.iadd (.age 0) (.greg 3) (.greg 3), .iadd (.greg 3) .none (.greg 3), .iadd (.greg 3) (.greg 3) .none, .iadd (.sreg 2) (.greg 3) .lit, .iadd (.sreg 2) .lit (.greg 3)]),
    (.isub (.greg 3) (.greg 3) (.greg 3), [.isub (.age 0) (.greg 3) (.greg 3), .isub (.greg 3) .none (.greg 3), .isub (.greg 3) (.greg 3) .none, .isub (.sreg 2) (.greg 3) .lit, .isub (.sreg 2) .lit (.greg 3)]),
    (.imul (.greg 3) (.greg 3) (.greg 3), [.imul (.age 0) (.greg 3) (.greg 3), .imul (.greg 3) .none (.greg 3), .imul (.greg 3) (.greg 3) .none, .imul (.sreg 2) (.greg 3) .lit, .imul (.sreg 2) .lit (.greg 3)]),
    (.imulh (.greg 3) (.greg 3) (.greg 3), [.imulh (.age 0) (.greg 3) (.greg 3), .imulh (.greg 3) .none (.greg 3), .imulh (.greg 3) (.greg 3) .none, .imulh (.sreg 2) (.greg 3) .lit, .imulh (.sreg 2) .lit (.greg 3)]),
    (.imad (.greg 3) (.greg 3) (.greg 3), [.imad (.age 0) (.greg 3) (.greg 3), .imad (.greg 3) .none (.greg 3), .imad (.greg 3) (.greg 3) .none, .imad (.sreg 2) (.greg 3) .lit, .imad (.sreg 2) .lit (.greg 3)]),
    (.idiv (.greg 3) (.greg 3) (.greg 3), [.idiv (.age 0) (.greg 3) (.greg 3), .idiv (.greg 3) .none (.greg 3), .idiv (.greg 3) (.greg 3) .none, .idiv (.sreg 2) (.greg 3) .lit, .idiv (.sreg 2) .lit (.greg 3)]),
    (.irem (.greg 3) (.greg 3) (.greg 3), [.irem (.age 0) (.greg 3) (.greg 3), .irem (.greg 3) .none (.greg 3), .irem (.greg 3) (.greg 3) .none, .irem (.sreg 2) (.greg 3) .lit, .irem (.sreg 2) .lit (.greg 3)]),
    (.imin (.greg 3) (.greg 3) (.greg 3), [.imin (.age 0) (.greg 3) (.greg 3), .imin (.greg 3) .none (.greg 3), .imin (.greg 3) (.greg 3) .none, .imin (.sreg 2) (.greg 3) .lit, .imin (.sreg 2) .lit (.greg 3)]),
    (.imax (.greg 3) (.greg 3) (.greg 3), [.imax (.age 0) (.greg 3) (.greg 3), .imax (.greg 3) .none (.greg 3), .imax (.greg 3) (.greg 3) .none, .imax (.sreg 2) (.greg 3) .lit, .imax (.sreg 2) .lit (.greg 3)]),
    (.iabs (.greg 3) (.greg 3), [.iabs (.age 0) (.greg 3), .iabs (.greg 3) .none, .iabs (.sreg 2) (.greg 3)]),
    (.ineg (.greg 3) (.greg 3), [.ineg (.age 0) (.greg 3), .ineg (.greg 3) .none, .ineg (.sreg 2) (.greg 3)]),
    (.icmp .lt 0 (.greg 3) (.greg 3), [.icmp .ord 0 (.greg 3) (.greg 3), .icmp .one 0 (.greg 3) (.greg 3), .icmp .lt 0 .none (.greg 3), .icmp .lt 0 (.greg 3) .none]),
    (.lea (.greg 3) (.greg 3) (.greg 3), [.lea (.age 0) (.greg 3) (.greg 3), .lea (.greg 3) .none (.greg 3), .lea (.greg 3) (.greg 3) .none, .lea (.sreg 2) (.greg 3) .lit, .lea (.sreg 2) .lit (.greg 3)]),
    (.imulw (.greg 3) (.greg 3) (.greg 3), [.imulw (.age 0) (.greg 3) (.greg 3), .imulw (.greg 3) .none (.greg 3), .imulw (.greg 3) (.greg 3) .none, .imulw (.sreg 2) (.greg 3) .lit, .imulw (.sreg 2) .lit (.greg 3)])] = true := by decide +kernel

theorem test_wf_logic : refuses [
    (.and (.greg 3) (.greg 3) (.greg 3), [.and (.age 0) (.greg 3) (.greg 3), .and (.greg 3) .none (.greg 3), .and (.greg 3) (.greg 3) .none, .and (.sreg 2) (.greg 3) .lit, .and (.sreg 2) .lit (.greg 3)]),
    (.or (.greg 3) (.greg 3) (.greg 3), [.or (.age 0) (.greg 3) (.greg 3), .or (.greg 3) .none (.greg 3), .or (.greg 3) (.greg 3) .none, .or (.sreg 2) (.greg 3) .lit, .or (.sreg 2) .lit (.greg 3)]),
    (.xor (.greg 3) (.greg 3) (.greg 3), [.xor (.age 0) (.greg 3) (.greg 3), .xor (.greg 3) .none (.greg 3), .xor (.greg 3) (.greg 3) .none, .xor (.sreg 2) (.greg 3) .lit, .xor (.sreg 2) .lit (.greg 3)]),
    (.andn (.greg 3) (.greg 3) (.greg 3), [.andn (.age 0) (.greg 3) (.greg 3), .andn (.greg 3) .none (.greg 3), .andn (.greg 3) (.greg 3) .none, .andn (.sreg 2) (.greg 3) .lit, .andn (.sreg 2) .lit (.greg 3)]),
    (.not (.greg 3) (.greg 3), [.not (.age 0) (.greg 3), .not (.greg 3) .none, .not (.sreg 2) (.greg 3)]),
    (.shl (.greg 3) (.greg 3) (.greg 3), [.shl (.age 0) (.greg 3) (.greg 3), .shl (.greg 3) .none (.greg 3), .shl (.greg 3) (.greg 3) .none, .shl (.sreg 2) (.greg 3) .lit, .shl (.sreg 2) .lit (.greg 3)]),
    (.shr (.greg 3) (.greg 3) (.greg 3), [.shr (.age 0) (.greg 3) (.greg 3), .shr (.greg 3) .none (.greg 3), .shr (.greg 3) (.greg 3) .none, .shr (.sreg 2) (.greg 3) .lit, .shr (.sreg 2) .lit (.greg 3)]),
    (.sar (.greg 3) (.greg 3) (.greg 3), [.sar (.age 0) (.greg 3) (.greg 3), .sar (.greg 3) .none (.greg 3), .sar (.greg 3) (.greg 3) .none, .sar (.sreg 2) (.greg 3) .lit, .sar (.sreg 2) .lit (.greg 3)]),
    (.rotl (.greg 3) (.greg 3) (.greg 3), [.rotl (.age 0) (.greg 3) (.greg 3), .rotl (.greg 3) .none (.greg 3), .rotl (.greg 3) (.greg 3) .none, .rotl (.sreg 2) (.greg 3) .lit, .rotl (.sreg 2) .lit (.greg 3)]),
    (.popc (.greg 3) (.greg 3), [.popc (.age 0) (.greg 3), .popc (.greg 3) .none, .popc (.sreg 2) (.greg 3)]),
    (.clz (.greg 3) (.greg 3), [.clz (.age 0) (.greg 3), .clz (.greg 3) .none, .clz (.sreg 2) (.greg 3)]),
    (.ctz (.greg 3) (.greg 3), [.ctz (.age 0) (.greg 3), .ctz (.greg 3) .none, .ctz (.sreg 2) (.greg 3)]),
    (.brev (.greg 3) (.greg 3), [.brev (.age 0) (.greg 3), .brev (.greg 3) .none, .brev (.sreg 2) (.greg 3)]),
    (.bfx (.greg 3) (.greg 3) (.greg 3), [.bfx (.age 0) (.greg 3) (.greg 3), .bfx (.greg 3) .none (.greg 3), .bfx (.greg 3) (.greg 3) .none, .bfx (.sreg 2) (.greg 3) .lit, .bfx (.sreg 2) .lit (.greg 3)]),
    (.bfi (.greg 3) (.greg 3) (.greg 3), [.bfi (.age 0) (.greg 3) (.greg 3), .bfi (.greg 3) .none (.greg 3), .bfi (.greg 3) (.greg 3) .none, .bfi (.sreg 2) (.greg 3) .lit, .bfi (.sreg 2) .lit (.greg 3)]),
    (.sel (.greg 3) (.greg 3) (.greg 3), [.sel (.age 0) (.greg 3) (.greg 3), .sel (.greg 3) .none (.greg 3), .sel (.greg 3) (.greg 3) .none, .sel (.sreg 2) (.greg 3) .lit, .sel (.sreg 2) .lit (.greg 3)])] = true := by decide +kernel

theorem test_wf_float : refuses [
    (.fadd (.greg 3) (.greg 3) (.greg 3), [.fadd (.age 0) (.greg 3) (.greg 3), .fadd (.greg 3) .none (.greg 3), .fadd (.greg 3) (.greg 3) .none, .fadd (.sreg 2) (.greg 3) .lit, .fadd (.sreg 2) .lit (.greg 3)]),
    (.fsub (.greg 3) (.greg 3) (.greg 3), [.fsub (.age 0) (.greg 3) (.greg 3), .fsub (.greg 3) .none (.greg 3), .fsub (.greg 3) (.greg 3) .none, .fsub (.sreg 2) (.greg 3) .lit, .fsub (.sreg 2) .lit (.greg 3)]),
    (.fmul (.greg 3) (.greg 3) (.greg 3), [.fmul (.age 0) (.greg 3) (.greg 3), .fmul (.greg 3) .none (.greg 3), .fmul (.greg 3) (.greg 3) .none, .fmul (.sreg 2) (.greg 3) .lit, .fmul (.sreg 2) .lit (.greg 3)]),
    (.ffma (.greg 3) (.greg 3) (.greg 3), [.ffma (.age 0) (.greg 3) (.greg 3), .ffma (.greg 3) .none (.greg 3), .ffma (.greg 3) (.greg 3) .none, .ffma (.sreg 2) (.greg 3) .lit, .ffma (.sreg 2) .lit (.greg 3)]),
    (.ffms (.greg 3) (.greg 3) (.greg 3), [.ffms (.age 0) (.greg 3) (.greg 3), .ffms (.greg 3) .none (.greg 3), .ffms (.greg 3) (.greg 3) .none, .ffms (.sreg 2) (.greg 3) .lit, .ffms (.sreg 2) .lit (.greg 3)]),
    (.fmin (.greg 3) (.greg 3) (.greg 3), [.fmin (.age 0) (.greg 3) (.greg 3), .fmin (.greg 3) .none (.greg 3), .fmin (.greg 3) (.greg 3) .none, .fmin (.sreg 2) (.greg 3) .lit, .fmin (.sreg 2) .lit (.greg 3)]),
    (.fmax (.greg 3) (.greg 3) (.greg 3), [.fmax (.age 0) (.greg 3) (.greg 3), .fmax (.greg 3) .none (.greg 3), .fmax (.greg 3) (.greg 3) .none, .fmax (.sreg 2) (.greg 3) .lit, .fmax (.sreg 2) .lit (.greg 3)]),
    (.fabs (.greg 3) (.greg 3), [.fabs (.age 0) (.greg 3), .fabs (.greg 3) .none, .fabs (.sreg 2) (.greg 3)]),
    (.fneg (.greg 3) (.greg 3), [.fneg (.age 0) (.greg 3), .fneg (.greg 3) .none, .fneg (.sreg 2) (.greg 3)]),
    (.fdiv (.greg 3) (.greg 3) (.greg 3), [.fdiv (.age 0) (.greg 3) (.greg 3), .fdiv (.greg 3) .none (.greg 3), .fdiv (.greg 3) (.greg 3) .none, .fdiv (.sreg 2) (.greg 3) .lit, .fdiv (.sreg 2) .lit (.greg 3)]),
    (.fsqrt (.greg 3) (.greg 3), [.fsqrt (.age 0) (.greg 3), .fsqrt (.greg 3) .none, .fsqrt (.sreg 2) (.greg 3)]),
    (.frcp (.greg 3) (.greg 3), [.frcp (.age 0) (.greg 3), .frcp (.greg 3) .none, .frcp (.sreg 2) (.greg 3)]),
    (.frsq (.greg 3) (.greg 3), [.frsq (.age 0) (.greg 3), .frsq (.greg 3) .none, .frsq (.sreg 2) (.greg 3)]),
    (.fexp2 (.greg 3) (.greg 3), [.fexp2 (.age 0) (.greg 3), .fexp2 (.greg 3) .none, .fexp2 (.sreg 2) (.greg 3)]),
    (.flog2 (.greg 3) (.greg 3), [.flog2 (.age 0) (.greg 3), .flog2 (.greg 3) .none, .flog2 (.sreg 2) (.greg 3)]),
    (.fcmp .lt 0 (.greg 3) (.greg 3), [.fcmp .lt 0 .none (.greg 3), .fcmp .lt 0 (.greg 3) .none]),
    (.fclass (.greg 3) (.greg 3), [.fclass (.age 0) (.greg 3), .fclass (.greg 3) .none, .fclass (.sreg 2) (.greg 3)]),
    (.frnd (.greg 3) (.greg 3) 0x1, [.frnd (.age 0) (.greg 3) 0x1, .frnd (.greg 3) .none 0x1, .frnd (.sreg 2) (.greg 3) 0x1, .frnd (.greg 3) (.greg 3) 6]),
    (.fscale (.greg 3) (.greg 3) (.greg 3), [.fscale (.age 0) (.greg 3) (.greg 3), .fscale (.greg 3) .none (.greg 3), .fscale (.greg 3) (.greg 3) .none, .fscale (.sreg 2) (.greg 3) .lit, .fscale (.sreg 2) .lit (.greg 3)]),
    (.cvt (.greg 3) (.greg 3) 0x1, [.cvt (.age 0) (.greg 3) 0x1, .cvt (.greg 3) .none 0x1, .cvt (.sreg 2) (.greg 3) 0x1, .cvt (.greg 3) (.greg 3) 7, .cvt (.greg 3) (.greg 3) 16]),
    (.cvts (.greg 3) (.greg 3) (.greg 3), [.cvts (.age 0) (.greg 3) (.greg 3), .cvts (.greg 3) .none (.greg 3), .cvts (.greg 3) (.greg 3) .none, .cvts (.sreg 2) (.greg 3) .lit, .cvts (.sreg 2) .lit (.greg 3)]),
    (.ladd (.greg 3) (.greg 3) (.greg 3), [.ladd (.age 0) (.greg 3) (.greg 3), .ladd (.greg 3) .none (.greg 3), .ladd (.greg 3) (.greg 3) .none, .ladd (.sreg 2) (.greg 3) .lit, .ladd (.sreg 2) .lit (.greg 3)]),
    (.lmul (.greg 3) (.greg 3) (.greg 3), [.lmul (.age 0) (.greg 3) (.greg 3), .lmul (.greg 3) .none (.greg 3), .lmul (.greg 3) (.greg 3) .none, .lmul (.sreg 2) (.greg 3) .lit, .lmul (.sreg 2) .lit (.greg 3)]),
    (.fdot2 (.greg 3) (.greg 3) (.greg 3), [.fdot2 (.age 0) (.greg 3) (.greg 3), .fdot2 (.greg 3) .none (.greg 3), .fdot2 (.greg 3) (.greg 3) .none, .fdot2 (.sreg 2) (.greg 3) .lit, .fdot2 (.sreg 2) .lit (.greg 3)])] = true := by decide +kernel

theorem test_wf_lane : refuses [
    (.shfl (.greg 3) (.greg 3) (.greg 3), [.shfl (.sreg 2) (.greg 3) (.greg 3), .shfl (.greg 3) .none (.greg 3), .shfl (.greg 3) (.greg 3) .none]),
    (.shflu (.greg 3) (.greg 3) 0, [.shflu (.sreg 2) (.greg 3) 0, .shflu (.greg 3) .none 0]),
    (.shfld (.greg 3) (.greg 3) 0, [.shfld (.sreg 2) (.greg 3) 0, .shfld (.greg 3) .none 0]),
    (.shflx (.greg 3) (.greg 3) 0, [.shflx (.sreg 2) (.greg 3) 0, .shflx (.greg 3) .none 0]),
    (.vote 0 0 false 0, [.vote 4 0 false 0]),
    (.ballot (.greg 3) false 0, [.ballot (.age 0) false 0]),
    (.matchL (.greg 3) (.greg 3), [.matchL (.sreg 2) (.greg 3), .matchL (.greg 3) .none]),
    (.rdlane (.greg 3) (.greg 3) .lit, [.rdlane (.age 0) (.greg 3) .lit, .rdlane (.greg 3) (.sreg 2) .lit, .rdlane (.greg 3) (.greg 3) (.greg 3)]),
    (.wrlane (.greg 3) .lit .lit, [.wrlane (.sreg 2) .lit .lit, .wrlane (.greg 3) (.greg 3) .lit, .wrlane (.greg 3) .lit (.greg 3)]),
    (.pmov 0 .lit, [.pmov 0 (.greg 3)]),
    (.pset 0 (.greg 3) 0, [.pset 0 .none 0])] = true := by decide +kernel

theorem test_wf_register : refuses [
    (.mov (.greg 3) (.greg 3), [.mov (.age 0) (.greg 3), .mov (.greg 3) .none, .mov (.sreg 2) (.greg 3)]),
    (.movu (.greg 3) (.greg 3), [.movu (.age 0) (.greg 3), .movu (.greg 3) .none, .movu (.sreg 2) (.greg 3)]),
    (.kill (.sreg 2), [.kill (.age 0)]),
    (.sete (.sreg 2), [.sete (.age 0)]),
    (.setf (.sreg 2), [.setf (.age 0)]),
    (.testf (.greg 3) (.greg 3), [.testf (.age 0) (.greg 3), .testf (.greg 3) (.age 0)]),
    (.cinv (.cache 1), [.cinv (.age 0)]),
    (.shape 0 .lit, [.shape 0 (.greg 3)]),
    (.shapeq (.greg 3) 0, [.shapeq (.age 0) 0]),
    (.fslot (.greg 3) 0, [.fslot (.age 0) 0])] = true := by decide +kernel

theorem test_wf_memory : refuses [
    (.ld (.greg 3) (.greg 3) (.greg 3), [.ld (.age 0) (.greg 3) (.greg 3), .ld (.greg 3) .none (.greg 3), .ld (.greg 3) (.greg 3) .none, .ld (.sreg 2) (.greg 3) .lit, .ld (.sreg 2) .lit (.greg 3)]),
    (.st (.greg 3) (.greg 3) (.greg 3), [.st .none (.greg 3) (.greg 3), .st .lit (.greg 3) (.greg 3), .st (.greg 3) .none (.greg 3), .st (.greg 3) (.greg 3) .none]),
    (.ldx (.greg 3) (.greg 3) (.greg 3), [.ldx (.age 0) (.greg 3) (.greg 3), .ldx (.greg 3) .none (.greg 3), .ldx (.greg 3) (.greg 3) .none, .ldx (.sreg 2) (.greg 3) .lit, .ldx (.sreg 2) .lit (.greg 3)]),
    (.stx (.greg 3) (.greg 3) (.greg 3), [.stx .none (.greg 3) (.greg 3), .stx .lit (.greg 3) (.greg 3), .stx (.greg 3) .none (.greg 3), .stx (.greg 3) (.greg 3) .none]),
    (.lda (.greg 3) (.greg 3) (.greg 3), [.lda (.age 0) (.greg 3) (.greg 3), .lda (.greg 3) .none (.greg 3), .lda (.greg 3) (.greg 3) .none, .lda (.sreg 2) (.greg 3) .lit, .lda (.sreg 2) .lit (.greg 3)]),
    (.stl (.greg 3) (.greg 3) (.greg 3), [.stl .none (.greg 3) (.greg 3), .stl .lit (.greg 3) (.greg 3), .stl (.greg 3) .none (.greg 3), .stl (.greg 3) (.greg 3) .none]),
    (.ldp (.greg 3) (.greg 3) (.greg 3), [.ldp (.age 0) (.greg 3) (.greg 3), .ldp (.greg 3) .none (.greg 3), .ldp (.greg 3) (.greg 3) .none, .ldp (.sreg 2) (.greg 3) .lit, .ldp (.sreg 2) .lit (.greg 3)]),
    (.stp (.greg 3) (.greg 3) (.greg 3), [.stp .none (.greg 3) (.greg 3), .stp .lit (.greg 3) (.greg 3), .stp (.greg 3) .none (.greg 3), .stp (.greg 3) (.greg 3) .none]),
    (.ldc (.greg 3) .lit .lit, [.ldc (.age 0) .lit .lit, .ldc (.greg 3) (.greg 3) .lit, .ldc (.greg 3) .lit (.greg 3)]),
    (.pf (.greg 3) (.greg 3), [.pf .none (.greg 3), .pf (.greg 3) .none]),
    (.cctl (.age 0) 0, [.cctl (.greg 3) 1, .cctl .none 2, .cctl (.greg 3) 0, .cctl (.greg 3) 3])] = true := by decide +kernel

theorem test_wf_atomic : refuses [
    (.aadd (.greg 3) (.greg 3) (.greg 3), [.aadd (.age 0) (.greg 3) (.greg 3), .aadd (.greg 3) .none (.greg 3), .aadd (.greg 3) (.greg 3) .none, .aadd (.sreg 2) (.greg 3) .lit, .aadd (.sreg 2) .lit (.greg 3)]),
    (.afadd (.greg 3) (.greg 3) (.greg 3), [.afadd (.age 0) (.greg 3) (.greg 3), .afadd (.greg 3) .none (.greg 3), .afadd (.greg 3) (.greg 3) .none, .afadd (.sreg 2) (.greg 3) .lit, .afadd (.sreg 2) .lit (.greg 3)]),
    (.amin (.greg 3) (.greg 3) (.greg 3), [.amin (.age 0) (.greg 3) (.greg 3), .amin (.greg 3) .none (.greg 3), .amin (.greg 3) (.greg 3) .none, .amin (.sreg 2) (.greg 3) .lit, .amin (.sreg 2) .lit (.greg 3)]),
    (.amax (.greg 3) (.greg 3) (.greg 3), [.amax (.age 0) (.greg 3) (.greg 3), .amax (.greg 3) .none (.greg 3), .amax (.greg 3) (.greg 3) .none, .amax (.sreg 2) (.greg 3) .lit, .amax (.sreg 2) .lit (.greg 3)]),
    (.aand (.greg 3) (.greg 3) (.greg 3), [.aand (.age 0) (.greg 3) (.greg 3), .aand (.greg 3) .none (.greg 3), .aand (.greg 3) (.greg 3) .none, .aand (.sreg 2) (.greg 3) .lit, .aand (.sreg 2) .lit (.greg 3)]),
    (.aor (.greg 3) (.greg 3) (.greg 3), [.aor (.age 0) (.greg 3) (.greg 3), .aor (.greg 3) .none (.greg 3), .aor (.greg 3) (.greg 3) .none, .aor (.sreg 2) (.greg 3) .lit, .aor (.sreg 2) .lit (.greg 3)]),
    (.axor (.greg 3) (.greg 3) (.greg 3), [.axor (.age 0) (.greg 3) (.greg 3), .axor (.greg 3) .none (.greg 3), .axor (.greg 3) (.greg 3) .none, .axor (.sreg 2) (.greg 3) .lit, .axor (.sreg 2) .lit (.greg 3)]),
    (.axch (.greg 3) (.greg 3) (.greg 3), [.axch (.age 0) (.greg 3) (.greg 3), .axch (.greg 3) .none (.greg 3), .axch (.greg 3) (.greg 3) .none, .axch (.sreg 2) (.greg 3) .lit, .axch (.sreg 2) .lit (.greg 3)]),
    (.acas (.greg 3) (.greg 3) (.greg 3), [.acas (.age 0) (.greg 3) (.greg 3), .acas (.greg 3) .none (.greg 3), .acas (.greg 3) (.greg 3) .none, .acas (.sreg 2) (.greg 3) .lit, .acas (.sreg 2) .lit (.greg 3)]),
    (.redadd (.greg 3) (.greg 3), [.redadd .none (.greg 3), .redadd (.greg 3) .none]),
    (.redfadd (.greg 3) (.greg 3), [.redfadd .none (.greg 3), .redfadd (.greg 3) .none]),
    (.redmin (.greg 3) (.greg 3), [.redmin .none (.greg 3), .redmin (.greg 3) .none]),
    (.redmax (.greg 3) (.greg 3), [.redmax .none (.greg 3), .redmax (.greg 3) .none])] = true := by decide +kernel

theorem test_wf_engine : refuses [
    (.cpy (.sreg 2) (.sreg 2) .lit, [.cpy (.greg 3) (.sreg 2) .lit, .cpy (.sreg 2) (.sreg 3) .lit, .cpy (.sreg 2) (.sreg 2) (.greg 3)]),
    (.cpy2 (.sreg 2) .lit .lit, [.cpy2 (.greg 3) .lit .lit, .cpy2 (.sreg 2) (.greg 3) .lit, .cpy2 (.sreg 2) .lit (.greg 3)]),
    (.gthr (.sreg 2) .lit .lit, [.gthr (.greg 3) .lit .lit, .gthr (.sreg 2) (.greg 3) .lit, .gthr (.sreg 2) .lit (.greg 3)]),
    (.sctr (.sreg 2) .lit .lit, [.sctr (.greg 3) .lit .lit, .sctr (.sreg 2) (.greg 3) .lit, .sctr (.sreg 2) .lit (.greg 3)]),
    (.waitc .lit 0, [.waitc (.greg 3) 0, .waitc .lit 5]),
    (.rdcnt (.greg 3) 0, [.rdcnt (.age 0) 0, .rdcnt (.greg 3) 5]),
    (.htest (.greg 3) (.sreg 2), [.htest (.age 0) (.sreg 2), .htest (.greg 3) (.greg 3)]),
    (.hcanc (.sreg 2) (.sreg 2), [.hcanc (.greg 3) (.sreg 2), .hcanc (.sreg 2) (.greg 3)]),
    (.hprom (.greg 3) (.sreg 2), [.hprom (.age 0) (.sreg 2), .hprom (.greg 3) (.greg 3)]),
    (.hstat (.greg 3) (.sreg 2), [.hstat (.age 0) (.sreg 2), .hstat (.greg 3) (.greg 3)]),
    (.coll (.sreg 2) .lit 0 0, [.coll (.greg 3) .lit 0 0, .coll (.sreg 2) (.greg 3) 0 0, .coll (.sreg 2) .lit 0 3, .coll (.sreg 2) .lit 4 0, .coll (.sreg 2) .lit 1 0])] = true := by decide +kernel

theorem test_wf_sync : refuses [
    (.bar .lit 1 0, [.bar (.greg 3) 1 0, .bar .lit 0 4, .bar .lit 2 8, .bar .lit 3 4]),
    (.bara .lit 1 0, [.bara (.greg 3) 1 0, .bara .lit 0 4, .bara .lit 2 8, .bara .lit 3 4]),
    (.barw 1 0, [.barw 0 4, .barw 2 8, .barw 3 4]),
    (.barq (.greg 3) 1 0, [.barq (.age 0) 1 0, .barq (.greg 3) 0 4, .barq (.greg 3) 2 8, .barq (.greg 3) 3 4]),
    (.gpwait .lit, [.gpwait (.greg 3)]),
    (.gpseq (.greg 3), [.gpseq (.age 0)]),
    (.dfree .lit .lit, [.dfree (.greg 3) .lit, .dfree .lit (.greg 3)]),
    (.qpush (.sreg 2) .lit (.greg 3), [.qpush (.greg 3) .lit (.greg 3), .qpush (.sreg 2) (.greg 3) (.greg 3), .qpush (.sreg 2) .lit (.sreg 2)]),
    (.qpop (.greg 3) .lit, [.qpop (.sreg 2) .lit, .qpop (.greg 3) (.greg 3)]),
    (.qtry 0 0 .lit (.greg 3), [.qtry 2 0 .lit (.greg 3), .qtry 0 0 (.greg 3) (.greg 3), .qtry 0 0 .lit (.sreg 2)])] = true := by decide +kernel

theorem test_wf_matrix : refuses [
    (.mma 0 0 0 (.greg 4) .lit, [.mma 0 0 0 (.greg 5) .lit, .mma 0 0 0 (.sreg 2) .lit, .mma 0 0 0 (.greg 4) (.greg 3)]),
    (.mmas 0 0 0 (.greg 4) .lit, [.mmas 0 0 0 (.greg 5) .lit, .mmas 0 0 0 (.sreg 2) .lit, .mmas 0 0 0 (.greg 4) (.greg 3)]),
    (.mmal 0 0 0 (.greg 4) .lit, [.mmal 0 0 0 (.greg 5) .lit, .mmal 0 0 0 (.sreg 2) .lit, .mmal 0 0 0 (.greg 4) (.greg 3)]),
    (.accz false 0, [.accz true 1]),
    (.accrd (.greg 3) false 0 .lit, [.accrd (.sreg 2) false 0 .lit, .accrd (.greg 3) true 1 .lit, .accrd (.greg 3) false 0 (.greg 3)]),
    (.accwr false 0 (.greg 3) .lit, [.accwr true 1 (.greg 3) .lit, .accwr false 0 .none .lit, .accwr false 0 (.greg 3) (.greg 3)]),
    (.csld (.sreg 2) .lit .lit, [.csld (.greg 3) .lit .lit, .csld (.sreg 2) (.greg 3) .lit, .csld (.sreg 2) .lit (.greg 3)]),
    (.gang .lit, [.gang (.greg 3)]),
    (.mxhint .lit, [.mxhint (.greg 3)]),
    (.mxgemm (.sreg 2) .lit .lit, [.mxgemm (.greg 3) .lit .lit, .mxgemm (.sreg 2) (.greg 3) .lit, .mxgemm (.sreg 2) .lit (.greg 3)]),
    (.quant (.sreg 2) .lit .lit, [.quant (.greg 3) .lit .lit, .quant (.sreg 2) (.greg 3) .lit, .quant (.sreg 2) .lit (.greg 3)]),
    (.mxstat (.greg 3) 0, [.mxstat (.age 0) 0])] = true := by decide +kernel

theorem test_wf_table : refuses [
    (.hfam (.greg 3) .lit 0, [.hfam (.age 0) .lit 0, .hfam (.greg 3) (.greg 3) 0]),
    (.hash (.greg 4) (.greg 3) (.sreg 2), [.hash (.greg 5) (.greg 3) (.sreg 2), .hash (.greg 4) (.age 0) (.sreg 2), .hash (.greg 4) (.greg 3) (.age 0)]),
    (.probe (.sreg 2) (.greg 4) (.sreg 2), [.probe (.greg 3) (.greg 4) (.sreg 2), .probe (.sreg 2) (.greg 5) (.sreg 2), .probe (.sreg 2) (.greg 4) (.greg 3)]),
    (.tins (.greg 3) (.greg 4) (.greg 3), [.tins (.sreg 2) (.greg 4) (.greg 3), .tins (.greg 3) (.greg 5) (.greg 3), .tins (.greg 3) (.greg 4) (.age 0)]),
    (.tdel (.greg 3) (.greg 4) (.greg 3), [.tdel (.sreg 2) (.greg 4) (.greg 3), .tdel (.greg 3) (.greg 5) (.greg 3), .tdel (.greg 3) (.greg 4) (.age 0)]),
    (.rehash (.sreg 2) .lit (.sreg 2), [.rehash (.greg 3) .lit (.sreg 2), .rehash (.sreg 2) (.greg 3) (.sreg 2), .rehash (.sreg 2) .lit (.age 0)]),
    (.rmul (.sreg 2) .lit .lit, [.rmul (.greg 3) .lit .lit, .rmul (.sreg 2) (.greg 3) .lit, .rmul (.sreg 2) .lit (.greg 3)]),
    (.tstat (.greg 3) 0 0, [.tstat (.age 0) 0 0, .tstat (.greg 3) 5 0])] = true := by decide +kernel

theorem test_wf_supervisor : refuses [
    (.mbxget (.greg 3), [.mbxget (.sreg 2)]),
    (.mbxput (.sreg 2) (.sreg 2) (.sreg 2), [.mbxput (.greg 3) (.sreg 2) (.sreg 2), .mbxput (.sreg 2) (.age 0) (.sreg 2), .mbxput (.sreg 2) (.sreg 2) (.age 0)]),
    (.tlbi (.sreg 2) (.sreg 2) 0, [.tlbi (.greg 3) (.sreg 2) 0, .tlbi (.sreg 2) (.sreg 3) 0, .tlbi (.sreg 2) (.sreg 2) 5]),
    (.ctxld (.sreg 2) (.sreg 2) (.sreg 2), [.ctxld (.greg 3) (.sreg 2) (.sreg 2), .ctxld (.sreg 2) (.age 0) (.sreg 2), .ctxld (.sreg 2) (.sreg 2) (.age 0)]),
    (.ctxst (.sreg 2) (.sreg 2) (.sreg 2), [.ctxst (.greg 3) (.sreg 2) (.sreg 2), .ctxst (.sreg 2) (.age 0) (.sreg 2), .ctxst (.sreg 2) (.sreg 2) (.age 0)]),
    (.pmset (.sreg 2) .lit false, [.pmset (.greg 3) .lit false, .pmset (.sreg 2) (.greg 3) false])] = true := by decide +kernel

theorem test_wf_reserved : Instr.wf (.reservedOpcode 0xFF000000) = false := by decide +kernel

/-! ### Decoding

One word of every opcode, its fields written out bit by bit from the encoding table of its entry (R20 to R24, R33). -/

/-- Each word decodes to its instruction. -/
def decodes (l : List (Nat × Instr)) : Bool := l.all fun x =>
  match decode x.1 with
  | .ok i => decide (i = x.2)
  | .error _ => false

theorem test_decode_control : decodes [
    (0b00000000_000000000000000000000000, .nop),
    (0b00000001_101001011100010000100110, .bra 0xA5C426),
    (0b00000010_0_000_01110000111111111001, .br false 0 0x70FF9),
    (0b00000011_00000000_00001101_00000000, .brx .lit),
    (0b00000100_111000101001011111011011, .call 0xE297DB),
    (0b00000101_00011111_11111111_00000000, .callx (.sreg 15) (.greg 207)),
    (0b00000110_000000000000000000000000, .ret),
    (0b00000111_00000000_00010000_00000000, .retx (.sreg 0)),
    (0b00001000_011110011010011110011111, .rcvp 0x79A79F),
    (0b00001001_000000000000000000000000, .regang),
    (0b00001010_000000000000000000000000, .exit),
    (0b00001011_000000000000000000000000, .yield),
    (0b00001100_00000000_00000011_00000000, .mode (.age 3)),
    (0b00001101_00000000_00001011_01110010, .modef (.cache 7) 0x72),
    (0b00001110_10011010_01000100_01000101, .trap (.greg 106) (.greg 20) 0x45),
    (0b00001111_000000000000000000000000, .brkpt)] = true := by decide +kernel

theorem test_decode_trap : decodes [
    (0b00010000_00000000_00000110_00000000, .sleep (.cache 2)),
    (0b00010001_00000000_00001100_00001001, .svc (.age 0) .zero 0x9),
    (0b00010010_00001110_00011111_11111111, .uintr .lane (.sreg 15) (.greg 207)),
    (0b00010011_000000000000000000000000, .uiret),
    (0b00010100_00000000_00010000_00000000, .hret (.sreg 0)),
    (0b00010101_000000000000000000000000, .hkill),
    (0b00010110_00110000_00000011_00001011, .xrd (.greg 0) (.age 3) (.cache 7)),
    (0b00010111_00000000_00101111_10011010, .xwr (.sreg 31) (.greg 106)),
    (0b00011000_01000100_00000000_01100100, .rdsr (.greg 20) 0x64),
    (0b00011001_00000000_00000110_01000110, .wrsr (.cache 2) 0x46)] = true := by decide +kernel

theorem test_decode_integer : decodes [
    (0b00100000_00001100_00001101_00001110, .iadd .zero .lit .lane),
    (0b00100001_00011111_11111111_00010000, .isub (.sreg 15) (.greg 207) (.sreg 0)),
    (0b00100010_00110000_00000011_00001011, .imul (.greg 0) (.age 3) (.cache 7)),
    (0b00100011_00101111_10011010_01000100, .imulh (.sreg 31) (.greg 106) (.greg 20)),
    (0b00100100_00010101_00000110_00000000, .imad (.sreg 5) (.cache 2) (.age 0)),
    (0b00100101_00001100_00001101_00001110, .idiv .zero .lit .lane),
    (0b00100110_00011111_11111111_00010000, .irem (.sreg 15) (.greg 207) (.sreg 0)),
    (0b00100111_00110000_00000011_00001011, .imin (.greg 0) (.age 3) (.cache 7)),
    (0b00101000_00101111_10011010_01000100, .imax (.sreg 31) (.greg 106) (.greg 20)),
    (0b00101001_00010101_00000110_00000000, .iabs (.sreg 5) (.cache 2)),
    (0b00101010_00000000_00001100_00000000, .ineg (.age 0) .zero),
    (0b00101011_0_1010_011_00011111_11111111, .icmp .ugt 3 (.sreg 15) (.greg 207)),
    (0b00101100_00010000_00110000_00000011, .lea (.sreg 0) (.greg 0) (.age 3)),
    (0b00101101_00001011_00101111_10011010, .imulw (.cache 7) (.sreg 31) (.greg 106))] = true := by decide +kernel

theorem test_decode_logic : decodes [
    (0b00110000_01000100_00010101_00000110, .and (.greg 20) (.sreg 5) (.cache 2)),
    (0b00110001_00000000_00001100_00001101, .or (.age 0) .zero .lit),
    (0b00110010_00001110_00011111_11111111, .xor .lane (.sreg 15) (.greg 207)),
    (0b00110011_00010000_00110000_00000011, .andn (.sreg 0) (.greg 0) (.age 3)),
    (0b00110100_00001011_00101111_00000000, .not (.cache 7) (.sreg 31)),
    (0b00110101_10011010_01000100_00010101, .shl (.greg 106) (.greg 20) (.sreg 5)),
    (0b00110110_00000110_00000000_00001100, .shr (.cache 2) (.age 0) .zero),
    (0b00110111_00001101_00001110_00011111, .sar .lit .lane (.sreg 15)),
    (0b00111000_11111111_00010000_00110000, .rotl (.greg 207) (.sreg 0) (.greg 0)),
    (0b00111001_00000011_00001011_00000000, .popc (.age 3) (.cache 7)),
    (0b00111010_00101111_10011010_00000000, .clz (.sreg 31) (.greg 106)),
    (0b00111011_01000100_00010101_00000000, .ctz (.greg 20) (.sreg 5)),
    (0b00111100_00000110_00000000_00000000, .brev (.cache 2) (.age 0)),
    (0b00111101_00001100_00001101_00001110, .bfx .zero .lit .lane),
    (0b00111110_00011111_11111111_00010000, .bfi (.sreg 15) (.greg 207) (.sreg 0)),
    (0b00111111_00110000_00000011_00001011, .sel (.greg 0) (.age 3) (.cache 7))] = true := by decide +kernel

theorem test_decode_float : decodes [
    (0b01000000_00101111_10011010_01000100, .fadd (.sreg 31) (.greg 106) (.greg 20)),
    (0b01000001_00010101_00000110_00000000, .fsub (.sreg 5) (.cache 2) (.age 0)),
    (0b01000010_00001100_00001101_00001110, .fmul .zero .lit .lane),
    (0b01000011_00011111_11111111_00010000, .ffma (.sreg 15) (.greg 207) (.sreg 0)),
    (0b01000100_00110000_00000011_00001011, .ffms (.greg 0) (.age 3) (.cache 7)),
    (0b01000101_00101111_10011010_01000100, .fmin (.sreg 31) (.greg 106) (.greg 20)),
    (0b01000110_00010101_00000110_00000000, .fmax (.sreg 5) (.cache 2) (.age 0)),
    (0b01000111_00001100_00001101_00000000, .fabs .zero .lit),
    (0b01001000_00001110_00011111_00000000, .fneg .lane (.sreg 15)),
    (0b01001001_11111111_00010000_00110000, .fdiv (.greg 207) (.sreg 0) (.greg 0)),
    (0b01001010_00000011_00001011_00000000, .fsqrt (.age 3) (.cache 7)),
    (0b01001011_00101111_10011010_00000000, .frcp (.sreg 31) (.greg 106)),
    (0b01001100_01000100_00010101_00000000, .frsq (.greg 20) (.sreg 5)),
    (0b01001101_00000110_00000000_00000000, .fexp2 (.cache 2) (.age 0)),
    (0b01001110_00001100_00001101_00000000, .flog2 .zero .lit),
    (0b01001111_0_0111_010_11111111_00010000, .fcmp .uno 2 (.greg 207) (.sreg 0))] = true := by decide +kernel

theorem test_decode_convert : decodes [
    (0b01010000_00110000_00000011_00000000, .fclass (.greg 0) (.age 3)),
    (0b01010001_00001011_00101111_10011001, .frnd (.cache 7) (.sreg 31) 0x99),
    (0b01010010_01000100_00010101_00000110, .fscale (.greg 20) (.sreg 5) (.cache 2)),
    (0b01010011_00000000_00001100_00111111, .cvt (.age 0) .zero 0x3F),
    (0b01010100_00001110_00011111_11111111, .cvts .lane (.sreg 15) (.greg 207)),
    (0b01010101_00010000_00110000_00000011, .ladd (.sreg 0) (.greg 0) (.age 3)),
    (0b01010110_00001011_00101111_10011010, .lmul (.cache 7) (.sreg 31) (.greg 106)),
    (0b01010111_01000100_00010101_00000110, .fdot2 (.greg 20) (.sreg 5) (.cache 2))] = true := by decide +kernel

theorem test_decode_lane : decodes [
    (0b01100000_00000000_00001100_00001101, .shfl (.age 0) .zero .lit),
    (0b01100001_00001110_00011111_000_01101, .shflu .lane (.sreg 15) 13),
    (0b01100010_00010000_00110000_000_11100, .shfld (.sreg 0) (.greg 0) 28),
    (0b01100011_00001011_00101111_000_01011, .shflx (.cache 7) (.sreg 31) 11),
    (0b01100100_0_0000_101_0000_1_111_00000000, .vote 0 5 true 7),
    (0b01100101_00001100_0000_0_110_00000000, .ballot .zero false 6),
    (0b01100110_00011111_11111111_00000000, .matchL (.sreg 15) (.greg 207)),
    (0b01100111_00010000_00110000_00000011, .rdlane (.sreg 0) (.greg 0) (.age 3)),
    (0b01101000_00001011_00101111_10011010, .wrlane (.cache 7) (.sreg 31) (.greg 106)),
    (0b01101001_00000_011_0000_1_101_0000_1_111, .pand 3 true 5 true 7),
    (0b01101010_00000_100_0000_0_110_0000_0_000, .por 4 false 6 false 0),
    (0b01101011_00000_101_0000_1_111_0000_1_001, .pxor 5 true 7 true 1),
    (0b01101100_00000_110_0000_0_000_00000000, .pnot 6 false 0),
    (0b01101101_00000_101_00001100_00000000, .pmov 5 .zero),
    (0b01101110_00000_111_00001110_00_001001, .pset 7 .lane 9)] = true := by decide +kernel

theorem test_decode_register : decodes [
    (0b01110000_11111111_00010000_00000000, .mov (.greg 207) (.sreg 0)),
    (0b01110001_00110000_00000011_00000000, .movu (.greg 0) (.age 3)),
    (0b01110010_00000000_00001011_00000000, .kill (.cache 7)),
    (0b01110011_00000000_00101111_00000000, .sete (.sreg 31)),
    (0b01110100_00000000_10011010_00000000, .setf (.greg 106)),
    (0b01110101_01000100_00010101_00000000, .testf (.greg 20) (.sreg 5)),
    (0b01110110_00000000_00000110_00000000, .cinv (.cache 2)),
    (0b01110111_00000_000_00001100_00000000, .shape 0 .zero),
    (0b01111000_00001101_00000_111_00000000, .shapeq .lit 7),
    (0b01111001_00011111_0000000000000_001, .fslot (.sreg 15) 1)] = true := by decide +kernel

theorem test_decode_memory : decodes [
    (0b10000000_00010000_00110000_00000011, .ld (.sreg 0) (.greg 0) (.age 3)),
    (0b10000001_00001011_00101111_10011010, .st (.cache 7) (.sreg 31) (.greg 106)),
    (0b10000010_01000100_00010101_00000110, .ldx (.greg 20) (.sreg 5) (.cache 2)),
    (0b10000011_00000000_00001100_00001101, .stx (.age 0) .zero .lit),
    (0b10000100_00001110_00011111_11111111, .lda .lane (.sreg 15) (.greg 207)),
    (0b10000101_00010000_00110000_00000011, .stl (.sreg 0) (.greg 0) (.age 3)),
    (0b10000110_00001011_00101111_10011010, .ldp (.cache 7) (.sreg 31) (.greg 106)),
    (0b10000111_01000100_00010101_00000110, .stp (.greg 20) (.sreg 5) (.cache 2)),
    (0b10001000_00000000_00001100_00001101, .ldc (.age 0) .zero .lit),
    (0b10001001_000000000000000000000000, .fence),
    (0b10001011_00000000_00001110_00011111, .pf .lane (.sreg 15)),
    (0b10001100_00000000_11111111_000000_00, .cctl (.greg 207) 0)] = true := by decide +kernel

theorem test_decode_atomic : decodes [
    (0b10010000_00110000_00000011_00001011, .aadd (.greg 0) (.age 3) (.cache 7)),
    (0b10010001_00101111_10011010_01000100, .afadd (.sreg 31) (.greg 106) (.greg 20)),
    (0b10010010_00010101_00000110_00000000, .amin (.sreg 5) (.cache 2) (.age 0)),
    (0b10010011_00001100_00001101_00001110, .amax .zero .lit .lane),
    (0b10010100_00011111_11111111_00010000, .aand (.sreg 15) (.greg 207) (.sreg 0)),
    (0b10010101_00110000_00000011_00001011, .aor (.greg 0) (.age 3) (.cache 7)),
    (0b10010110_00101111_10011010_01000100, .axor (.sreg 31) (.greg 106) (.greg 20)),
    (0b10010111_00010101_00000110_00000000, .axch (.sreg 5) (.cache 2) (.age 0)),
    (0b10011000_00001100_00001101_00001110, .acas .zero .lit .lane),
    (0b10011001_00000000_00011111_11111111, .redadd (.sreg 15) (.greg 207)),
    (0b10011010_00000000_00010000_00110000, .redfadd (.sreg 0) (.greg 0)),
    (0b10011011_00000000_00000011_00001011, .redmin (.age 3) (.cache 7)),
    (0b10011100_00000000_00101111_10011010, .redmax (.sreg 31) (.greg 106))] = true := by decide +kernel

theorem test_decode_engine : decodes [
    (0b10100000_01000100_00010101_00000110, .cpy (.greg 20) (.sreg 5) (.cache 2)),
    (0b10100001_00000000_00001100_00001101, .cpy2 (.age 0) .zero .lit),
    (0b10100010_00001110_00011111_11111111, .gthr .lane (.sreg 15) (.greg 207)),
    (0b10100011_00010000_00110000_00000011, .sctr (.sreg 0) (.greg 0) (.age 3)),
    (0b10100100_00000000_00001011_00000_001, .waitc (.cache 7) 1),
    (0b10100101_10011010_0000000000000_011, .rdcnt (.greg 106) 3),
    (0b10100110_00010101_00000110_00000000, .htest (.sreg 5) (.cache 2)),
    (0b10100111_00000000_00001100_00000000, .hcanc (.age 0) .zero),
    (0b10101000_00001101_00001110_00000000, .hprom .lit .lane),
    (0b10101001_00011111_11111111_00000000, .hstat (.sreg 15) (.greg 207)),
    (0b10101010_00010000_00110000_1010_1111, .coll (.sreg 0) (.greg 0) 10 15)] = true := by decide +kernel

theorem test_decode_sync : decodes [
    (0b10110000_00000000_00101111_01_00_1110, .bar (.sreg 31) 1 14),
    (0b10110001_00000000_00010101_00_00_1101, .bara (.sreg 5) 0 13),
    (0b10110010_0000000000000000_10_00_0111, .barw 2 7),
    (0b10110011_00001110_00000000_01_00_0110, .barq .lane 1 6),
    (0b10110100_000000000000000000000000, .rsb),
    (0b10110101_000000000000000000000000, .rse),
    (0b10110110_00000000_00010000_00000000, .gpwait (.sreg 0)),
    (0b10110111_00110000_0000000000000000, .gpseq (.greg 0)),
    (0b10111000_00000000_00000011_00001011, .dfree (.age 3) (.cache 7)),
    (0b10111001_00101111_10011010_01000100, .qpush (.sreg 31) (.greg 106) (.greg 20)),
    (0b10111010_00010101_00000110_00000000, .qpop (.sreg 5) (.cache 2)),
    (0b10111011_0_1000_101_00001101_00001110, .qtry 8 5 .lit .lane)] = true := by decide +kernel

theorem test_decode_matrix : decodes [
    (0b11000000_100_001_10_00110000_00000011, .mma 4 1 2 (.greg 0) (.age 3)),
    (0b11000001_101_010_11_01000100_00010101, .mmas 5 2 3 (.greg 20) (.sreg 5)),
    (0b11000010_110_011_00_00001101_00001110, .mmal 6 3 0 .lit .lane),
    (0b11000011_00000_0_00_0000000000000000, .accz false 0),
    (0b11000100_00010000_00000_1_11_00001011, .accrd (.sreg 0) true 3 (.cache 7)),
    (0b11000101_00000_0_10_01000100_00010101, .accwr false 2 (.greg 20) (.sreg 5)),
    (0b11000110_00000110_00000000_00001100, .csld (.cache 2) (.age 0) .zero),
    (0b11000111_00000000_00001101_00000000, .gang .lit),
    (0b11001000_00000000_00001110_00000000, .mxhint .lane),
    (0b11001001_00011111_11111111_00010000, .mxgemm (.sreg 15) (.greg 207) (.sreg 0)),
    (0b11001010_00110000_00000011_00001011, .quant (.greg 0) (.age 3) (.cache 7)),
    (0b11001011_00101111_00000000000000_01, .mxstat (.sreg 31) 1)] = true := by decide +kernel

theorem test_decode_table : decodes [
    (0b11010000_01000100_00010101_000000_00, .hfam (.greg 20) (.sreg 5) 0),
    (0b11010001_00000000_00001100_00001101, .hash (.age 0) .zero .lit),
    (0b11010010_00001110_00011111_11111111, .probe .lane (.sreg 15) (.greg 207)),
    (0b11010011_00010000_00110000_00000011, .tins (.sreg 0) (.greg 0) (.age 3)),
    (0b11010100_00001011_00101111_10011010, .tdel (.cache 7) (.sreg 31) (.greg 106)),
    (0b11010101_01000100_00010101_00000110, .rehash (.greg 20) (.sreg 5) (.cache 2)),
    (0b11010110_00000000_00001100_00001101, .rmul (.age 0) .zero .lit),
    (0b11010111_00001110_00000000_1000_00_01, .tstat .lane 8 1),
    (0b11011000_000000000000000000000000, .tfence)] = true := by decide +kernel

theorem test_decode_supervisor : decodes [
    (0b11100000_00010000_0000000000000000, .mbxget (.sreg 0)),
    (0b11100001_00110000_00000011_00001011, .mbxput (.greg 0) (.age 3) (.cache 7)),
    (0b11100010_00101111_10011010_00000_000, .tlbi (.sreg 31) (.greg 106) 0),
    (0b11100011_00010101_00000110_00000000, .ctxld (.sreg 5) (.cache 2) (.age 0)),
    (0b11100100_00001100_00001101_00001110, .ctxst .zero .lit .lane),
    (0b11100101_00011111_11111111_0000000_0, .pmset (.sreg 15) (.greg 207) false)] = true := by decide +kernel

-- The words that the spec itself gives as examples, chapter by chapter.
theorem test_words_encoding_registers : decodes [
    (0x01FFFFFF, .bra (-1)), (0x02A00005, .br true 2 5),
    (0x40626061, .fadd (.greg 50) (.greg 48) (.greg 49)), (0x2019190D, .iadd (.sreg 9) (.sreg 9) .lit), (0x0A000000, .exit),
    (0x706C0600, .mov (.greg 60) (.cache 2)), (0x0D000D04, .modef .lit 4), (0x18760000, .rdsr (.greg 70) 0),
    (0x77022400, .shape 2 (.sreg 20)), (0x76000C00, .cinv .zero)] = true := by decide +kernel
theorem test_words_group_alu : decodes [
    (0x10001900, .sleep (.sreg 9)), (0x056C2400, .callx (.greg 60) (.sreg 20)), (0x0E0C6007, .trap .zero (.greg 48) 7),
    (0x1214150D, .uintr (.sreg 4) (.sreg 5) .lit), (0x3F626061, .sel (.greg 50) (.greg 48) (.greg 49)),
    (0x2B43600D, .icmp .ult 3 (.greg 48) .lit), (0x53626002, .cvt (.greg 50) (.greg 48) 2), (0x63636201, .shflx (.greg 51) (.greg 50) 1),
    (0x640A0900, .vote 1 2 true 1), (0x65190100, .ballot (.sreg 9) false 1), (0x6E026005, .pset 2 (.greg 48) 5)] = true := by
  decide +kernel
theorem test_words_memory : decodes [
    (0x8062600D, .ld (.greg 50) (.greg 48) .lit), (0x8163600C, .st (.greg 51) (.greg 48) .zero), (0x8414240C, .lda (.sreg 4) (.sreg 20) .zero),
    (0x8515240C, .stl (.sreg 5) (.sreg 20) .zero), (0x8664610C, .ldp (.greg 52) (.greg 49) .zero), (0x8816240D, .ldc (.sreg 6) (.sreg 20) .lit),
    (0x89000000, .fence), (0x8B00600D, .pf (.greg 48) .lit), (0x8C002401, .cctl (.sreg 20) 1), (0x8C006002, .cctl (.greg 48) 2),
    (0x90626061, .aadd (.greg 50) (.greg 48) (.greg 49)), (0x98162417, .acas (.sreg 6) (.sreg 20) (.sreg 7)),
    (0x970C600D, .axch .zero (.greg 48) .lit), (0x9900240D, .redadd (.sreg 20) .lit)] = true := by decide +kernel
theorem test_words_engines_sync : decodes [
    (0xA018240D, .cpy (.sreg 8) (.sreg 20) .lit), (0xA219280C, .gthr (.sreg 9) (.sreg 24) .zero), (0xA4000D00, .waitc .lit 0),
    (0xA51A0001, .rdcnt (.sreg 10) 1), (0xA91B1800, .hstat (.sreg 11) (.sreg 8)), (0xAA182812, .coll (.sreg 8) (.sreg 24) 1 2),
    (0xB0000D43, .bar .lit 1 3), (0xB1000C02, .bara .zero 0 2), (0xB2000043, .barw 1 3), (0xB3190081, .barq (.sreg 9) 2 1),
    (0xB0000CC0, .bar .zero 3 0), (0xB4000000, .rsb), (0xB5000000, .rse), (0xB6000C00, .gpwait .zero), (0xB7150000, .gpseq (.sreg 5)),
    (0xB8002425, .dfree (.sreg 20) (.sreg 21)), (0xB9190D80, .qpush (.sreg 9) .lit (.greg 80)), (0xBA841A00, .qpop (.greg 84) (.sreg 10)),
    (0xBB021A84, .qtry 0 2 (.sreg 10) (.greg 84)), (0xBB0A1A80, .qtry 1 2 (.sreg 10) (.greg 80))] = true := by decide +kernel
theorem test_words_matrix_tables : decodes [
    (0xC0217024, .mma 1 0 1 (.greg 64) (.sreg 20)), (0xC1687424, .mmas 3 2 0 (.greg 68) (.sreg 20)),
    (0xC2B27825, .mmal 5 4 2 (.greg 72) (.sreg 21)), (0xC3010000, .accz false 1), (0xC480010D, .accrd (.greg 80) false 1 .lit),
    (0xC61C280C, .csld (.sreg 12) (.sreg 24) .zero), (0xC7002600, .gang (.sreg 22)), (0xC91D2A0C, .mxgemm (.sreg 13) (.sreg 26) .zero),
    (0xCA1E2C0D, .quant (.sreg 14) (.sreg 28) .lit), (0xCB8A0001, .mxstat (.greg 90) 1), (0xD0142401, .hfam (.sreg 4) (.sreg 20) 1),
    (0xD180600D, .hash (.greg 80) (.greg 48) .lit), (0xD2188026, .probe (.sreg 8) (.greg 80) (.sreg 22)),
    (0xD38A8064, .tins (.greg 90) (.greg 80) (.greg 52)), (0xD40C8019, .tdel .zero (.greg 80) (.sreg 9)),
    (0xD51A0D0D, .rehash (.sreg 10) .lit .lit), (0xD61C280C, .rmul (.sreg 12) (.sreg 24) .zero), (0xD71B0001, .tstat (.sreg 11) 0 1),
    (0xD8000000, .tfence)] = true := by decide +kernel
theorem test_words_trap_curator : decodes [
    (0x14000D00, .hret .lit), (0x14000C00, .hret .zero), (0x15000000, .hkill), (0x1664630D, .xrd (.greg 52) (.greg 51) .lit),
    (0x17006365, .xwr (.greg 51) (.greg 53)), (0x11192021, .svc (.sreg 9) (.sreg 16) 0x21), (0xE0800000, .mbxget (.greg 80)),
    (0xE1141A1B, .mbxput (.sreg 4) (.sreg 10) (.sreg 11)), (0xE2141A02, .tlbi (.sreg 4) (.sreg 10) 2),
    (0xE3141516, .ctxld (.sreg 4) (.sreg 5) (.sreg 6)), (0xE4141516, .ctxst (.sreg 4) (.sreg 5) (.sreg 6)),
    (0xE5141A00, .pmset (.sreg 4) (.sreg 10) false)] = true := by decide +kernel
-- R23, R36: a nonzero unused field (MOV, B; R37's MBXGET, A), and reserved opcodes.
theorem test_words_unused : decode 0x70060101 = .error (.unusedField 0x70) ∧ decode 0xE0800F00 = .error (.unusedField 0xE0) := ⟨rfl, rfl⟩
theorem test_words_reserved : decodes [(0x00000001, .reservedOpcode 0x00000001), (0x1A000000, .reservedOpcode 0x1A000000),
    (0xDF000000, .reservedOpcode 0xDF000000), (0xFFFFFFFF, .reservedOpcode 0xFFFFFFFF)] = true := by decide +kernel
-- R28's bundle of R7, byte by byte: the control bits of its slots and the literal of slot 1.
theorem test_bundle : let b := Bundle.ofBytes 0 ([0x22, 0, 0, 0x40, 0, 0, 0, 0x10, 0x61, 0x60, 0x62, 0x40, 0x0D, 0x19, 0x19, 0x20, 0, 0, 0, 0x0A,
      1, 0, 0, 0, 0, 0, 0, 0, 0, 0, 0, 0].map fun n => BitVec.ofNat 8 n)
    b.word 0 = 0x40626061 ∧ b.ctl 0 = 0x22 ∧ b.word 1 = 0x2019190D ∧ b.ctl 1 = 0 ∧ (b.lits 1).2 = 1 ∧ b.rcv = true := by decide +kernel

/-! ### Small states -/

/-- A device whose one group, of the kind that an opcode needs, issues slot 0 of its bundle; its registers g0 to g7 are FULL. -/
def issuing (op : Nat) : State :=
  let s := State.reset.withFetchWord 32 (op * 2 ^ 24)
  let b := Bundle.ofBytes 0x4000 (s.mm.bytes 0x4000 32)
  let s := (s.setCur (placedGroup (placedKind (op * 2 ^ 24))).unit 0 b 0).modP fun q => { q with buf := some b }
  s.modG fun g => { g with gregs := [0, 1, 2, 3, 4, 5, 6, 7].map fun n => (n, { st := .full, val := Lanes.uniform (word n) }) }

/-- A user group's, a handler group's and a curator group's. -/
def user : State := issuing 0
def handler : State := issuing 0x14
def curator : State := issuing 0xE0

/-- A register takes a value in every lane. -/
def holding (s : State) (r : RegCode) (v : Nat) : State := s.modG fun g => g.writeReg r (Lanes.uniform (word v)) (~~~0)
/-- g0, g1 and g2 hold a, b and c. -/
def args (s : State) (a b c : Nat) : State := holding (holding (holding s 0x30 a) 0x31 b) 0x32 c
/-- A register is in a state. -/
def inState (s : State) (r : RegCode) (st : RegState) : State := s.modG fun g => g.setRegState r st
/-- The mode of every slice. -/
def moded (s : State) (m : Nat) : State :=
  s.modG fun g => { g with slices := g.slices.map fun x => { x with mode := BitVec.ofNat 32 m } }
/-- An element type by its code (R40), SAT and DZT. -/
def typed (s : State) (code : Nat) (sat dzt : Bool := false) : State :=
  moded s (2 ^ 5 * code + 2 ^ 16 * sat.toNat + 2 ^ 18 * dzt.toNat)
/-- Lanes that a guard predicate shuts out: it names p1, which is false in every lane. -/
def shut : State := moded user 0b10001
/-- The slices' mode has an element type and the guard of shut. -/
def shutTyped (s : State) (code : Nat) : State := moded s (2 ^ 5 * code + 0b10001)

/-- The context has a group handler, whose bundle at 0x5000 has ENTRY set (R329). -/
def handled (s : State) : State :=
  { s with mm := s.mm.setBytes 0x5000 (leBytes (2 ^ 61) 32)
           kernels := s.kernels.map fun k => { k with eff := { k.eff with handler := 0x5000 } } }
/-- The step ends in a group trap of a cause, taken at the handler with the slot's code address in %tpc (R329). -/
def trapsGroup (i : Instr) (s : State) (cause : Nat) : Bool :=
  match exec i (handled s) with
  | .next t => t.g.tcause == cause && t.g.tpc == s.cur.pc && t.g.hdl.length == 1 && t.g.slices.all fun x => x.pc == 0x5000
  | _ => false

/-- The instruction issues and executes in the state, and its entry has a property there. -/
def meets (i : Instr) (s : State) (p : Info → Bool := fun _ => true) : Bool :=
  s.hasGrp s.cur.unit &&
    match entryOf i s with
    | some e => ready e s && p e
    | none => false

/-- It acts on some lane, or on none. -/
def acting (i : Instr) (s : State) : Bool := meets i s fun e => acts e s != 0
def idle (i : Instr) (s : State) : Bool := meets i s fun e => acts e s == 0
/-- Only some lanes pass the guard p1; the mode has an element type. -/
def guarded (s : State) (m : Nat) (code : Nat) : State :=
  (moded s (2 ^ 5 * code + 0b10001)).modG fun g => { g with preds := Store.set g.preds 1 (BitVec.ofNat 32 m) }
/-- Every slice has a return stack. -/
def returning (s : State) (ret : List Word) : State :=
  s.modG fun g => { g with slices := g.slices.map fun x => { x with ret := ret } }
/-- A store is not performed, or has been lost (R177, R358). -/
def storing (s : State) : State := { s with mm := { s.mm with stores := [{ token := 9, unit := s.g.unit, serial := s.g.serial, by_ := ~~~0 }] } }
def losing (s : State) : State := s.modG fun g => { g with linkLost := true }
/-- The issuing path's instruction has waited and reached a stage, with an argument, and perhaps an answer. -/
def waiting (s : State) (stage arg : Nat) (answer : Option (List Word)) : State :=
  s.modP fun q => { q with wait := some { why := .answer, keep := false, stage := stage, arg := arg }, answer := answer }

/-- The step answers a next state with a property. -/
def leads (r : Host.Outcome State Fault Refusal) (p : State → Bool) : Bool :=
  match r with
  | .next t => p t
  | _ => false

/-- A register's value in a lane after an instruction. -/
def result (i : Instr) (s : State) (r : RegCode) (l v : Nat) : Bool := leads (exec i s) fun t => (t.g.regVal r).at l == word v

abbrev g0 : Opnd := .greg 0
abbrev g1 : Opnd := .greg 1
abbrev g2 : Opnd := .greg 2
abbrev s0 : Opnd := .sreg 0
abbrev s1 : Opnd := .sreg 1
abbrev s2 : Opnd := .sreg 2

/-! ### Integer, logic and bit-field instructions -/

-- R151, the table of I32 values; negative numbers as their 64-bit images (R44).
theorem test_iadd_wraps : result (.iadd g2 g0 g1) (args (typed user 14) 2147483647 1 0) 0x32 5 0xFFFFFFFF80000000 = true := by
  decide +kernel
theorem test_iadd_saturates : result (.iadd g2 g0 g1) (args (typed user 14 true) 2147483647 1 0) 0x32 5 2147483647 = true := by
  decide +kernel
theorem test_idiv_truncates : result (.idiv g2 g0 g1) (args (typed user 14) 0xFFFFFFF9 2 0) 0x32 0 0xFFFFFFFFFFFFFFFD = true := by
  decide +kernel
theorem test_idiv_zero : result (.idiv g2 g0 g1) (args (typed user 14) 0xFFFFFFF9 0 0) 0x32 0 0xFFFFFFFF80000000 = true := by
  decide +kernel
theorem test_irem_sign : result (.irem g2 g0 g1) (args (typed user 14) 0xFFFFFFF9 2 0) 0x32 0 0xFFFFFFFFFFFFFFFF = true := by
  decide +kernel
theorem test_imulh : result (.imulh g2 g0 g1) (args (typed user 14) 1073741824 4 0) 0x32 0 1 = true := by decide +kernel
theorem test_sar : result (.sar g2 g0 g1) (args (typed user 14) 0xFFFFFFCE 2 0) 0x32 0 0xFFFFFFFFFFFFFFF3 = true := by decide +kernel
theorem test_bfx : result (.bfx g2 g0 g1) (args (typed user 14) 0xF3 0x0404 0) 0x32 0 0xFFFFFFFFFFFFFFFF = true := by decide +kernel

theorem witness_IntegerResults : ([.iadd g0 g1 g2, .isub g0 g1 g2, .imul g0 g1 g2, .imulh g0 g1 g2, .imad g0 g1 g2, .imin s0 s1 s2,
    .imax (.cache 1) g1 .lit, .iabs g0 g1, .ineg .zero g1] : List Instr).all (fun i => meets i (typed user 14)) = true := by decide +kernel
theorem witness_WideResults : ([.lea g0 g1 g2, .imulw g0 g1 g2] : List Instr).all (fun i => meets i (typed user 14)) = true := by
  decide +kernel
-- A divisor that is 0, with and without DZT, in a user and in a curator group, and one that is not.
theorem witness_Divisions : ([.idiv g2 g0 g1, .irem g2 g0 g1] : List Instr).all (fun i =>
    [typed user 14, typed user 14 false true, typed curator 14 false true].all fun s =>
      [0, 1].all fun y => meets i (args s 7 y 0)) = true := by decide +kernel
theorem witness_LogicResults : ([.and g0 g1 g2, .or g0 g1 g2, .xor g0 g1 g2, .andn g0 g1 g2, .not g0 g1, .sel g0 g1 g2] : List Instr).all
    (fun i => meets i user) = true := by decide +kernel
theorem witness_ShiftsAndFields : ([.shl g0 g1 g2, .shr g0 g1 g2, .sar g0 g1 g2, .rotl g0 g1 g2, .brev g0 g1, .bfx g0 g1 g2,
    .bfi g0 g1 g2] : List Instr).all (fun i => meets i (typed user 8)) = true := by decide +kernel
theorem witness_BitCounts : ([.popc g0 g1, .clz g0 g1, .ctz g0 g1] : List Instr).all (fun i =>
    meets i (args (typed user 8) 0 0x10 0) fun e => acts e (args (typed user 8) 0 0x10 0) != 0) = true := by decide +kernel
theorem witness_FloatResults : ([.fadd g0 g1 g2, .fsub g0 g1 g2, .fmul g0 g1 g2, .ffma g0 g1 g2, .ffms g0 g1 g2, .fdiv g0 g1 g2,
    .fsqrt g0 g1, .frcp g0 g1, .frsq g0 g1, .fexp2 g0 g1, .flog2 g0 g1, .fscale g0 g1 g2] : List Instr).all (fun i =>
      meets i (typed user 1)) = true ∧ meets (.fdot2 g0 g1 g2) (typed user 4) = true := by decide +kernel
theorem witness_FloatBitResults : ([.fmin g0 g1 g2, .fmax g0 g1 g2, .fabs g0 g1, .fneg g0 g1, .frnd g0 g1 0, .frnd g0 g1 5,
    .fclass g0 g1] : List Instr).all (fun i => meets i (typed user 1)) = true := by decide +kernel
-- A pair of BF16 to a pair of FP16, and one element.
theorem witness_Conversions : meets (.cvt g0 g1 3) (typed user 1) = true ∧ meets (.cvt g0 g1 5) (typed user 4) = true ∧
    meets (.cvts g0 g1 g2) (typed user 1) = true ∧ ([.ladd g0 g1 g2, .lmul g0 g1 g2] : List Instr).all (fun i => meets i (typed user 6)) = true := by
  decide +kernel
-- An enabled invalid flag without a NaN operand among the hypotheses of FCMP.
theorem witness_Comparisons : meets (.icmp .ult 3 g0 g1) (typed user 14) = true ∧ meets (.fcmp .lt 3 g0 g1) (typed user 1) = true ∧
    (let s := moded user (2 ^ 5 + 2 ^ 20); meets (.fcmp .lt 3 g0 g1) s fun e => (LaneMask.lanes (acts e s)).all fun l =>
      modeFpx (modeAt e s l) % 2 == 1 && !(cmpValue (etypeAt e s l) false (argA e s l).toNat).isNan &&
        !(cmpValue (etypeAt e s l) false (argB e s l).toNat).isNan) = true := by decide +kernel
-- A signalling NaN with the invalid flag enabled: the lanes trap, in a user and in a curator group.
theorem witness_Comparisons_trap : ([user, curator] : List State).all (fun g =>
    let s := holding (moded g (2 ^ 5 + 2 ^ 20)) 0x31 0x7F800001
    meets (.fcmp .lt 3 g0 g1) s fun e => acts e s != 0 && (LaneMask.lanes (acts e s)).all fun l =>
      modeFpx (modeAt e s l) % 2 == 1 && (cmpValue (etypeAt e s l) false (argB e s l).toNat).isNan) = true := by decide +kernel

/-! ### Lanes, predicates and registers -/

-- R161: a lane takes the value of lane l XOR n; a shuffle up leaves the lanes below n their own value.
theorem test_shflx : (let s := user.modG fun g => g.writeReg 0x30 (Lanes.of fun l => word (100 + l)) (~~~0)
    result (.shflx g1 g0 1) s 0x31 4 105 && result (.shflu g1 g0 3) s 0x31 2 102 && result (.shflu g1 g0 3) s 0x31 3 100) = true := by
  decide +kernel
-- R161, R64: BALLOT's mask of the lanes where the predicate is false, with ~.
theorem test_ballot : result (.ballot g1 true 1) user 0x31 7 0xFFFFFFFF = true := by decide +kernel
-- R64, R65: a result is pushed; MOVU's is not (R78).
theorem test_push : (leads (exec (.mov g1 (.greg 3)) user) fun t => t.g.ageValid.getD 0 false && (t.g.ages.getD 0 []).at 9 == 3) = true ∧
    (leads (exec (.movu g1 (.greg 3)) user) fun t => !t.g.ageValid.getD 0 false && (t.g.regVal 0x31).at 9 == 3) = true := by decide +kernel
-- R69, R70: KILL leaves the register DEAD; reading it is then a DEADREAD group trap, cause 0x07.
theorem test_kill : (leads (exec (.kill g1) user) fun t => t.g.regState 0x31 == .dead) = true ∧
    trapsGroup (.mov g0 g1) (inState user 0x31 .dead) 0x07 = true := by decide +kernel
-- The words of R77: MODEF rnd, #1 sets RTZ in every slice; MODEF rnd, #5 and MODEF 12, #0 raise ILLEGAL, cause 0x09.
theorem test_modef : (leads (exec (.modef s1 4) (holding user 0x11 1)) fun t => t.g.slices.all fun x => modeRnd x.mode == Rnd.ofCode 1) = true ∧
    trapsGroup (.modef s1 4) (holding user 0x11 5) 0x09 = true ∧ trapsGroup (.modef s1 12) user 0x09 = true := by decide +kernel

theorem witness_Shuffles : ([.shfl g2 g0 g1, .shflu g2 g0 31, .shfld g2 g0 31, .shflx g2 g0 16] : List Instr).all (fun i =>
    [user, shut].all (meets i)) = true := by decide +kernel
theorem witness_LaneReads : ([.ballot g0 true 1, .matchL g0 g1, .rdlane s0 g1 s1, .wrlane (.greg 207) s1 s2] : List Instr).all (fun i =>
    [holding user 0xFF 0, holding (shutTyped user 11) 0xFF 0].all (meets i)) = true := by decide +kernel
theorem witness_PredicateResults : ([.vote 0 2 true 1, .vote 1 2 false 1, .vote 2 2 false 1, .vote 3 2 false 1, .pand 1 true 2 false 3,
    .por 1 true 2 false 3, .pxor 1 true 2 false 3, .pnot 7 false 1, .pmov 1 s1, .pset 1 g1 63] : List Instr).all (fun i =>
      [user, shut].all (meets i)) = true := by decide +kernel
-- RDSR of a selector that reads; FSLOT in a user and in a curator group; TESTF of a register in each state.
theorem witness_Moves : ([.mov g0 g1, .movu s0 .lit, .shapeq g0 7, .fslot g0 7, .rdsr g0 0x00, .rdsr g0 0x15] : List Instr).all (meets · user) = true ∧
    user.g.kind = .user ∧ curator.g.kind = .curator ∧ meets (.fslot g0 7) curator = true ∧
    ([.full, .dead, .opened, .pending 5] : List RegState).all (fun st => meets (.testf g0 g1) (inState user 0x31 st)) = true ∧
    ([0x00, 0x15] : List Nat).all (fun n => (user.readSr user.g n).isSome) = true := by decide +kernel
theorem witness_SpecialRegisters : (user.readSr user.g 0x0A = none ∧ user.readSr user.g 0xFF = none) ∧
    (entryOf (.rdsr g0 0xFF) user).isSome = true := by decide +kernel
theorem witness_RegisterStates : ([.full, .dead, .opened, .pending 5] : List RegState).all (fun st =>
    meets (.kill g1) (inState user 0x31 st) && meets (.sete g1) (inState user 0x31 st) &&
      (st == .pending 5 || st == .opened || meets (.setf g1) (inState user 0x31 st))) = true ∧
    ([.cinv .zero, .cinv (.cache 0), .cinv (.cache 7)] : List Instr).all (meets · user) = true ∧ meets (.kill s1) user = true := by
  decide +kernel
-- A legal and an illegal mode; the greatest value of a field and one above it; ETYPE 6 and 7, RND 4 and 5, SCOPE 5 and 6.
theorem witness_ModeAndShape : ([0x3E, 0xE0] : List Nat).all (fun v => meets (.mode s1) (holding user 0x11 v)) = true ∧
    ([(0, 7), (0, 8), (3, 6), (3, 7), (4, 4), (4, 5), (5, 5), (5, 6), (11, 7), (11, 8)] : List (Nat × Nat)).all (fun x =>
      meets (.modef s1 (BitVec.ofNat 8 x.1)) (holding user 0x11 x.2)) = true ∧
    (handled user).hasGrp (handled user).cur.unit = true ∧ (handled user).g.kind ≠ .handler ∧ (handled user).g.hdl.length < 2 ∧
    ((handled user).usableEntry (handled user).g).2.isSome = true ∧ (11 : Nat) < (12 : BitVec 8).toNat ∧
    ([0x2000000000000000, 0x3000000000000000, 0x4000000000000000] : List Nat).all (fun v => meets (.shape 7 s1) (holding user 0x11 v)) = true := by
  decide +kernel
theorem witness_SpecialWrites : ([(0x10, 1), (0x12, 1), (0x14, 4096), (0x14, 4095), (0x15, 256), (0x15, 0), (0x15, 255)] : List (Nat × Nat)).all (fun x =>
      meets (.wrsr s1 (BitVec.ofNat 8 x.1)) (holding user 0x11 x.2)) = true ∧
    ([(0x40, 1), (0x43, 64), (0x43, 65), (0x48, 1), (0x48, 4), (0x67, 3), (0x67, 32), (0x67, 16)] : List (Nat × Nat)).all (fun x =>
      meets (.wrsr s1 (BitVec.ofNat 8 x.1)) (holding curator 0x11 x.2)) = true := by decide +kernel

/-! ### Control flow -/

-- R30: BRA −1 goes to its own bundle; R31: a target without ENTRY, or not aligned, raises BADTARGET, cause 0x0B.
theorem test_bra : (leads (exec (.bra (-1)) user) fun t => t.g.slices.all fun x => x.pc == 0x4000) = true := by decide +kernel
theorem test_brx : trapsGroup (.brx g1) (args user 0 0x4000 0) 0x0B = true ∧
    (leads (exec (.brx g1) (handled (args user 0 0x5000 0))) fun t => t.g.slices.all fun x => x.pc == 0x5000 && x.run == 15) = true := by decide +kernel
-- R137: a RET without an entry raises RETEMPTY, cause 0x11; one that only some lanes of a slice make RETDIVERGE, 0x12.
theorem test_ret : trapsGroup .ret user 0x11 = true ∧ trapsGroup .ret (returning (guarded user 0xFFFFFFFE 0) [0x6000]) 0x12 = true := by
  decide +kernel
-- R18, R139: EXIT retires every lane of Active().
theorem test_exit : (leads (exec .exit user) fun t => t.groups.all fun g => g.slices.all fun x => x.run == 0) = true := by decide +kernel

theorem witness_Branches : acting (.bra 5) user = true ∧ idle (.bra 5) shut = true ∧ acting (.br true 1 5) user = true ∧
    acting (.br false 1 5) user = true ∧ user.g.pred 1 = 0 := by decide +kernel
-- Targets that are not aligned, and bundles with ENTRY.
theorem witness_IndexedTransfers : ([.brx g1, .callx g0 g1, .callx s0 s1, .callx (.cache 2) g1] : List Instr).all (fun i =>
    ([0x5001, 0x5010] : List Nat).all (fun v => acting i (holding (args user 0 v 0) 0x11 v)) &&
      (let s := handled (holding (args user 0 0x5000 0) 0x11 0x5000)
       meets i s fun e => match (s.operands e).checkTargets (s.consume e) 0x30 with
         | .inl (_, m) => m == acts e s
         | .inr _ => false)) = true ∧
    user.g.slices.all (fun x => decide (x.ret.length < 16 ∧ x.retDepth < 65535)) = true := by decide +kernel
-- A return stack with room, and a full one with no backing store.
theorem witness_Calls : acting (.call 5) user = true ∧ idle (.call 5) shut = true ∧
    (let s := returning user (List.replicate 16 0x5000)
     acting (.call 5) s = true ∧ s.g.slices.map (·.idx) = sliceIds ∧ (s.g.slice 0).ret.length = 16 ∧ s.g.csize = 0) ∧
    -- A cut has left 5 spilled entries: the block's 8 fit or not.
    ([63, 64] : List Nat).all (fun n =>
      let s := (returning user (List.replicate 16 0x5000)).modG fun g => { g with slices := g.slices.map (fun x => { x with retSpilled := 5 }), csize := n }
      acting (.call 5) s && decide (8 * ((s.g.slice 0).retSpilled / 8 * 8 + 8) + 32 * (s.g.slice 0).rcvSpilled > s.g.csize) == (n == 63)) = true := by decide +kernel
theorem witness_Returns : acting .ret user = true ∧ ([0x6000, 0x6005, 0x6006] : List Word).all (fun v => acting .ret (returning user [v])) = true ∧
    acting .ret (returning (guarded user 0xFFFFFFFE 0) [0x6000]) = true ∧ acting (.retx g1) (returning (guarded user 0xFFFFFFFE 0) [0x6000]) = true ∧
    acting (.retx .lane) user = false ∧ idle (.retx g1) shut = true ∧
    acting (.retx g1) (user.modG fun g => g.writeReg 0x31 (Lanes.of fun l => word (32 * l)) (~~~0)) = true ∧
    ([0x6001, 0x601F, 0x6020] : List Nat).all (fun v => acting (.retx g1) (args user 0 v 0)) = true := by decide +kernel
theorem witness_Reconvergence : acting (.rcvp 5) user = true ∧ user.g.slices.all (fun x => decide (x.rcv.length < 16)) = true ∧
    acting .regang user = true ∧ acting .exit user = true ∧ idle .exit shut = true := by decide +kernel
-- %cyc is 0: a value that it has reached, and one that it has not.
theorem witness_Pauses : (user.hasGrp user.cur.unit = true ∧ firstIssue user = true) ∧ acting .yield user = true ∧
    acting (.sleep s1) user = true ∧ acting (.sleep s1) (holding user 0x11 1) = true ∧ user.cyc = 0 := by decide +kernel
theorem witness_SoftwareTraps : ([user, curator, handler] : List State).all (acting (.trap .zero g1 7)) = true ∧
    idle (.trap .zero g1 7) shut = true ∧ acting .brkpt user = true := by decide +kernel
-- UINTR from a handler group; to a group that does not exist; with a vector of 256 and of 255. UIRET outside and within a run of
-- each kind, to slot 5, which exists, and to slot 6, which does not.
theorem witness_UserInterrupts : acting (.uintr s0 s1 s2) handler = true ∧ acting (.uintr s0 s1 s2) (holding user 0x11 99) = true ∧
    ([255, 256] : List Nat).all (fun v => acting (.uintr s0 s1 s2) (holding user 0x12 v)) = true ∧
    (user.groups.find? fun x => x.kind == .user && x.kernel == user.g.kernel && x.gid == 0).isSome = true ∧ user.g.linkLost = false ∧
    acting .uiret user = true ∧ ([.gtrap, .delivery] : List HKind).all (fun k => ([0x6005, 0x6006] : List Nat).all fun v =>
      acting .uiret (user.modG fun g => { g with hdl := [{ kind := k, atSlot0 := none }], tpc := word v, uipc := word v })) = true := by
  decide +kernel

/-! ### Memory -/

-- R169, R170: a store writes its element's bytes, least significant first, in the lanes that are active; the highest lane wins.
theorem test_st : (leads (exec (.st g2 g0 g1) (guarded (args user 0x20000 8 0xAABBCCDD) 1 10)) fun t =>
    t.mm.byte 0x20008 == 0xDD && t.mm.byte 0x2000B == 0xAA && t.mm.byte 0x2000C == user.mm.byte 0x2000C) = true := by decide +kernel
-- R169: a load's destination is EMPTY until its data arrive.
theorem test_ld : (leads (exec (.ld g2 g0 g1) (guarded (args user 0x4000 8 7) 1 10)) fun t =>
    match t.g.regState 0x32 with
    | .pending _ => (t.g.regVal 0x32).at 0 == 7
    | _ => false) = true := by decide +kernel
-- R213: AADD adds modulo 2^32.
theorem test_aadd : (leads (exec (.aadd .zero g0 g1) (guarded (args user 0x4008 0xFFFFFFFF 0) 1 10)) fun t =>
    t.mm.num 0x4008 4 == (user.mm.num 0x4008 4 + 0xFFFFFFFF) % 2 ^ 32) = true := by decide +kernel
-- R217: a reduction's value is read through its update-only copy.
theorem test_redadd : (leads (exec (.redadd g0 g1) (guarded (args user 0x20008 5 0) 3 10)) fun t => t.readNum 0x20008 4 == user.mm.num 0x20008 4 + 10)
    = true := by decide +kernel

/-- Lanes that access 0x20000, with U32 elements. -/
def loading : State := holding (holding (args (typed user 10) 0x20000 0 7) 0x10 0x20000) 0x11 0
/-- Lane 0 only. -/
def loneLane (code : Nat) : State := guarded (args user 0x20000 1 0) 1 code

-- A lane whose access does not trap, and one that is not aligned.
theorem witness_Loads : ([.ld g2 g0 g1, .ldx g2 g0 g1, .lda g2 g0 g1, .ldc g2 s0 s1, .ld s2 s0 s1] : List Instr).all (fun i =>
    acting i loading && (meets i loading fun e => (accesses e loading .read (addressOf e loading) EType.bytes EType.bytes (fun _ => false)
        (fun u _ parts => (u.readParts loading.g.part parts).1) [0]).2.all fun x => match x.2 with
          | .ok parts _ _ => (addressesOf parts).all fun a => !copied loading a
          | .trap _ _ _ => false) &&
      acting i (holding (holding loading 0x31 1) 0x11 1)) = true ∧ idle (.ld g2 g0 g1) (guarded loading 0 10) = true := by decide +kernel
theorem witness_Stores : ([.st g2 g0 g1, .stx g2 g0 g1, .stl g2 g0 g1] : List Instr).all (fun i =>
    acting i loading && acting i (losing loading) && idle i (guarded loading 0 10)) = true := by decide +kernel
/-- The block has one step of scratchpad, whose banks are its partition's; a is an offset. -/
def scratch (s : State) (a : Nat) : State :=
  let s := args (typed s 10) a 0 7
  { s with blocks := s.blocks.map fun b => { b with steps := [0] }
           mm := { s.mm with bankAssign := (List.range 32).map fun n => (n, 1) } }
-- The last element of the block's scratchpad, one byte further, and the first element outside it; in a curator group too.
theorem witness_Scratchpad : ([.ldp g2 g0 g1, .stp g2 g0 g1] : List Instr).all (fun i =>
    ([0, 65532, 65533, 65536] : List Nat).all fun a => acting i (scratch user a) && acting i (scratch curator a)) = true ∧
    (scratch user 0).scratchOk (scratch user 0).g 65532 4 = true ∧ (scratch user 0).scratchOk (scratch user 0).g 65533 4 = false := by decide +kernel
/-- The core holds update-only copies (R217). -/
def partialled : State := { user with mm := { user.mm with partials :=
  [{ core := 0, line := 0x400, opcode := 0x99, etype := 10, rnd := 0, ftz := false, agent := user.g.agent, parts := [(0, 5)] }] } }
theorem witness_Ordering : ([user, losing user, storing user] : List State).all (acting .fence) = true ∧ user.performed user.g 0 = true ∧
    (storing user).performed user.g 0 = false ∧ acting (.pf g0 g1) loading = true ∧
    ([(2 : Fin 4), 3] : List (Fin 4)).all (fun o => acting (.cctl (if o = 2 then g0 else .age 0) o) user && acting (.cctl (if o = 2 then g0 else .age 0) o) partialled) = true ∧
    ([moded user 0, moded user (3 * 2 ^ 13), losing (moded user (3 * 2 ^ 13)), storing user, waiting user 2 0 (some [])] : List State).all (fun s =>
      acting (.cctl (.age 0) 0) s && acting (.cctl s1 1) s) = true ∧
    (moded user (3 * 2 ^ 13)).g.widestScope 0 = 3 := by decide +kernel

/-! ### Atomics -/

-- Every lane; a single lane, whose place is in HBM; no lane. Types U32, FP32 and BF16x2.
theorem witness_Atomics : ([(.aadd g2 g0 g1, 10), (.afadd g2 g0 g1, 1), (.afadd g2 g0 g1, 4), (.amin g2 g0 g1, 10), (.amax .zero g0 g1, 10),
      (.aand g2 g0 g1, 10), (.aor g2 g0 g1, 11), (.axor g2 g0 g1, 10), (.axch g2 g0 g1, 10), (.acas g2 g0 g1, 10)] : List (Instr × Nat)).all (fun x =>
    acting x.1 (typed loading x.2) && idle x.1 (guarded loading 0 x.2) && meets x.1 (loneLane x.2) fun e =>
      let s := loneLane x.2
      acts e s == 1 && s.reach 0x20000 == .direct && s.mm.partials.isEmpty &&
        match ((s.consume e).resolve s.g 0 (argA e s 0) (etypeAt e s 0).bytes (etypeAt e s 0).elemBytes .atomic false).2 with
        | .ok parts _ _ => parts == [(0x20000, (etypeAt e s 0).bytes)]
        | .trap _ _ _ => false) = true := by decide +kernel
theorem witness_Reductions : ([(.redadd g0 g1, 10), (.redfadd g0 g1, 1), (.redmin g0 g1, 10), (.redmax g0 g1, 10)] : List (Instr × Nat)).all (fun x =>
    acting x.1 (typed loading x.2) && idle x.1 (guarded loading 0 x.2) && acting x.1 (loneLane x.2)) = true := by decide +kernel


/-- Stores of the core use n of its request entries (R182). -/
def crowded (s : State) (n : Nat) : State := { s with mm := { s.mm with stores := [{ token := 9, unit := 0, serial := 3, requests := n }] } }
-- The last entry free, and none.
theorem witness_requests : ([.ld g2 g0 g1, .ldx g2 g0 g1, .lda g2 g0 g1, .ldc g2 s0 s1, .st g2 g0 g1, .stx g2 g0 g1, .stl g2 g0 g1, .pf g0 g1, .aadd g2 g0 g1,
      .amin g2 g0 g1, .amax g2 g0 g1, .aand g2 g0 g1, .aor g2 g0 g1, .axor g2 g0 g1, .axch g2 g0 g1, .acas g2 g0 g1, .redadd g0 g1, .redmin g0 g1, .redmax g0 g1] :
      List Instr).all (fun i => acting i (crowded loading 4095) && acting i (crowded loading 4096)) = true ∧
    ([.afadd g2 g0 g1, .redfadd g0 g1] : List Instr).all (fun i => acting i (crowded (typed loading 1) 4095) && acting i (crowded (typed loading 1) 4096)) = true ∧
    (crowded loading 4095).requestsOf 0 = 4095 ∧ (crowded loading 4096).requestsOf 0 = 4096 ∧ loading.g.core = 0 := by decide +kernel
/-- Bank 0 is being zeroed for the partition until a clk (R84). -/
def zeroing (s : State) (clk : Nat) : State :=
  { s with cyc := 50, mm := { s.mm with bankBusy := [(0, clk)], bankNext := [(0, 1)] } }
theorem witness_zeroing : ([.ldp g2 g0 g1, .stp g2 g0 g1] : List Instr).all (fun i => [50, 51].all fun c => acting i (zeroing (scratch user 0) c)) = true ∧
    (zeroing (scratch user 0) 51).scratchBusy (scratch user 0).g 0 4 = 51 ∧ (zeroing (scratch user 0) 51).scratchBusy (scratch user 0).g 128 4 = 0 := by
  decide +kernel
/-! ### Asynchronous operations -/

/-- Every engine counter of the group is n. -/
def counting (s : State) (n : Nat) : State := s.modG fun g => { g with cnt := [0, 1, 2, 3, 4].map fun c => (c, n) }
/-- An operation of the issuing group, with its token, class and sequence number. -/
def opOf (token cls seq : Nat) : EngineOp :=
  { token := token, unit := 0, serial := 0, core := 0, gid := 0, cls := cls, seq := seq, opcode := 0xA0, kernel := 1 }
/-- s1 is the handle of an operation of a class, and a second one is in flight. -/
def handling (cls : Nat) : State := { inState user 0x11 (.pending 5) with ops := [opOf 5 cls 3, opOf 6 0 4] }

-- R184, R189: acceptance counts the operation and leaves the handle pending; at 64 the path stalls instead.
theorem test_cpy : (leads (exec (.cpy s0 s2 s1) user) fun t =>
    Store.getOr t.g.cnt 0 0 == 1 && t.ops.length == 1 && (t.g.regState 0x10).isPending) = true ∧
    (leads (exec (.cpy s0 s2 s1) (counting user 64)) fun t => t.ops.length == 0 && t.g.regState 0x10 == .full) = true := by decide +kernel

theorem witness_EngineAcceptance : ([.cpy s0 s2 s1, .cpy2 s0 s2 s1, .gthr s0 s2 s1, .sctr s0 s2 s1, .coll s0 s2 1 1, .coll s0 s2 0 0, .csld s0 s2 s1,
    .mxgemm s0 s2 s1, .quant s0 s2 s1, .probe s0 (.greg 4) s1, .rmul .zero s2 s1] : List Instr).all (fun i =>
      acting i user && acting i (counting user 63) && acting i (counting user 64) && idle i shut) = true := by decide +kernel
-- The counter at its limit, above it, and above it with a late operation; handles of a copy, a COLL and a completed operation.
theorem witness_CountersAndHandles : acting (.waitc s1 0) (counting user 0) = true ∧ acting (.waitc s1 0) (counting user 2) = true ∧
    (let s := { (counting user 2).modG (fun g => { g with late := [5] }) with ops := [opOf 5 0 3, opOf 6 0 4] }
     acting (.waitc s1 0) s = true ∧ (s.lateBlocks s.g 0).head? = some 5) ∧
    ([.rdcnt g0 4, .htest g0 s1, .hstat g0 s1, .hprom g0 s1, .hcanc s2 s1] : List Instr).all (fun i =>
      [handling 0, handling 1, handling 4, user].all (acting i)) = true ∧
    (handling 4).resolveOp s1 = some (opOf 5 4 3) ∧ (handling 0).resolveOp s1 = some (opOf 5 0 3) ∧ user.resolveOp s1 = none := by decide +kernel

/-! ### Barriers, grace periods and queues -/

/-- The kernel enables two grid barriers; its blocks have four groups, and barrier 1 of a block the group 1 only. -/
def gridded (s : State) : State := { s with kernels := s.kernels.map fun k => { k with gridEnable := 3, gpb := 4, bpc := 2, blockMasks := [0xF, 2] } }
/-- Every barrier 0 of the group is in phase 5, with the group's arrival in that phase. -/
def arrivedAt (s : State) : State :=
  let b : Barrier := { phase := 5 }
  { (s.modG fun g => { g with bars := [(0, b)], flags := [(16, 5), (32, 5), (48, 5)], slices := g.slices.map fun x => { x with flags := [(0, 5)] } }) with
    blocks := s.blocks.map (fun x => { x with bars := [(0, b)] })
    kernels := s.kernels.map fun k => { k with gridBars := [(0, b)], clusterBars := [(0, [(0, b)])] } }

-- R204 to R206: an arrival that completes the phase, one that does not, a count that does not agree (BARCOUNT, 0x0F), a path that is no
-- member (BARMEMBER, 0x10).
theorem test_bar : (leads (exec (.bar s1 1 0) (gridded (holding user 0x11 1))) fun t =>
      (let b := t.barrier t.g .block 0; (b.phase, b.count, b.arrived)) == (1, 0, 0) && t.p.wait.isNone) = true ∧
    (leads (exec (.bar s1 1 0) (gridded (holding user 0x11 2))) fun t => (t.barrier t.g .block 0) == { count := 2, arrived := 1 } && t.p.wait.isSome) = true ∧
    trapsGroup (.bar s1 1 0) (gridded (holding user 0x11 5)) 0x0F = true ∧ trapsGroup (.bar s1 1 1) (gridded user) 0x10 = true := by decide +kernel

theorem witness_Barriers : ([.bar s1 0 0, .bar s1 1 0, .bar s1 2 0, .bar s1 3 1, .bara s1 0 0, .bara s1 1 0, .bara s1 2 0, .bara s1 3 1] : List Instr).all
    (fun i => [gridded user, gridded (holding user 0x11 1), gridded (holding user 0x11 9), arrivedAt (gridded user), losing (gridded user),
      storing (gridded user), losing (storing (gridded user)), waiting (gridded user) 2 0 none, { user with kernels := [] }].all (acting i)) = true ∧
    ([.barw 0 0, .barw 1 0, .barw 2 0, .barw 3 0, .barq g0 0 0, .barq g0 3 0] : List Instr).all (fun i =>
      acting i user && acting i (arrivedAt (gridded user)) && acting i (waiting (arrivedAt (gridded user)) 1 4 none)) = true := by decide +kernel

/-- Every slice is at a read-side depth. -/
def sectioned (s : State) (d : Nat) : State := s.modG fun g => { g with slices := g.slices.map fun x => { x with depth := d } }
/-- The partition's deferred-free queue is full. -/
def freeFull (s : State) : State := s.modPart 0 fun p => { p with frees := List.replicate 4096 { addr := 0, size := 1, stamp := 1, ctx := 1 } }

-- R273: a section may nest to 15, and RSE needs one; both otherwise raise GPNEST, 0x1A.
theorem test_rsb : (leads (exec .rsb (sectioned user 14)) fun t => t.g.slices.all fun x => x.depth == 15) = true ∧
    trapsGroup .rsb (sectioned user 15) 0x1A = true ∧ trapsGroup .rse user 0x1A = true := by decide +kernel
-- R275, R279: GPSEQ gives the sequence number of a grace period that has not begun.
theorem test_gpseq : result (.gpseq g0) user 0x30 0 1 = true ∧
    result (.gpseq g0) (user.modPart 0 fun p => { p with running := true, done := 3, demand := 4 }) 0x30 0 5 = true := by decide +kernel

theorem witness_GracePeriods : ([0, 1, 14, 15] : List Nat).all (fun d => acting .rsb (sectioned user d) && acting .rse (sectioned user d)) = true ∧
    ([.tfence, .gpwait .zero, .gpwait s1, .gpseq g0, .dfree s1 s2] : List Instr).all (fun i =>
      [user, holding user 0x11 1, losing user, storing user, sectioned user 1, waiting user 2 0 none, freeFull user, freeFull (sectioned user 1),
        { user with oldBuckets := [{ desc := 0, pa := 0, lines := [0], ids := [1], units := [0], serial := 0, by_ := ~~~0, scope := 1, until_ := 50 }] }].all (acting i))
      = true := by decide +kernel

/-- s1 names queue 5, to which the context has the rights. -/
def queued (s : State) (push pop : Bool) : State :=
  { holding s 0x11 5 with queues := [(5, { ring := 0x30000, log2 := 6, grantees := [{ ctx := 1, push := push, pop := pop }] })] }

-- R260: without the right the answer is status 1; with it the request goes to the home.
theorem test_qpush : (leads (exec (.qpush s0 s1 g1) (holding user 0x11 5)) fun t => t.qreqs.isEmpty && t.qanswers.map (·.status) == [1]) = true ∧
    (leads (exec (.qpush s0 s1 g1) (queued user true true)) fun t => t.qreqs.map (·.packet) == [List.replicate 8 1]) = true := by decide +kernel

theorem witness_QueueInstructions : ([.qpush s0 s1 g1, .qpop g0 s1, .qtry 0 1 s1 g1, .qtry 1 1 s1 g1] : List Instr).all (fun i =>
    [holding user 0x11 5, holding user 0x11 5000, queued user true true, queued user true false, queued user false true, losing (queued user true true),
      storing (queued user true true), waiting (queued user true true) 2 5 (some [0, 1, 2, 3, 4, 5, 6, 7, 8]),
      waiting (queued user true true) 2 5 (some [1])].all (acting i)) = true := by decide +kernel

/-! ### Matrix units and tables -/

/-- Slots 0 and 1 hold BF16 and LNS8; the shape records 0 to 4 fit MMA, MMAS (A and B) and MMAL (A and B). -/
def shaped (s : State) : State :=
  s.modG fun g => { g with
    fslots := [(0, 2), (1, 6)]
    shapes := [(0, word (16 * 2 ^ 20 + 16)), (1, word (2 ^ 60 + 16 * 2 ^ 20 + 32)), (2, word (32 * 2 ^ 20 + 16)), (3, word (2 ^ 57 + 16 * 2 ^ 20 + 64)),
      (4, word (2 ^ 57 + 64 * 2 ^ 20 + 16))]
    gregs := [0, 1, 2, 3, 4, 5, 6, 7].map fun n => (n, { st := .full }) }
/-- A step of the group that its unit has accepted. -/
def stepAt (stamp : Nat) : MxStep :=
  { stamp := stamp, unit := 0, serial := 0, a := { opcode := 0xC0, block := [], shape := 0, act := 0 }, tile := 1, shapeB := 0, fsA := 2, fsB := 2, b := 0
    rnd := 0, ftz := false }
/-- The quadrant's unit is busy with two steps. -/
def unitBusy (s : State) : State := { s with mx := [(0, { st := .busy, steps := [stepAt 1, stepAt 2] })] }
/-- The group leads a gang of two, in slots 0 and 16. -/
def gangWord : Nat := 2 * 2 ^ 36 + 16 * 2 ^ 6
def ganged (s : State) : State :=
  let s := s.modG fun g => { g with gang := word gangWord }
  { s with groups := s.groups ++ [{ s.g with unit := 16, serial := 7 }] }
def arrivalOfStep (leader : Bool) (unit serial gang : Nat) : GangArrival :=
  { core := 0, leader := 0, path := 0, clk := 0, token := 70 + unit, gang := word gang, isLeader := leader, step := { stepAt 4 with unit := unit, serial := serial } }
/-- The instructions of each kind of step, with the records that fit. -/
def stepInstrs (a : Opnd) : List Instr := [.mma 0 0 1 a s0, .mmas 2 1 1 a s0, .mmal 4 3 1 a s0]

-- R234, R235: a step that fits is accepted; a shape that does not raises SHAPE, 0x0C; a follower's form outside a gang GANG, 0x17.
theorem test_mma : (stepInstrs g0).all (fun i => leads (exec i (shaped user)) fun t => (t.mxUnit 0).steps.length == 1) = true ∧
    trapsGroup (.mma 2 0 1 g0 s0) (shaped user) 0x0C = true ∧ trapsGroup (.mma 0 0 1 .zero s0) (shaped user) 0x17 = true := by decide +kernel

theorem witness_MatrixSteps : (stepInstrs g0).all (fun i =>
    [shaped user, unitBusy (shaped user), ganged (shaped user), unitBusy (ganged (shaped user)), waiting (ganged (shaped user)) 1 9 (some []),
      (shaped user).modG fun g => { g with gang := word gangWord },
      { ganged (shaped user) with gangs := [arrivalOfStep false 16 7 gangWord] },
      { ganged (shaped user) with gangs := [arrivalOfStep false 16 7 (gangWord + 2 ^ 36)] }].all (acting i)) = true ∧
    ([.mma 2 0 1 g0 s0, .mma 0 0 1 .zero s0] : List Instr).all (fun i => acting i (shaped user)) = true ∧
    idle (.mma 0 0 1 g0 s0) (shaped shut) = true ∧ (ganged (shaped user)).gangBroken (ganged (shaped user)).g (word gangWord) = false := by
  decide +kernel
theorem witness_MatrixControl : ([.accz false 0, .accz true 2, .accrd g0 false 0 s1, .accrd g0 true 0 s1, .accwr false 1 g1 s1, .accwr true 0 g1 s1,
    .gang s1, .mxhint s1, .mxstat g0 0, .mxstat g0 1, .mxstat g0 2, .mxstat g0 3] : List Instr).all (fun i =>
      [user, unitBusy user, holding user 0x11 gangWord, holding user 0x11 31].all (acting i)) = true ∧
    gangOk (word gangWord) 0 = true ∧ gangOk 31 0 = false := by decide +kernel

/-- hf0 is bound to a table. -/
def bound (s : State) : State := s.modG fun g => { g with
  hf := [(0, { desc := 0x20000, lm1 := 0, valid := true })]
  gregs := [0, 1, 2, 3, 4, 5, 6, 7].map fun n => (n, { st := .full }) }
/-- The answer to the path's request has come. -/
def answered (s : State) (a : TAnswer) : State := { waiting s 1 9 (some []) with tanswers := [{ a with token := 9 }] }

-- R289, R291: HFAM with z unbinds the register; TSTAT 4 gives its word.
theorem test_hfam : (leads (exec (.hfam s0 .zero 0) (bound user)) fun t => !(t.g.hfReg 0).valid && t.g.sval 0 == 1) = true ∧
    result (.tstat g0 4 0) (bound user) 0x30 0 0x20001 = true := by decide +kernel

theorem witness_TableInstructions : ([.hfam s0 .zero 0, .hfam s0 s1 0, .tstat g0 0 0, .tstat g0 4 0, .tins g0 (.greg 4) g1, .tdel g0 (.greg 4) g1,
    .rehash s0 s1 s2, .hash (.greg 4) g1 s1] : List Instr).all (fun i =>
      [user, bound user, answered (bound user) { token := 0, vals := List.replicate 64 3 }, answered (bound user) { token := 0, vals := [0, 5] },
        answered (bound user) { token := 0, trap := some 0x14 }, answered (bound user) { token := 0, vals := [1], faults := [(3, 5, 1, 0x1234)] }].all (acting i))
      = true ∧ ([.tins g0 (.greg 4) g1, .tdel g0 (.greg 4) g1] : List Instr).all (fun i => idle i (bound shut)) = true := by decide +kernel

/-! ### Handlers, service requests and curators -/

/-- A lane of the user group in slot 0, detached with a record. -/
def recordAt (l : Nat) (pc : Word) : TrapRec :=
  { ctx := 1, core := 0, slot := 0, lane := l, cause := 4, dest := 0x30, status := 0, instr := 0, pc := pc, fault := 0, a := 0, b := 0, c := 0, repair := 0
    unit := 0, serial := 50, part := 0, world := 0, kernel := 1 }
/-- The handler group, with its lanes 0 and 2 bound to lanes 3 and 1 of the user group; s1 holds v. -/
def binding (v : Nat) (pc : Word) : State :=
  let s := (holding (holding handler 0x31 0x31) 0x11 v).modG fun g => { g with bound := [(0, { folio := 1, pos := 0 }), (2, { folio := 1, pos := 1 })] }
  let og : Group := { user.g with serial := 50, slices := user.g.slices.map fun x => if x.idx = 0 then { x with run := 5, detached := 10 } else x }
  { s with
    groups := og :: s.groups
    parts := [(0, { s.part 0 with folios := [{ num := 1, half := 0, part := 0, world := 0, cause := 4, entry := 0x5000, owner := 1, st := 3
                                               recs := [some (recordAt 3 pc), some (recordAt 1 pc)], handler := some s.cur.unit }] })] }

-- R331: HRET 0, 1 and 2 retire the handler's lanes; RETRY and SKIP send the threads back. A value of 3 raises ILLEGAL.
theorem test_hret : ([0, 1] : List Nat).all (fun v => leads (exec (.hret s1) (binding v 0x4000)) fun t => t.resuming.length == 2) = true ∧
    (leads (exec (.hret s1) (binding 2 0x4000)) fun t => t.resuming.length == 0) = true ∧
    leads (exec (.hret s1) (binding 3 0x4000)) (fun t => !t.hasGrp 15) = true := by decide +kernel

theorem witness_HandlerInstructions : ([0, 1, 2, 3] : List Nat).all (fun v => acting (.hret s1) (binding v 0x4000) && acting (.xrd g0 g1 .lit) (binding v 0x4000)) = true ∧
    acting (.hret s1) (losing (binding 0 0x4000)) = true ∧ acting (.hret s1) (binding 0 0x4007) = true ∧ codeOk 0x4007 = false ∧ acting .hkill (binding 0 0x4000) = true ∧
    ([binding 0 0x4000, waiting (binding 0 0x4000) 1 9 (some [])] : List State).all (fun s => acting (.xrd g0 g1 .zero) s && acting (.xwr g1 g2) s &&
      meets (.xwr g1 g2) s fun e => (s.operands e).originTrap? == none) = true ∧
    (meets (.xwr g0 g2) (binding 0 0x4000) fun e => ((binding 0 0x4000).operands e).originTrap? != none) = true := by decide +kernel

/-- Core 0's mailbox holds entries, taken or not. -/
def mailing (s : State) (n : Nat) (taken : Bool) : State :=
  { s with mail := [(0, (List.range n).map fun i => { index := i, words := (List.range 8).map fun w => word (w + 1), taken := taken, serial := 70 })] }
/-- A new curator image waits to be taken over. -/
def switching (s : State) : State := { s with mgmt := { s.mgmt with pending := some (5, 3) } }

-- R365: MBXGET takes the oldest entry's words into lanes 0 to 7.
theorem test_mbxget : (leads (exec (.mbxget g0) (mailing curator 2 false)) fun t => (t.g.regVal 0x30).at 3 == 4 && ((t.mailbox 0).map (·.taken)) == [true, false])
    = true := by decide +kernel

theorem witness_Mailboxes : ([user, mailing user 15 false, mailing user 16 false, losing user, storing user, shut] : List State).all
      (meets (.svc s0 s2 0x21)) = true ∧
    ([curator, mailing curator 3 false, mailing curator 3 true, switching curator, switching (mailing curator 3 false)] : List State).all (acting (.mbxget g0)) = true ∧
    ([curator, mailing (holding curator 0x11 1) 3 true, losing (mailing (holding curator 0x11 1) 3 true), storing (mailing (holding curator 0x11 1) 3 true)] : List State).all
      (acting (.mbxput s0 s1 s2)) = true ∧
    ((mailing curator 3 true).mailbox 0).find? (fun m => m.taken && (mailing curator 3 true).mailTag 0 m.index == 1) ≠ none ∧
    (switching (mailing curator 3 false)).mustSwitch 0 = true ∧ curator.mustSwitch 0 = false ∧
    -- An entry of the device's own among those that the switch answers, and none
    ([0, 0x1F] : List Nat).all (fun c =>
      let s := switching (mailing curator 3 false)
      let s := { s with mail := s.mail.map fun x => (x.1, x.2.map fun m => { m with code := c }) }
      acting (.mbxget g0) s && ((s.unserved 0).any fun m => m.code == 0x1F) == (c == 0x1F)) = true := by decide +kernel
theorem witness_CuratorInstructions : ([curator, holding curator 0x13 9, losing (holding curator 0x13 1), storing (holding curator 0x13 1),
    waiting curator 1 9 (some [5]), waiting curator 2 9 (some [5]), waiting curator 2 9 none] : List State).all (fun s =>
      ([.ctxld s0 s1 s2, .ctxst s0 s1 s2, .tlbi s0 s2 0, .tlbi s0 s2 1, .tlbi s0 s2 4, .pmset s0 s1 false, .pmset s0 s1 true] : List Instr).all
        (acting · s)) = true := by decide +kernel

/-! ### Issue, traps and records -/

-- R37: each check, in its order; the first that fails names the trap.
theorem test_checks : trapsGroup .hkill user 0x0A = true ∧ trapsGroup (.mov g0 .none) user 0x09 = true ∧
    trapsGroup (.mov g0 (.greg 190)) (user.modG fun g => { g with alloc := 100 }) 0x15 = true ∧ trapsGroup (.mov g0 (.age 0)) user 0x08 = true ∧
    trapsGroup (.mov g0 g1) (inState user 0x31 .lost) 0x1B = true ∧
    trapsGroup (.mov g0 g1) { inState user 0x31 .opened with cur := { user.cur with ctl := 16 } } 0x06 = true := by decide +kernel

theorem witness_IssueChecks : (entryOf .hkill user).any (fun e => !permitted e user) = true ∧
    (entryOf (.mov g0 .none) user).any (fun e => permitted e user && !lawful e user) = true ∧
    (let s := user.modG fun g => { g with alloc := 100 }
     (entryOf (.mov g0 (.greg 190)) s).any (fun e => permitted e s && lawful e s && !inAllocation e s) = true) ∧
    (entryOf (.mov g0 (.age 0)) user).any (fun e => lawful e user && inAllocation e user && firstIssue user && !upperValid e user) = true ∧
    (let s := inState user 0x31 .dead
     (entryOf (.mov g0 g1) s).any (fun e => lawful e s && inAllocation e s && upperValid e s && !hasRead s && !noneDead e s) = true) ∧
    (let s := inState user 0x31 .lost
     (entryOf (.mov g0 g1) s).any (fun e => lawful e s && inAllocation e s && upperValid e s && noneDead e s && !noneLost e s) = true) ∧
    (let s := { inState user 0x31 .opened with cur := { user.cur with ctl := 16 } }
     (entryOf (.mov g0 g1) s).any (fun e => readable e s && lawful e s && inAllocation e s && (e.trapping s.cur.ctl).any fun r => (s.g.regState r).isEmpty) = true) ∧
    (let s := inState user 0x31 (.pending 5)
     (entryOf (.mov g0 g1) s).any (fun e => readable e s && lawful e s && awaitedSources e s == [0x31] && !s.g.stranded [0x31] && !s.g.lateReg 0x31) = true) := by
  decide +kernel
-- A usable entry at depths 0 and 1; none; depth 2; a handler group.
theorem witness_TrapTaking : ((handled user).usableEntry (handled user).g).2 = some 0x5000 ∧ (user.usableEntry user.g).2 = none ∧
    handler.g.kind = .handler ∧ user.hasGrp user.cur.unit = true ∧ (user.trapGroup 9).hasGrp 0 = false ∧ (curator.trapGroup 9).hasGrp 63 = true ∧
    (let r := recordAt 31 0x4005
     r.level < 3 ∧ r.reason < 8) ∧ ((binding 0 0x4000).recOf? (binding 0 0x4000).g 0).isSome = true := by decide +kernel
theorem witness_DecodeEncode : Instr.wf (.mov g0 (.cache 2)) = true ∧ encode (.mov g0 (.cache 2)) ≠ noWord ∧ (entryOf (.mov g0 g1) user).isSome = true := by
  decide +kernel
theorem witness_EncodeDecode : (0x20303131 < 2 ^ 32 ∧ decode 0x20303131 = .ok (.iadd g0 g1 g1)) ∧ decode 0xFFFFFFFF = .ok (.reservedOpcode 0xFFFFFFFF) :=
  ⟨⟨by decide, rfl⟩, rfl⟩

/-! ### Steps -/

/-- Right after placing: nothing is due, and the group issues. -/
def placed (w : Nat) : State := State.reset.withFetchWord 32 w

-- R3, R18: the placed word is fetched and runs.
theorem test_step : (leads (step (placed 0x01000005)) fun t => t.groups.all fun g => g.slices.all fun x => x.pc == 0x4000 + 32 * 6) = true := by decide +kernel

theorem witness_StepRunsDecoded : ([0x01000005, 0x70060101, 0xFF000000] : List Nat).all (fun w =>
    let s := placed w
    let v := s.observe
    s.powered && s.mgmt.power == 0 && s.dueEvent.isNone && v.dueExchange.isNone && match v.issuer with
      | some g => !v.deliverable g && v.choose g == some 0 && ((v.grp g.unit).path 0).buf.isNone &&
          leads (exec (.bundleFetch g.unit 0) v) fun t => ((t.grp g.unit).path 0).buf.isSome
      | none => false) = true ∧ (user.observe.issuer.bind fun g => ((user.observe.grp g.unit).path 0).buf).isSome = true ∧
    (let s := ((placed 0).modG fun g => { g with ints := [{ vec := 3, scope := 0, due := 0 }] }).observe
     (s.issuer.map fun g => s.deliverable g) = some true) := by decide +kernel
-- An event is due; a group of the pending set is brought in; no group can issue; and a power state in which nothing issues.
theorem witness_StepRunsDecoded_other : ((placed 0).schedule 0 (.sleepWake 0)).dueEvent.isSome = true ∧
    (let s := user.modG fun g => { g with st := .pending }
     s.dueEvent.isNone && s.observe.dueExchange.isSome) = true ∧
    (let s := user.modG fun g => { g with st := .stopped true }
     s.dueEvent.isNone && s.observe.dueExchange.isNone && s.observe.issuer.isNone) = true ∧
    ([1, 3] : List Nat).all (fun n =>
      let s := { user with mgmt := { user.mgmt with power := n } }
      s.powered && s.dueEvent.isNone && s.mgmt.power != 0) = true := by decide +kernel
theorem witness_StepKeepsMemoryForm : State.reset.mm.wf ∧ leads (step (placed 0)) (fun _ => true) = true := by decide +kernel
-- R86, R87: without power a step has no behaviour but the return of power.
theorem test_unpowered : step { State.reset with powered := false } = .fault .unpowered := rfl

/-! ### Events of issue and scheduling -/

/-- The group in slot 0 changed. -/
def grouped (s : State) (f : Group → Group) : State := s.modGrp 0 f
/-- The path's bundle is not fetched yet; its code address is pc. -/
def entering (pc : Word) : State :=
  grouped user fun g => { g with slices := g.slices.map fun x => { x with pc := pc }, paths := [{ id := 0 }] }
/-- The path stands in a bundle of its reconvergence point. -/
def arriving : State := grouped user fun g => { g with
  slices := g.slices.map fun x => { x with rcv := [{ rpc := 0x4000, tag := 1, member := 15, mode := 0, retDepth := 0 }] }
  paths := [{ id := 0, buf := some { addr := 0x4000, control := 2 ^ 60, slots := [0, 0, 0, 0, 0, 0] } }] }
/-- Quadrant 0 holds n active groups, and a pending group in slot 9 that is ready; the active ones offer their places or not. -/
def quadOf8 (n : Nat) (offer : Bool) : State :=
  let g := { user.g with yielding := offer }
  { user with groups := ((List.range n).map fun i => { g with unit := i, serial := i, lastIssue := 10 - i }) ++ [{ user.g with unit := 9, serial := 9, st := .pending, readySince := some 0, drowsy := true }] }
/-- The same after 5,000 clk, when the pending group is overdue. -/
def overdue : State := { quadOf8 8 false with cyc := 5000 }
/-- The group has a vector that is due, and a group handler. -/
def interrupted (s : State) : State := grouped s fun g => { g with ints := [{ vec := 7, scope := 0, due := 0 }, { vec := 3, scope := 0, due := 0 }] }

-- R140 and R143: a delivery takes the lowest due vector into %tpc and the interrupted code address into %uipc, cause 0x19.
theorem test_delivery : (leads (exec (.userInterruptDelivery 0) (interrupted (handled user))) fun t =>
    (t.grp 0).tpc == 3 && (t.grp 0).uipc == 0x4000 && (t.grp 0).tcause == 0x19 && (t.grp 0).ints.map (·.vec) == [7]) = true := by decide +kernel
-- R100: a fetch from an address that is not mapped is a page fault of the lanes, which detach.
theorem test_fetch_fault : (leads (exec (.bundleFetch 0 0) (entering 0x40000000)) fun t => (t.grp 0).slices.all fun x => x.detached == 15) = true := by
  decide +kernel

theorem witness_SchedulingEvents : (((entering 0x4000).grp 0).pathSlices 0 ≠ [] ∧ (entering 0x4000).hasGrp 0 = true) ∧
    (match ((entering 0x4000).fetchAt ((entering 0x4000).grp 0) 0x4000).2 with
     | .inl b => b.charged == none
     | .inr _ => false) = true ∧
    (let s := { entering 0x4000 with mm := (entering 0x4000).mm.setBytes 0x4007 [0x80] }
     match (s.fetchAt (s.grp 0) 0x4000).2 with
     | .inl b => b.charged.isSome
     | .inr _ => false) = true ∧
    ((entering 0x40000000).fetchAt ((entering 0x40000000).grp 0) 0x40000000).2.isRight = true ∧
    (arriving.grp 0).pathArrives ((arriving.grp 0).path 0) = true ∧ (user.grp 0).pathArrives ((user.grp 0).path 0) = false ∧
    (user.exchangeDue 0 = false ∧ user.forced 0 = none) ∧
    ((quadOf8 3 false).incoming 0).map (·.unit) = some 9 ∧ (quadOf8 3 false).exchangeDue 0 = true ∧ ((quadOf8 3 false).actives 0).length = 3 ∧
    (quadOf8 8 true).exchangeDue 0 = true ∧ ((quadOf8 8 true).outgoing 0).map (·.unit) = some 7 ∧ ((quadOf8 8 true).actives 0).length = 8 ∧
    (overdue.forced 0).isSome = true ∧ overdue.mgmt.power = 0 ∧
    (interrupted user).deliverable ((interrupted user).grp 0) = true ∧ ((interrupted user).usableEntry ((interrupted user).grp 0)).2 = none ∧
    ((interrupted (handled user)).usableEntry ((interrupted (handled user)).grp 0)).2 = some 0x5000 ∧
    (let s := interrupted (handled user)
     (s.grp 0).paths.any fun x => (s.grp 0).takes x && s.pathReady (s.grp 0) x) = true := by
  decide +kernel

/-! ### Events of memory and translation -/

/-- A load of lanes 0 and 3 into a register is in flight; its data may be lost. -/
def flying (r : RegCode) (lost : Bool) : State :=
  let s := inState user r (.pending 5)
  let lane (l v : Nat) : FlightLane := { lane := l, value := word v, va := 0x20000, a := 0, b := 0, c := 0, lost := lost && l == 3 }
  { s with mm := { s.mm with flights := [{ token := 5, unit := 0, serial := 0, reg := r, pc := 0x4000, instr := 0, atomic := false, dest := r
                                           lanes := [lane 0 11, lane 3 11] }] } }
/-- A CCTL waits for the invalidation of token 5, of every bundle or of the line of an address. -/
def cctlWaits (line : Option Word) : State :=
  let s := user.modP fun q => { q with wait := some { why := .answer, keep := false, stage := 2, arg := 5, a := line.map Lanes.uniform } }
  { s with mm := { s.mm with code := [{ pa := 0x4000, bytes := [1], agent := { unit := 0 } }, { pa := 0x8000, bytes := [2], agent := { unit := 0 } }] } }
/-- Context 1 has a packet, and translations are cached; an access that holds a page of it is not performed, or none. -/
def invalidating (held : Bool) : State :=
  { user with
    packets := [{ id := 6, part := 0, started := true }]
    mm := { user.mm with
      seen := [{ stage2 := false, ctx := 1, dom := 0, part := 0, pa := 0x11000, base := 0, size := 2 ^ 30, value := 31 },
        { stage2 := true, ctx := 0, dom := 0, part := 0, pa := 0x13000, base := 0, size := 2 ^ 30, value := 31 }]
      stores := if held then [{ token := 7, unit := 0, serial := 0, held := [{ ctx := 1, dom := 0, part := 0, va := 0x20000, ipa := 0x20000 }]
                                lanes := [{ lane := 3, value := 0, va := 0x20000, size := 8, a := 0, b := 0, c := 0, act := some .shared }] }] else [] } }
/-- An invalidation of context 1 is under way, for a packet or for a TLBI. -/
def underway (packet : Option Nat) (held : Bool) (cyc : Nat) : State :=
  { invalidating held with cyc := cyc, invals := [{ token := 5, kind := 1, addr := 0, id := 1, part := 0, since := 0, packet := packet }] }


-- A port that the access needs retrains, or its quadrant is being zeroed.
def portDown (s : State) : State := { s with ports := [(1, { st := .retraining })] }
def flyingOver (ports : List Nat) (busy : Nat) : State :=
  let s := portDown (flying 0x31 false)
  { s with mm := { s.mm with flights := s.mm.flights.map fun f => { f with lanes := f.lanes.map fun x => { x with ports := ports } }
                             quadBusy := if busy = 0 then [] else [(0, busy)] } }
def storingOver (ports : List Nat) : State :=
  let s := portDown (storing user)
  { s with mm := { s.mm with stores := s.mm.stores.map fun x => { x with ports := ports } } }

-- R69: the data of a load come in the lanes that the load had; the other lanes keep their value.
theorem test_load_data : (leads (exec (.longLatencyComplete 5) (flying 0x31 false)) fun t =>
    (t.g.regVal 0x31).at 3 == 11 && (t.g.regVal 0x31).at 1 == 1 && t.g.regState 0x31 == .full) = true ∧
    (leads (exec (.longLatencyComplete 5) (flying 0x31 true)) fun t => t.g.regState 0x31 == .lost) = true := by decide +kernel
-- R391: an invalidation is not acknowledged while an access not performed holds what it removes, and aborts it after 65,536 clk.
theorem test_invalidation : (underway (some 6) true 65536).unsettled { token := 5, kind := 1, addr := 0, id := 1, part := 0, since := 0, packet := some 6 } = true ∧
    (leads (exec (.invalidationTimeout 5) (underway (some 6) true 65536)) fun t => t.invals.map (·.aborted) == [true]) = true := by decide +kernel

theorem witness_MemoryEvents_waits : ([([1], 0, true, false), ([0], 9, false, true), ([0], 0, false, false)] : List (List Nat × Nat × Bool × Bool)).all (fun x =>
      let s := flyingOver x.1 x.2.1
      (s.mm.flights.find? fun f => f.token == 5).any fun f => s.stuck f.links == x.2.2.1 &&
        decide (s.cyc < Store.getOr s.mm.quadBusy (quadOf f.unit) 0) == x.2.2.2) = true ∧
    ([([1], true), ([0], false)] : List (List Nat × Bool)).all (fun x =>
      let s := storingOver x.1
      (s.mm.stores.find? fun y => y.token == 9).any fun y => s.stuck y.ports == x.2) = true ∧
    -- An aborted access whose lane is still to act, and one whose lane has acted
    ([(some .shared, true), (none, false)] : List (Option PeerAct × Bool)).all (fun x =>
      let s := underway (some 6) true 65536
      let s := { s with mm := { s.mm with stores := s.mm.stores.map fun (y : Unperformed) => { y with lanes := y.lanes.map fun (z : FlightLane) => { z with act := x.1 } } } }
      (s.invals.find? fun i => i.token == 5).any fun i => s.unsettled i && (s.mm.stores.any fun y => y.lanes.any fun z =>
        z.act.isSome && (i.faultAt? y.held z).isSome) == x.2) = true := by decide +kernel
theorem witness_MemoryEvents : ([0x31, 0x11] : List RegCode).all (fun r => [false, true].all fun b =>
      let s := flying r b
      (s.mm.flights.find? fun f => f.token == 5).any (fun f => s.hasGrp f.unit && (s.grp f.unit).serial == f.serial &&
        (s.grp f.unit).regState f.reg == .pending f.token && f.lanes.any (·.lost) == b)) = true ∧
    user.mm.flights.find? (fun f => f.token == 5) = none ∧ ((storing user).mm.stores.find? fun x => x.token == 9).isSome = true ∧
    ([none, some 0x4000] : List (Option Word)).all (fun a => (cctlWaits a).groups.any fun g => g.paths.any fun q =>
      q.wait.any fun w => w.stage == 2 && w.arg == 5 && w.why == .answer && w.a == a.map Lanes.uniform) = true ∧
    (match ((cctlWaits (some 0x4000)).translate ((cctlWaits (some 0x4000)).groupSpace (cctlWaits (some 0x4000)).g) 0x4000 .fetch).2 with
     | .ok .. => true
     | _ => false) = true ∧
    (invalidating true).ctxStatus 6 1 = 0 ∧ user.ctxStatus 6 9 ≠ 0 ∧ user.ctxs.any (fun c => c.id == 1 && c.st != .destroyed && c.st != .migrated) = true ∧
    user.ctxs.any (fun c => c.id == 9) = false ∧
    ([(0, 0x20000, 1), (1, 0, 1), (2, 0x20000, 1), (3, 0, 0), (4, 0x20000, 0)] : List (Nat × BitVec 64 × Nat)).any (fun x =>
      (invalidating false).invalAllowed { token := 5, kind := x.1, addr := x.2.1, id := x.2.2, part := 0, since := 0, packet := some 6 }) = true ∧
    ([none, some 6] : List (Option Nat)).all (fun k => [true, false].all fun held => [65535, 65536].all fun c =>
      ((underway k held c).invals.find? fun i => i.token == 5).any fun i => (underway k held c).unsettled i == held && i.packet == k) = true := by
  decide +kernel
/-! ### Events of the engines and of the matrix unit -/

/-- A copy of n bytes from 0x4000 to 0x20000, of which done are done, with a status; s1 is its handle. -/
def copying (n done status : Nat) (cancel : Bool := false) (src : Word := 0x4000) (dst : Word := 0x20000) : State :=
  { counting (inState user 0x11 (.pending 5)) 1 with
    ops := [{ opOf 5 0 3 with dst := some 0x11, args := [src, dst, word n], done := done, status := status, cancel := cancel
                              space := { ctx := 1, root1 := 0x10000, root2 := 0x12000 } }] }
/-- A second copy stands behind it. -/
def copyingBehind (status : Nat) : State :=
  let s := copying 64 0 status
  { s with ops := opOf 4 0 2 :: s.ops }
/-- The path waits for the copy's handle, or for its counter. -/
def awaiting (why : Why) : State := (copying 64 0 0).modP fun q => { q with wait := some { why := why, keep := false } }
/-- A HASH of the path is under way, or was abandoned; its quadrant's unit is held. -/
def hashing (live : Bool) : State :=
  let s := waiting (bound user) 1 (if live then 5 else 6) none
  { s with ops := [{ opOf 5 5 0 with opcode := 0xD1, args := [0, 0, 0], work := [1] }], mx := [(0, { st := .held })] }
/-- The quadrant's matrix unit in a state since clk 0. -/
def unitAs (st : MxState) (cyc hint : Nat) (steps : List MxStep) (level : Nat := 0) : State :=
  { shaped user with cyc := cyc, mx := [(0, { st := st, since := 0, level := level, hint := hint, steps := steps })] }
/-- The arrivals of a gang of two, of its leader or of both members. -/
def gathered (opcode : Nat) (both : Bool) (tile : Nat := 1) : State :=
  let s : State := { ganged (shaped user) with cyc := 4 }
  let at_ (leader : Bool) (u serial op : Nat) : GangArrival :=
    { arrivalOfStep leader u serial gangWord with
      step := { stepAt u with unit := u, serial := serial, tile := tile, shapeB := word (16 * 2 ^ 20 + 16)
                              a := { opcode := op, block := [], shape := word (16 * 2 ^ 20 + 16), act := 1 } } }
  { s with gangs := at_ true 0 0 0xC0 :: if both then [at_ false 16 7 opcode] else [] }


-- R190: a unit of a copy is at most 128 bytes, up to the ends of the pages.
theorem test_copy_unit : (leads (exec (.macroStep 5) (copying 200 128 0)) fun t => t.ops.map (fun x => (x.done, x.status)) == [(200, 1)]) = true ∧
    (leads (exec (.macroStep 5) (copying 200 0 0 false 0x4FF0)) fun t => t.ops.map (fun x => (x.done, x.status)) == [(16, 0)]) = true ∧
    (leads (exec (.macroStep 5) (copying 16777216 0 0)) fun t => t.ops.map (fun x => (x.done, x.status)) == [(0, 4)]) = true := by decide +kernel
-- R186: the completed operation's word holds the bytes done, the sequence number, the class and the status.
theorem test_engine_complete : (leads (exec (.engineOpComplete 5) (copying 64 64 1)) fun t =>
    (t.g.regVal 0x11).at 0 == word (64 * 2 ^ 32 + 3 * 2 ^ 16 + 1) && t.g.regState 0x11 == .full && Store.getOr t.g.cnt 0 9 == 0) = true := by decide +kernel
-- R241: the unit is HELD for 256 clk, then ramps down for 32.
theorem test_unit_states : (leads (exec (.heldTimeout 0) (unitAs .held 256 0 [])) fun t => (t.mxUnit 0).st == .rampdown) = true ∧
    (leads (exec (.heldTimeout 0) (unitAs .held 255 0 [])) fun t => (t.mxUnit 0).st == .held) = true ∧
    (leads (exec (.rampdownEnd 0) (unitAs .rampdown 32 0 [])) fun t => (t.mxUnit 0).st == .cold) = true := by decide +kernel
-- R240: both members' steps are accepted together; members whose steps are of two opcodes trap with GANG, 0x17.
theorem test_gang_accept : (leads (exec (.gangStepAccept 0) (gathered 0xC0 true)) fun t => t.gangs.isEmpty && (t.mxUnit 0).steps.length == 1) = true ∧
    (leads (exec (.gangStepAccept 0) (handled (gathered 0xC2 true))) fun t => (t.grp 16).tcause == 0x17) = true := by decide +kernel

theorem witness_EngineEvents : user.ops.find? (fun x => x.token == 5) = none ∧
    ([(copying 64 0 0, true, 0), (copying 64 64 1, true, 1), (copyingBehind 1, false, 1), (copyingBehind 0, false, 0)] : List (State × Bool × Nat)).all
      (fun (s, first, st) => (s.ops.find? fun x => x.token == 5).any fun op =>
        ((s.classOps op.serial op.cls).head?.map (·.token) == some 5) == first && op.status == st && s.g.serial == op.serial &&
        ((s.headOp op).map (·.token) == some 5) == (first && st == 0) && op.dst == some 0x11 && s.g.regState 0x11 == .pending 5) = true ∧
    ((copying 64 0 0 true).ops.any (·.cancel)) = true ∧
    ([true, false] : List Bool).all (fun b => (hashing b).ops.any fun op => op.cls == 5 && (hashing b).hashLive op == b) = true ∧
    ([(.held, true), (.busy, true), (.cold, false), (.rampup, false)] : List (MxState × Bool)).all (fun x =>
      let s := { hashing true with mx := [(0, { st := x.1 })] }
      s.ops.head?.any fun op => ((s.seqTurn op 8).2 == .begun 8) == x.2) = true ∧
    ([(copying 200 0 0, 0), (copying 16777216 0 0, 4), (copying 0 0 0, 1), (copying 200 128 0, 1), (copying 64 0 0 false 0x40000000, 5),
        (copying 64 0 0 false 0x4000 0x40000000, 5)] : List (State × Nat)).all (fun (s, st) => s.ops.any fun op => match (s.opUnit op).2 with
      | .more d _ => st == 0 && d == 128
      | .fin _ x => st != 0 && (x == st || st == 5 && x != 1)
      | .wait => false) = true ∧
    -- The source page of the unit's upper part is not mapped; the part below the line boundary is done.
    (let s := copying 64 0 0 false 0x3FFFFFF0
     s.ops.any fun op => (s.cpyBytes op 0x3FFFFFF0 0x20000 16).2.isLeft) = true ∧
    (let s := copying 64 0 0 false 0x40000000
     s.ops.any fun op => (s.cpyBytes op 0x40000000 0x20000 64).2.isRight && (s.engRead op 0 0x40000000 64).2.isRight) = true ∧
    (let s := copying 64 0 0 false 0x4000 0x40000000
     s.ops.any fun op => (s.engRead op 0 0x4000 64).2.isLeft && (s.cpyBytes op 0x4000 0x40000000 64).2.isRight) = true ∧
    ([Why.regs [0x11] [], .count 0 0] : List Why).all (fun w => (awaiting w).p.wait.any (·.why == w) && !(awaiting w).p.held) = true ∧
    ((unitAs .busy 0 0 []).mxUnit 0).steps = [] ∧
    ([(0, [stepAt 1]), (3, [stepAt 1]), (3, [stepAt 1, stepAt 2])] : List (Nat × List MxStep)).all (fun x =>
      ((unitAs .busy 9 x.1 x.2).mxUnit 0).st == .busy && (unitAs .busy 9 x.1 x.2).hasGrp 0 && (unitAs .busy 9 x.1 x.2).g.serial == 0) = true ∧
    ((unitAs .rampup 32 0 []).mxUnit 0).since + 8 * 4 ≤ (unitAs .rampup 32 0 []).cyc ∧ quadOf 0 = 0 ∧
    ([gathered 0xC0 true, gathered 0xC2 true, gathered 0xC0 false] : List State).all (fun s =>
      (((s.gangs.filter fun a => a.core == 0).map (·.leader)).eraseDups) == [0] && (s.latch 0 0).head?.any (·.isLeader) &&
      ((s.latch 0 0).head?.any fun r => !s.gangBroken (s.grp r.step.unit) r.gang)) = true ∧
    ([true, false] : List Bool).all (fun b => let s := gathered 0xC0 b
      (((s.latch 0 0).map (·.step.unit)).eraseDups.length == gangCount (word gangWord)) == b) = true ∧
    ((gathered 0xC0 true).latch 0 0).length = 2 ∧ (gathered 0xC0 true).gangs.all (fun m => m.step.shapeOk) = true ∧
    (let s := { gathered 0xC0 true with groups := user.groups }
     (s.latch 0 0).head?.any fun r => s.gangBroken (s.grp r.step.unit) r.gang) = true ∧ (∀ a ∈ user.gangs, a.core ≠ 0) := by
  decide +kernel

/-! ### Events of queues, tables and grace periods -/

/-- The path waits for token 5. -/
def asking : State := user.modP fun q => { q with wait := some { why := .answer, keep := false, stage := 2, arg := 5 } }
/-- Its request of a kind on queue 5, which has 64 entries and holds n; an older request waits there, perhaps. -/
def requesting (kind : QKind) (n : Nat) (pop : Bool) (older : Option QKind) : State :=
  let s := asking
  let r : QReq := { token := 5, queue := 5, unit := 0, serial := 0, ctx := 1, kind := kind, packet := List.replicate 8 7 }
  let old : List QReq := (older.map fun k => { r with token := 4, kind := k, waiting := true }).toList
  { (s.modG fun g => { g with paths := g.paths ++ [{ id := 1, wait := some { why := .answer, keep := false, stage := 2, arg := 4 } }] }) with
    qreqs := old ++ [r]
    queues := [(5, { ring := 0x30000, log2 := 6, head := 10, tail := 10 + n, grantees := [{ ctx := 1, push := true, pop := pop }] })] }
def queueAnswered (token : Nat) : State := { asking with qanswers := [{ token := token, status := 0, packet := [1, 2] }] }
/-- Bytes, by address, after those listed. -/
def listed (s : State) (cells : List (Nat × Byte)) : State := { s with mm := { s.mm with cells := s.mm.cells ++ cells } }
/-- The bytes that are not 0 of a descriptor of tables of 2 buckets and 4 rows, with a successor or not (R284). -/
def descCells (pa tables : Nat) (succ : Bool) (cursor : Nat) : List (Nat × Byte) :=
  [(pa, 5), (pa + 1, BitVec.ofNat 8 tables), (pa + 2, 1), (pa + 8, 16), (pa + 0x0C, 4), (pa + 0x11, 0x10), (pa + 0x12, 3), (pa + 0x19, 0x20), (pa + 0x1A, 3),
    (pa + 0x21, 0x30), (pa + 0x22, 3), (pa + 0x28, 32)] ++ (if succ then [(pa + 0x40, 0x80), (pa + 0x42, 2)] else []) ++
    (if cursor = 0 then [] else [(pa + 0x48, BitVec.ofNat 8 cursor)]) ++ [(pa + 0x50, 1)]
/-- A request of a kind to the unit of that table; its first bucket holds rows 2 and 3. -/
def tabling (kind : TKind) (started : Bool) (desc : Word) (tables := 1) (succ := false) (cursor := 0) (steps := 1) (lm1 := 0) : State :=
  { listed asking (descCells 0x20000 tables succ cursor ++ descCells 0x20080 tables false 0 ++ [(0x31000, 2), (0x31008, 2), (0x3100C, 3)]) with
    treqs := [{ token := 5, unit := 0, serial := 0, kind := kind, desc := desc, space := asking.groupSpace asking.g, part := 0, world := 0, gallery := 0, sel := 0
                lanes := [{ lane := 0, row := 2, cur := [0], succ := [0] }, { lane := 3, row := 3, cur := [1], succ := [0] }], started := started
                steps := steps, slots := [2], lm1 := lm1 }] }
/-- Partition 0's grace controller, with entries whose stamps are 1 and 2. -/
def gracing (running : Bool) (holdouts : List Holdout) (demand : Nat) (ready : List FreeEntry) : State :=
  let e (n : Nat) : FreeEntry := { addr := 0x1000, size := 16, stamp := n, ctx := 1 }
  user.modPart 0 fun p => { p with running := running, holdouts := holdouts, demand := demand, frees := [e 1, e 2], ready := ready }
/-- Entry 0 of the partition's region table is valid and names the area at 0x60000 (R17, R278). -/
def rooted (s : State) : State := { s with mm := (s.mm.setBytes 0 [1]).setBytes 0x38 (leBytes 0x60000 8) }
/-- The release ring's indexes. -/
def ring (prod cons : Nat) (s : State) : State :=
  let s := rooted s
  { s with mm := (s.mm.setBytes 0x60000 (leBytes prod 4)).setBytes 0x60008 (leBytes cons 4) }
def freed (n : Nat) : FreeEntry := { addr := word (4096 * n), size := 16, stamp := n, ctx := 1 }

/-- What the request finds: a valid table with so many tables, with a successor or not, and its cursor short of the end or not; or none. -/
def finds (s : State) (succ : Bool) (tables : Nat) (turn : Bool) : Bool :=
  s.treqs.any fun r => match (s.readTable r.space r.slots r.desc).2 with
    | .ok d x _ => x.isSome == succ && d.tables == tables && (d.cursor < 2 ^ d.bits) == turn
    | _ => false
def findsNone (s : State) : Bool :=
  s.treqs.any fun r => match (s.readTable r.space r.slots r.desc).2 with
    | .ok .. => false
    | _ => true
/-- The TINS or HFAM of token 5 at the path's address, into g0 in lanes 1 and 3 (R295). -/
def pastAsk (hf : Option (Nat × Word)) (held : Bool) : Passed :=
  { token := 5, pc := 0x4000, instr := 0xD3000000, next := 0x4002, dest := 0x30, act := 10, by_ := ~~~0, a := [], b := [], dead := [0x31], hf := hf, held := held }
/-- A pre-emption has halted the group past it, and perhaps the group has been resumed; the answer has come. -/
def passing (hf : Option (Nat × Word)) (held : Bool) (vals : List Word) (trap : Option Nat := none) (faults : List (Nat × Nat × Nat × Word) := []) : State :=
  { user.modG (fun g => { g.setRegState 0x30 (.pending 5) with passed := [pastAsk hf held] }) with
    tanswers := [{ token := 5, vals := vals, trap := trap, faults := faults }] }
/-- The path that waits belongs to a saved group. -/
def askingSaved : State := { asking with groups := [], ctxs := asking.ctxs.map fun c => { c with saved := asking.groups } }

-- R260, R261: a push into a full queue waits at the home, a QTRY gets status 3, and a push with room stores its packet at the tail.
theorem test_queue_serve : (leads (exec (.queueRequestServe 5) (requesting .push 64 true none)) fun t => t.qreqs.map (·.waiting) == [true]) = true ∧
    (leads (exec (.queueRequestServe 5) (requesting .tryPush 64 true none)) fun t => t.qanswers.map (·.status) == [3]) = true ∧
    (leads (exec (.queueRequestServe 5) (requesting .push 1 true none)) fun t => (t.queue? 5).any fun x =>
      x.tail == 12 && Store.getOr x.packets 11 [] == List.replicate 8 7) = true := by
  decide +kernel
-- R275, R277: a completed grace period readies the entries whose stamp it reaches; an entry goes to the release ring.
theorem test_grace : (leads (exec (.gracePeriodComplete 0) (gracing true [] 2 [])) fun t =>
      (t.part 0).done == 1 && (t.part 0).running && (t.part 0).ready.map (·.stamp) == [1] && (t.part 0).frees.map (·.stamp) == [2]) = true ∧
    (leads (exec (.releaseRingAppend 0) (ring 7 0 (gracing false [] 0 [freed 3]))) fun t =>
      t.mm.num 0x60000 4 == 8 && t.mm.num (0x61000 + 32 * 7) 8 == 4096 * 3) = true := by decide +kernel
/-- R260, R261: a push that meets a waiting pop is one put and one take, and leaves nothing stored. -/
theorem test_queue_hand : (leads (exec (.queueRequestServe 5) (requesting .push 0 true (some .pop))) fun t => t.qanswers.map (·.packet.length) == [0, 8] &&
    (t.queue? 5).any fun x => x.head == 11 && x.tail == 11 && x.packets == []) = true := by decide +kernel
-- R292, R296: the state word of a table without a successor is ACTIVE; a REHASH without one is status 2, once its turn has come.
theorem test_table_step : (leads (exec (.tableUpdateStep 5) (tabling .tstat true 0x20000)) fun t => t.tanswers.map (·.vals) == [[0x100000000]]) = true ∧
    (leads (exec (.tableUpdateStep 5) (tabling .rehash true 0x20000)) fun t => t.tanswers.map (·.vals) == [[0x200000000]]) = true ∧
    (leads (exec (.tableUpdateStep 5) (tabling .rehash false 0x20000)) fun t => t.treqs.map (fun r => (r.started, r.steps)) == [(true, 0)]) = true := by decide +kernel

/-- The request that the home of queue 5 serves next. -/
def nextServed (s : State) : Option QReq :=
  firstBy (fun a b => decide (a.due < b.due)) ((s.qreqs.filter s.qreqLive).filter fun r => r.queue == 5 && !r.waiting && decide (r.due ≤ s.cyc))

theorem witness_ServiceEvents_queues : nextServed user = none ∧
    nextServed { requesting .pop 1 true none with qreqs := (requesting .pop 1 true none).qreqs.map fun r => { r with due := 99 } } = none ∧
    ([(requesting .push 1 true none, false), (requesting .push 64 true none, true), (requesting .push 1 true (some .push), true),
      (requesting .tryPush 64 true none, true), (requesting .pop 1 true none, false), (requesting .pop 0 true none, true),
      (requesting .tryPop 0 true none, true)] : List (State × Bool)).all (fun x =>
      (nextServed x.1).any fun r => x.1.queueStatus r.ctx 5 r.kind == 0 && r.token == 5 &&
        (x.1.queue? 5).any fun q => (if r.kind.isPush then q.isFull || (x.1.oldestWaiting 5 true).isSome
          else q.held == 0 || (x.1.oldestWaiting 5 false).isSome) == x.2) = true ∧
    (let s := requesting .push 0 true (some .pop)
     (nextServed s).isSome && (s.oldestWaiting 5 false).isSome && (s.oldestWaiting 5 true).isNone && (s.queue? 5).any fun q => q.held == 0) = true ∧
    (requesting .pop 1 false none).queueStatus 1 5 .pop = 1 ∧
    ((queueAnswered 5).qanswers.find? fun a => a.token == 5).isSome = true ∧ (user.qanswers.find? fun a => a.token == 5).isNone = true := by
  decide +kernel
theorem witness_ServiceEvents_tables : (user.treqs.find? fun r => r.token == 5).isNone = true ∧
    ([.hfam, .tstat, .tins, .tdel, .rehash] : List TKind).all (fun k => [true, false].all fun b =>
      (tabling k b 0x20000).treqs.any fun r => r.token == 5 && r.kind == k && r.started == b && r.steps != 0) = true ∧
    finds (tabling .tins false 0x20000) false 1 true = true ∧ finds (tabling .rehash false 0x20000 1 true 1) true 1 true = true ∧
    finds (tabling .rehash false 0x20000 1 true 2) true 1 false = true ∧ finds (tabling .tdel false 0x20000 2) false 2 true = true ∧
    findsNone (tabling .rehash false 0x30000) = true ∧ findsNone (tabling .tins false 0x40000000) = true ∧
    -- HFAM and TSTAT, not started, with a descriptor that does not read; REHASH with no steps left.
    ([.hfam, .tstat] : List TKind).all (fun k => (tabling k false 0x40000000).treqs.any fun r =>
      match ((tabling k false 0x40000000).readDescriptor r.space r.slots r.desc).2 with
      | .ok .. => false
      | _ => true) = true ∧
    (tabling .rehash true 0x20000 1 true 1 0).treqs.any (fun r => r.steps == 0) = true := by decide +kernel
/-- Another request of the home unit, which arrives at a clk; its step is under way, or not. -/
def rival (s : State) (due : Nat) (started : Bool) : State :=
  { s with treqs := s.treqs.flatMap fun r => [r, { r with token := 6, due := due, started := started }] }
-- A request that another one's step holds up, one that comes before it, and none that has come.
theorem witness_ServiceEvents_order : ([.tins, .tdel, .rehash] : List TKind).all (fun k =>
    let s := tabling k false 0x20000
    let here (s : State) := s.treqs.filter fun x => x.kind.isUpdate && x.sel == 0
    let first (s : State) := (firstBy (fun (a b : TReq) => decide (a.due < b.due)) ((here s).filter fun x => decide (x.due ≤ s.cyc))).map (·.token)
    let later := { s with treqs := s.treqs.map fun r => { r with due := 99 } }
    (here (rival s 0 true)).any (·.started) && first (rival later 0 false) == some 6 && first (rival s 99 false) == some 5 && first later == none) = true := by
  decide +kernel
theorem witness_ServiceEvents_migrate : (tabling .rehash false 0x20000 1 true 0).treqs.any (fun r =>
    match ((tabling .rehash false 0x20000 1 true 0).readTable r.space r.slots r.desc).2 with
    | .ok d (some x) _ => ((tabling .rehash false 0x20000 1 true 0).migrate r d x).2.isLeft
    | _ => false) = true ∧
    -- The bucket's weights do not read.
    (let s := tabling .rehash false 0x20000 1 true 0
     let s := { s with mm := s.mm.setBytes 0x2009F [0x7F] }
     s.treqs.any fun r => match (s.readTable r.space r.slots r.desc).2 with
       | .ok d (some x) _ => (s.migrate r d x).2.isRight
       | _ => false) = true := by decide +kernel
-- R295: the outcome fills lanes 1 and 3 of the destination and is not pushed; HFAM's register is bound; a lane that faulted detaches with its
-- record, and a full bucket raises TABLEFULL. Until the group is resumed the answer is kept.
theorem test_passed : (leads (exec (.homeUnitAnswer 5) (passing none false ((List.range 32).map fun l => word (40 + l)))) fun t =>
      t.g.regState 0x30 == .full && (t.g.regVal 0x30).at 3 == 43 && (t.g.regVal 0x30).at 2 == (user.g.regVal 0x30).at 2 && t.g.ages == user.g.ages) = true ∧
    (leads (exec (.homeUnitAnswer 5) (passing (some (2, 0x80)) false [0, 7])) fun t => t.g.hfReg 2 == { desc := 0x80, lm1 := 7, valid := true } &&
      (t.g.regVal 0x30).at 1 == 0) = true ∧
    (leads (exec (.homeUnitAnswer 5) (passing none false [] none [(3, 4, 1, 9)])) fun t =>
      t.filing.map (fun x => (x.2.lane, x.2.cause, x.2.pc, x.2.fault)) == [(3, 4, 0x4000, 9)]) = true ∧
    (leads (exec (.homeUnitAnswer 5) (passing none false [] (some 0x14))) fun t => t.g.regState 0x30 == .dead) = true ∧
    (leads (exec (.homeUnitAnswer 5) (passing none true [1])) fun t => t == passing none true [1]) = true := by decide +kernel
theorem witness_ServiceEvents_periods : (let s := passing (some (2, 0x80)) false [0, 7]
    (s.groups.any fun g => g.paths.any fun y => y.awaits 5) == false && (s.groups.find? fun g => g.passed.any fun x => x.token == 5 && !x.held) == some (s.grp 0) &&
      s.g.regState 0x30 == .pending 5) = true ∧
    ([(asking, true, false), (askingSaved, false, true), (passing none true [1], false, true), (user, false, false)] : List (State × Bool × Bool)).all (fun x =>
      (x.1.groups.any fun g => g.paths.any fun y => y.awaits 5) == x.2.1 && x.1.awaitedSaved 5 == x.2.2) = true ∧
    ((gracing true [] 1 []).part 0).running = true ∧ ((gracing true [] 1 []).part 0).holdouts.isEmpty = true ∧ (user.part 0).ready.isEmpty = true ∧
    ([(ring 7 0, true), (ring 4096 0, false), (ring 0xFFFFFFFF 0xFFFFFFF0, true)] : List ((State → State) × Bool)).all (fun x =>
      ((x.1 (gracing false [] 0 [freed 3])).rootArea? 0).any fun base =>
        (((x.1 user).readNum base 4 + 2 ^ 32 - (x.1 user).readNum (base + 8) 4) % 2 ^ 32 < 4096) == x.2) = true := by decide +kernel

/-! ### Events of detached threads -/

/-- A record of lane 1 of the user group, which is detached; the group's other lanes run. -/
def away (r : TrapRec) (serial : Nat) : State :=
  let s := user.modG fun g => { g with slices := g.slices.map fun x => if x.idx = 0 then { x with run := 13, detached := 2 } else x }
  { s with filing := [(5, { r with serial := serial })] }
/-- An open folio of n records, under the system entry's key. -/
def openFolio (num n : Nat) (entry : Word := 0x5000) : Folio :=
  { num := num, half := 0, part := 0, world := 0, cause := 4, entry := entry, owner := 0, recs := List.replicate n (some (recordAt 3 0x4000)) }
/-- The record is on its way to its registrar, whose system entry for cause 4 is e, and which has folios. -/
def onWay (e : Word) (folios : List Folio) (cause : Nat := 4) : State :=
  rooted ((away { recordAt 1 0x4000 with cause := cause } 0).modPart 0 fun p => { p with system := [(4, e)], folios := folios })
/-- Folio 1 at a stage since clk 0, of a window of 2,048 clk, with its entry; quadrant 0 is its partition's or no one's. -/
def folioAt (st cyc : Nat) (recs : List (Option TrapRec)) (entry : Word) (room : Bool := true) : State :=
  let s := (handled user).modPart 0 fun p => { p with folios := [{ openFolio 1 0 entry with st := st, recs := recs }] }
  { s with cyc := cyc, mm := { s.mm with quadAssign := if room then [(0, 3)] else [] } }
/-- The record's thread is on its way back to its slice; its destination is in a state. -/
def returningLane (skip : Bool) (serial : Nat) (r : TrapRec) (st : RegState := .full) : State :=
  { (away r serial).modG (fun g => g.setRegState 0x30 st) with filing := [], resuming := [{ token := 5, rec_ := { r with serial := serial }, skip := skip }] }
/-- Every path waits for a lane that has been absent since clk 0, and the kernel's limit is 100 clk. -/
def absentFor (cyc : Nat) (fil : Bool) : State :=
  let s := away (recordAt 1 0x4000) 0
  { (s.modG fun g => { g with paths := [], absentSince := some 0, slices := g.slices.map fun x => { x with run := 0, stat := .waiting, detached := 2, rcv := [{ rpc := 0x4000, tag := 0, member := 15, absent := 2, mode := 0, retDepth := 0 }] } }) with
    cyc := cyc, filing := if fil then s.filing else []
    kernels := s.kernels.map fun k => { k with eff := { k.eff with rejoin := 100 } } }
/-- The fatal ring's indexes. -/
def fatalRing (prod cons : Nat) : State :=
  listed (rooted user) ((leBytes prod 4).zipIdx.map (fun e => (0xA0000 + e.2, e.1)) ++ (leBytes cons 4).zipIdx.map (fun e => (0xA0008 + e.2, e.1)))

-- R318: a record opens a folio under its key, or joins one of the key with room; a full folio forms.
theorem test_filed : (leads (exec (.recordFiled 5) (onWay 0x5001 [openFolio 0 31])) fun t => (t.part 0).folios.map (fun f => (f.st, f.recs.length)) == [(2, 32)]) = true ∧
    (leads (exec (.recordFiled 5) (onWay 0x5001 [openFolio 0 32])) fun t => (t.part 0).folios.map (fun f => (f.num, f.st, f.recs.length)) == [(0, 1, 32), (1, 1, 1)])
      = true := by decide +kernel
-- R320: the handler group stands in slot 15 with 64 registers, the count in s1 and the cause in s2.
theorem test_handler : (leads (exec (.handlerPlacement 1 1) user) fun t => t.groups.length == 1) = true ∧
    (leads (exec (.handlerPlacement 0 1) (folioAt 2 0 [some (recordAt 3 0)] 0x5000)) fun t =>
      (t.grp 15).alloc == 64 && (t.grp 15).sval 1 == 1 && (t.grp 15).sval 2 == 4 && (t.grp 15).slices.map (·.run) == [1]) = true := by decide +kernel
-- R331: SKIP goes on after the slot, with the repair in the destination's lane.
theorem test_skip : (leads (exec (.laneResumed 5) (returningLane true 0 { recordAt 1 0x4000 with repair := 77 })) fun t =>
    (t.g.regVal 0x30).at 1 == 77 && (t.g.regVal 0x30).at 2 == 0 && t.g.slices.all fun x => x.detached == 0) = true := by decide +kernel

theorem witness_ThreadEvents_filing : (user.filing.find? fun f => f.1 == 5).isNone = true ∧
    ([(onWay 0x5001 [], true), (onWay 0x5000 [], false)] : List (State × Bool)).all (fun x =>
      (x.1.filing.find? fun f => f.1 == 5).any fun f => (x.1.fileKey f.2).2.isSome == x.2) = true ∧
    ([(onWay 0x5001 [openFolio 0 1], true), (onWay 0x5001 [openFolio 0 32], false), (onWay 0x5001 [openFolio 0 1 0x6000], false)] : List (State × Bool)).all (fun x =>
      ((x.1.part 0).folios.find? fun f => f.st == 1 && f.entry == 0x5000 && f.recs.length < 32).isSome == x.2) = true ∧
    ((onWay 0x5001 []).rootArea? 0).isSome = true ∧
    -- The open folio stands at the other die's registrar; a record of that die was forwarded already, or not.
    ([0, 1] : List Nat).all (fun half => [true, false].all fun fwd =>
      let s : State := onWay 0x5001 [{ openFolio 0 1 with half := half }]
      let s : State := { s with filing := s.filing.map fun (f : Nat × TrapRec) => (f.1, { f.2 with forwarded := fwd }) }
      (s.filing.find? fun f => f.1 == 5).any fun n => n.2.forwarded == fwd && match (s.fileKey n.2).2 with
        | some (e, o) => ((s.part 0).folios.find? fun f => f.st == 1 && f.world == 0 && f.cause == n.2.cause && f.entry == e && f.owner == o &&
            f.recs.length < 32).any fun f => (f.half == dieOf n.2.core) == (half == 0)
        | none => false) = true := by decide +kernel
theorem witness_ThreadEvents_full : (List.range 864).find? (fun n => !((List.range 864).map fun i => openFolio i 32).any fun f => f.num == n) = none := by
  simp [List.find?_eq_none, openFolio]
theorem witness_ThreadEvents_folios : ([(2047, false), (2048, true)] : List (Nat × Bool)).all (fun x =>
      ((folioAt 1 x.1 [none] 0x5000).part 0).folios.any (fun f => f.num == 1 && f.st == 1 && f.since + f.window ≤ x.1) == x.2) = true ∧
    ([[none, none], [none, some (recordAt 3 0)]] : List (List (Option TrapRec))).all (fun l => ((folioAt 2 0 l 0x5000).part 0).folios.any fun f => f.st == 2 && f.recs == l)
      = true ∧
    ([true, false] : List Bool).all (fun b => (((coresFrom 0).flatMap fun c => [0, 1, 2].map fun q => (c, q)).find? fun e =>
      (folioAt 2 0 [] 0x5000 b).handlerFits 0 0 e.1 e.2).isSome == b) = true ∧
    ([(0x5000, true), (0x4000, false)] : List (Word × Bool)).all (fun x =>
      match ((folioAt 2 0 [] x.1).fetchAt (handlerGroup 15 1 { openFolio 1 1 x.1 with st := 2 } 0) x.1).2 with
      | .inl w => w.entry == x.2
      | .inr _ => false) = true := by decide +kernel
theorem witness_ThreadEvents_resume : (user.resuming.find? fun x => x.token == 5).isNone = true ∧
    ([(returningLane true 0 (recordAt 1 0x4000), 0, false), (returningLane false 0 (recordAt 1 0x4000), 0, false),
      (returningLane true 0 (recordAt 1 0x4000) (.pending 9), 0, true), (returningLane true 9 (recordAt 1 0x4000), 9, false),
      (returningLane true 0 { recordAt 1 0x4000 with cause := 2, status := 16, dest := 3 }, 0, false)] : List (State × Nat × Bool)).all (fun x =>
      (x.1.resuming.find? fun y => y.token == 5).any fun y => y.rec_.serial == x.2.1 && x.1.hasGrp y.rec_.unit && y.rec_.lane < 32 &&
        ((x.1.grp y.rec_.unit).serial == y.rec_.serial && y.skip && decide (y.rec_.dest ≥ 0x10) && ((x.1.grp y.rec_.unit).regState y.rec_.dest).isPending) == x.2.2)
      = true ∧
    ([99, 100] : List Nat).all (fun c => [true, false].all fun f => (absentFor c f).g.absentSince == some 0 && (absentFor c f).g.awaitsAbsent &&
      ((absentFor c f).kernel? (absentFor c f).g.kernel).any fun k => k.eff.rejoin == 100) = true ∧
    ([(0, 0, true), (960, 0, false), (0xFFFFFFFF, 0xFFFFFFF0, true)] : List (Nat × Nat × Bool)).all (fun x =>
      ((fatalRing x.1 x.2.1).rootArea? 0).any fun base =>
        (((fatalRing x.1 x.2.1).readNum (base + 0x40000) 4 + 2 ^ 32 - (fatalRing x.1 x.2.1).readNum (base + 0x40008) 4) % 2 ^ 32 < 960) == x.2.2) = true := by
  decide +kernel

/-! ### Events of kernels -/

/-- Context 1 in a stage, with packet 6 under way for partition 0. -/
def ctxIn (st : CtxState) (busy : Bool := false) : State :=
  { user with packets := [{ id := 6, part := 0, started := true, pa := 0x70000, poster := 1 }], ctxs := user.ctxs.map fun c => { c with st := st, busy := busy } }
/-- The bytes that are not 0 of a root region node (R109) at 0, of the launch record at 0x20000 (R106), and of its entry's ENTRY bit. -/
def nodeCells : List (Nat × Byte) :=
  [(0, 1), (2, 255), (3, 255), (4, 255), (5, 15), (8, 16), (0x0A, 8), (0x0E, 4), (0x10, 255), (0x28, 16)]
def recordCells (version ctx fslot : Byte) (entry : Byte) (bx bpc : Byte := 1) (cls : Byte := 0) : List (Nat × Byte) :=
  [(0x20000, version), (0x20002, cls), (0x20004, ctx), (0x20009, entry), (0x20018, bx), (0x2001C, 1), (0x2001E, 1), (0x20020, 1), (0x20021, bpc), (0x20022, 16), (0x20030, fslot),
    (0x200D2, 4)]
/-- The kernel 8 is at a stage; the device's first quadrants are the partition's. -/
def kerneled (cells : List (Nat × Byte)) (k : Kernel) : State :=
  let s := ctxIn .created
  { s with kernels := s.kernels ++ [{ k with id := 8, ctx := 1, recVa := 0x20000 }]
           mm := { s.mm with cells := nodeCells ++ (0x5007, 0x20) :: s.mm.cells ++ cells, quadAssign := [(0, 3), (1, 3), (2, 3), (3, 3)] } }
/-- A kernel that its record describes, waiting to be placed. -/
def placedKernel : Kernel :=
  { id := 8, ctx := 1, st := .waiting, bx := 2, by_ := 1, bz := 1, entry := 0x5000, cls := 1, completion := 0x40000, named := true
    eff := { budget := 16, perCore := 8, cores := 255 }, chain := [(0, 16, 8)], accepted := 3 }
/-- A mailbox entry with a code. -/
def asked (code : Nat) (version : Nat := 0) : State :=
  { ctxIn .created with mail := [(0, [{ index := 5, words := [word code, 1, 0x20000, 0, 0, 0, 0, 0], version := version, code := code, dst := some 0x31, token := 9, unit := 0 }])]
                        groups := user.groups.map (fun g => g.setRegState 0x31 (.pending 9)) ++ [firmwareGroup 9 0 0 0] }
def fresh (cells : List (Nat × Byte)) : State := kerneled cells { id := 8, ctx := 1 }
/-- The launch status of kernel 8. -/
def statusOf (s : State) : Option Nat := (s.kernel? 8).bind fun k => (s.ctx? k.ctx).map fun c => (s.launchStatus k c).2.2
def goodRecord : List (Nat × Byte) := recordCells 1 1 0 0x50

-- R105, R108: a kernel whose groups have retired is DONE; its completion record's status is 0, after the tag, at its address.
theorem test_retire : (leads (exec (.kernelRetire 8) (kerneled goodRecord { placedKernel with st := .running, nextBlock := 2, tag := 7 })) fun t =>
    (t.kernel? 8).isNone && t.mm.num 0x40000 4 == 0 && t.mm.num 0x40004 4 == 7) = true := by decide +kernel
-- R370: KILL is refused with status 4 where the address is not aligned; YIELDCTX posts packet type 5.
theorem test_requests : (leads (exec (.killRequest 6 1 0x40001) (ctxIn .created)) fun t => t.mm.num 0x70004 4 == 4) = true ∧
    (leads (exec (.yieldctx 0 5) (asked 3)) fun t => t.packets.map (fun p => fieldOf p.bytes 0 8) == [0, 5]) = true := by decide +kernel

theorem witness_KernelEvents_launch : ([(ctxIn .created, 0), (ctxIn .destroyed, 5), (ctxIn .sealedImg, 0), (ctxIn .created true, 0)] : List (State × Nat)).all
      (fun x => x.1.ctxStatus 6 1 == x.2 && x.1.mgmt.booted && (x.1.ctx? 1).isSome) = true ∧
    ({ user with mgmt := { user.mgmt with booted := false } } : State).mgmt.booted = false ∧ (user.kernel? 8).isNone = true ∧
    statusOf (fresh goodRecord) = some 0 ∧ statusOf (fresh (recordCells 2 1 0 0x50)) = some 0x21 ∧ statusOf (fresh (recordCells 1 1 127 0x50)) = some 0x23 ∧
    (((fresh goodRecord).kernel? 8).bind fun k => (fresh goodRecord).ctx? k.ctx).isSome = true ∧
    (let s := fresh goodRecord
     (s.launchBytes { id := 8, ctx := 1, recVa := 0x20000 }).2.isSome && (s.launchBytes { id := 8, ctx := 1, recVa := 0x40000000 }).2.isNone) = true := by
  decide +kernel
-- The region is not there, or is not the context's; the class is above the cap; the entry is misaligned, unreadable or has no ENTRY; the
-- cluster has no room; and the grid of class 0 is too large, or has no room.
theorem witness_KernelEvents_statuses : ((let s := fresh goodRecord
      [({ s with mm := { s.mm with cells := s.mm.cells.drop 1 } }, 0x24), ({ s with ctxs := s.ctxs.map fun c => { c with region := 5 } }, 0x24),
       ({ s with mm := { s.mm with cells := Store.set s.mm.cells 0x0D 2 } }, 0x25)] : List (State × Nat)) ++
    ([((0x20008, 1) :: goodRecord, 0x22), ((0x2000B, 0x40) :: goodRecord, 0x22), (recordCells 1 1 0 0x40, 0x22), (recordCells 1 1 0 0x50 12 12, 0x26),
       ((0x20019, 0x80) :: recordCells 1 1 0 0x50, 0x27), (recordCells 1 1 0 0x50 255, 0x27), (recordCells 1 1 0 0x50 2, 0)] : List (List (Nat × Byte) × Nat)).map fun x =>
      (fresh (x.1.foldl (fun l c => Store.set l c.1 c.2) []), x.2)).all (fun x => statusOf x.1 == some x.2) = true := by decide +kernel
theorem witness_KernelEvents_placement : (let s := kerneled goodRecord placedKernel
     (s.kernel? 8).any fun k => (s.ctx? 1).any fun c => c.places && !s.heldBack k c && (s.nextPlacement k c).isSome) = true ∧
    (let s := { kerneled goodRecord placedKernel with mm := { (kerneled goodRecord placedKernel).mm with quadAssign := [] } }
     (s.kernel? 8).any fun k => (s.ctx? 1).any fun c => c.places && !s.heldBack k c && (s.nextPlacement k c).isNone) = true ∧
    (let s := kerneled goodRecord { placedKernel with st := .running, nextBlock := 2 }
     (s.kernel? 8).any fun k => k.nextBlock ≥ k.blocks && (s.kernelGroups 8).isEmpty && k.ending == 0) = true ∧
    ((kerneled goodRecord { placedKernel with ending := 0x28 }).kernel? 8).any (fun k => k.ending != 0) = true ∧
    (let s := kerneled goodRecord placedKernel
     match (s.translate (s.ctxSpace 1) 0x40000 .write).2 with
     | .ok pa .. => pa == 0x40000
     | _ => false) = true ∧
    (State.region? { fresh goodRecord with nodeCache := [] } ((fresh goodRecord).packetPart 6) 0).2.isSome = true := by decide +kernel
-- A kernel that names no record, with its launch packet's status word.
theorem witness_KernelEvents_unnamed :
    ((kerneled goodRecord { placedKernel with named := false, packet := some 0x70000 }).kernel? 8).any (fun k => !k.named && k.packet == some 0x70000 && k.qi == none) = true ∧
    ((kerneled goodRecord { placedKernel with completion := 0x40004, packet := some 0x70000 }).kernel? 8).any (fun k => k.named && k.completion.toNat % 32 != 0) = true ∧
    ((kerneled goodRecord { placedKernel with ending := 0x28 }).kernel? 8).any (fun k => k.named && k.completion.toNat % 32 == 0) = true ∧
    ([(0x40000, true), (0x40000000, false)] : List (Word × Bool)).all (fun x =>
      let s := kerneled goodRecord { placedKernel with completion := x.1 }
      (s.kernel? 8).any fun k => (s.completionPa? k).2.isSome == x.2) = true := by decide +kernel
theorem witness_KernelEvents_services : ([0, 1, 2, 3, 4, 5, 0x1F] : List Nat).all (fun c => ((asked c).mailbox 0).any fun m =>
      m.index == 5 && !m.taken && m.code == c && (asked c).mgmt.fwAccept.testBit m.version) = true ∧
    ((asked 0 2).mailbox 0).any (fun m => m.code != 0x1F && !(asked 0 2).mgmt.fwAccept.testBit m.version) = true ∧ (user.mailbox 0).isEmpty = true ∧
    (asked 1).groups.any (fun g => g.serial == 0 && g.regState 0x31 == .pending 9) = true ∧
    (asked 1).firmwareServes 0 = true ∧ ({ asked 1 with groups := user.groups } : State).firmwareServes 0 = false := by decide +kernel

/-! ### Events of contexts -/

/-- The context's device queue 5 is granted to n other contexts; region 0's area is a gibibyte. -/
def granting (others : Nat) : State :=
  let s := ctxIn .created
  { s with queues := if others = 9 then [] else
             [(5, { ring := 0x400000, log2 := 6, grantees := (List.range others).map fun n => { ctx := 7 + n, push := true, pop := true } })]
           mm := { s.mm with cells := nodeCells ++ (0x43, 0x40) :: s.mm.cells } }
/-- A request of an operation on context 1, in its record at 0x71000, comes to its check; the path waits for it, or not. -/
def requested (op : Byte) (load : Bool) (st : CtxState) (waits : Bool := true) (record : Nat := 0x71000) : State :=
  let s := listed (ctxIn st) [(0x71000, op), (0x71004, 1), (0x7100A, 8), (0x71011, 16)]
  { s with groups := if waits then asking.groups else s.groups, ctxOps := [{ token := 5, die := 0, op := 0, ctx := 1, record := record, image := 0, limit := 0, load := load }] }
/-- An operation is accepted; its context is saving, or not; the device has a session key, or none. -/
def accepted (op status : Nat) (saving : Bool := false) (session : Bool := true) (image : Nat := 0x80000) : State :=
  let s := ctxIn .preempted true
  { s with ctxOps := [{ token := 5, die := 0, op := op, ctx := 1, record := 0x71000, image := image, limit := 4096, version := 3, status := status, accepted := true }]
           ctxs := s.ctxs.map fun c => { c with saving := saving }, mgmt := { s.mgmt with sessions := if session then [44] else [] } }
/-- An image's header at 0x80000 (R95), of a kind; its body is empty. -/
def imageCells (kind : Byte) : List (Nat × Byte) := [(0x80000, 0x43), (0x80001, 0x57), (0x80002, 0x59), (0x80003, 0x4B), (0x80004, 1), (0x80006, kind), (0x80008, 1)]
/-- The device keeps an image of those bytes, of a context and version; versions holds the last one. -/
def restoring (op : Nat) (kind : Byte) (ctx version : Nat) : State :=
  let s := listed (accepted op 0) (imageCells kind)
  let b := s.mm.bytes 0x80000 64
  { s with images := [{ kind := 1, ctx := ctx, part := 0, world := 0, version := version, bytes := b, body := { id := ctx, part := 0, world := 0, saved := [user.g] } }]
           mgmt := { s.mgmt with versions := [(1, 3)] } }
/-- The context is being saved, or not; an operation of its group is not done, or none is. -/
def savingCtx (st : CtxState) (saving : Bool) (inFlight : Bool) : State :=
  let s := ctxIn st
  { s with ctxs := s.ctxs.map (fun c => { c with saving := saving }), ops := if inFlight then [opOf 5 0 3] else [] }

/-- A RESIDENT context whose group waits for the answer to a table request. -/
def tableAsked : State := { ctxIn .resident with groups := (asking.modP fun q => { q with wait := q.wait.map fun w => { w with past := some (pastAsk none false) } }).groups }

-- R295: a pre-emption halts the group past a table instruction: the destination is pending, the dead mark is applied and the next slot follows.
theorem test_preempt_table : (leads (exec (.preempt 6 1) tableAsked) fun t => t.g.st == .halted && t.g.regState 0x30 == .pending 5 &&
    t.g.regState 0x31 == .dead && t.g.slices.all (fun x => x.pc == 0x4002) && t.g.paths.all (·.wait == none) && t.g.passed.map (·.held) == [true]) = true := by
  decide +kernel
-- R254: a context whose id is in use is not created again (5); PREEMPT asks for RESIDENT, and RESUME for PREEMPTED or CHECKPOINTED (4).
theorem test_context_packets : ([(.create 6 1 0 0, ctxIn .created, 5), (.preempt 6 1, ctxIn .created, 4), (.resume 6 1, ctxIn .resident, 4), (.preempt 6 1, ctxIn .resident true, 3),
      (.qgrant 6 1 5 3 6 0x400000, granting 2, 8), (.qgrant 6 1 5 3 17 0x400000, granting 9, 8)] : List (Instr × State × Nat)).all (fun x =>
    leads (exec x.1 x.2.1) fun t => t.mm.num 0x70004 4 == x.2.2) = true ∧
    (leads (exec (.qgrant 6 1 5 3 6 0x400000) (granting 9)) fun t => t.mm.num 0x70004 4 == 1 &&
      (t.queue? 5).any fun q => q.grantees == [{ ctx := 1, push := true, pop := true }]) = true := by decide +kernel
-- R91: an accepted request's record becomes PENDING, 1; CTXLD takes no SEAL (2).
theorem test_request : (leads (exec (.requestRecordChecked 5) (requested 1 false .preempted)) fun t => t.mm.num 0x71018 4 == 1 && t.ctxOps.map (·.accepted) == [true]) = true ∧
    (leads (exec (.requestRecordChecked 5) (requested 1 true .preempted)) fun t => t.groups.all fun g => (g.path 0).answer == some [2]) = true := by decide +kernel
-- R92: RESTORE of an image that is not the last is REPLAY, 0x12; of the last, DONE, 0x10.
theorem test_restore : ([(3, 0x10), (2, 0x12)] : List (Nat × Nat)).all (fun x =>
    leads (exec (.restore 5) (restoring 4 1 1 x.1)) fun t => t.ctxOps.map (·.status) == [x.2]) = true := by decide +kernel

theorem witness_ContextEvents_packets : ({ user with mgmt := { user.mgmt with booted := false } } : State).mgmt.booted = false ∧
    (ctxIn .created).mgmt.booted = true ∧ (ctxIn .created).inUse 1 = true ∧ (ctxIn .created).inUse 9 = false ∧ (ctxIn .destroyed).ctxStatus 6 1 = 5 ∧
    ([.created, .resident, .preempted, .checkpointed] : List CtxState).all (fun st => [true, false].all fun b =>
      (ctxIn st b).ctxStatus 6 1 == 0 && ((ctxIn st b).ctx? 1).any fun c => c.busy == b && c.st == st && !c.saving) = true ∧
    ((savingCtx .resident true true).ctx? 1).any (·.saving) = true ∧ (savingCtx .preempted true true).imageWaits 1 = true ∧
    (savingCtx .preempted true false).imageWaits 1 = false ∧ ((ctxIn .preempted).ctx? 1).any (fun c => ((ctxIn .preempted).seatAll c).isSome) = true ∧
    ([(0, 0), (1, 1), (2, 2)] : List (Nat × Nat)).all (fun x => ((granting x.1).queue? 5).any fun q => q.log2 == 6 && (q.grantees.filter fun g => g.ctx != 1).length == x.2)
      = true ∧ ((granting 9).queue? 5).isNone = true ∧
    ([(0x400000, true), (0x100000, false)] : List (Nat × Bool)).all (fun x =>
      ((granting 9).ctx? 1).any fun c => ((granting 9).ringOk c x.1 4096).2 == x.2) = true ∧
    (tableAsked.ownGroups 1).any (fun g => decide (tableAsked.grp g.unit = g) && g.paths.any fun q => (q.wait.bind (·.past)).isSome) = true := by
  decide +kernel
-- Operations at work on the context that DESTROY ends.
theorem witness_ContextEvents_destroy : ([(accepted 1 0, true), (accepted 5 0x10, true)] : List (State × Bool)).all (fun x =>
    x.1.ctxStatus 6 1 == 0 && (x.1.ctxOps.any fun o => o.ctx == 1 && o.accepted) == x.2) = true := by decide +kernel
theorem witness_ContextEvents_engines : (user.ctxOps.find? fun o => o.token == 5).isNone = true ∧
    ([(requested 1 false .preempted, true), (requested 1 false .preempted false, false)] : List (State × Bool)).all (fun x =>
      (x.1.groups.any fun g => g.paths.any fun q => q.awaits 5) == x.2) = true ∧
    ((requested 1 false .preempted true 0x71001).ctxRecord 0x71001).isNone = true ∧
    ([(1, false, .preempted, 0), (4, true, .sealedImg, 0), (1, true, .preempted, 2)] : List (Byte × Bool × CtxState × Nat)).all (fun x =>
      let s := requested x.1 x.2.1 x.2.2.1
      s.ctxOps.any fun o => (s.ctxRecord o.record).any fun b => s.ctxCheck o o.ctx b == x.2.2.2) = true ∧
    ([0, 0x10] : List Nat).all (fun st => (accepted 3 st).ctxOps.any fun o => o.accepted && o.status == st) = true ∧
    ({ accepted 1 0 with ctxs := [] } : State).ctx? 1 = none ∧ ((accepted 1 0 true).ctx? 1).any (·.saving) = true ∧
    (accepted 3 0 false false).mgmt.sessions.isEmpty = true ∧ (accepted 3 0).mgmt.sessions.isEmpty = false := by decide +kernel
theorem witness_ContextEvents_images : ([(accepted 4 0 false true 0x80001, false), (restoring 4 1 1 3, true), (restoring 4 1 2 3, true), (restoring 4 1 1 2, true)] :
      List (State × Bool)).all (fun x => x.1.ctxOps.any fun o => (x.1.readImage o).2.isLeft == x.2) = true ∧
    ([(restoring 4 1 1 3, true, true), (restoring 4 1 2 3, false, true), (restoring 4 1 1 2, true, false)] : List (State × Bool × Bool)).all (fun x =>
      x.1.images.any fun i => decide (i.kind ≤ 2) && (i.ctx == 1) == x.2.1 && (Store.get? x.1.mgmt.versions 1 == some i.version) == x.2.2 && x.1.mm.bytes 0x80000 64 == i.bytes)
      = true ∧
    -- An entry that no image of the device has; a request on a context that another operation holds.
    ([(3, false), (2, true)] : List (Nat × Bool)).all (fun x => let s := restoring 4 1 1 x.1
      (Store.get? s.mgmt.versions 1).any (fun n => s.images.all fun i => !(decide (i.kind ≤ 2) && i.ctx == 1 && i.version == n)) == x.2) = true ∧
    ((accepted 4 0).ctx? 1).any (·.busy) = true ∧
    (let s := { restoring 5 3 1 3 with ctxs := (ctxIn .destroyed).ctxs }
     !s.mgmt.sessions.isEmpty && !s.inUse 1 && s.ctxOps.any fun o => match (s.readImage o).2 with
       | .inl b => fieldOf b 6 1 == 3
       | .inr _ => false) = true := by decide +kernel

/-! ### Events of the host interface and of the peer links -/

/-- Queue interface 3, of function 2: EN, ST, closing, its indexes and its ring's size; a packet of it is under way, or waits. -/
def hosting (en : Bool) (st : QiState) (started : Bool) (ring : Word := 0x4000000400) (closing : Bool := false) : State :=
  { user with
    qis := [(3, { en := en, st := st, log2 := 4, func := 2, irte := 1, pasid := 77, ring := ring, head := 5, tail := 6, closing := closing })]
    packets := [{ id := 6, qi := some 3, index := 5, pa := 0x70000, irq := true, started := started }]
    irtes := [(1, 2 ^ 31 + 2 * 2 ^ 21 + 9)] }
/-- The function's message 9 is masked, or a message is pending; the function is locked. -/
def maskedHost (masked pending : List Nat) : State := { hosting true .enabled true with msix := [(2, { masked := masked, pending := pending })] }
/-- The inbound table admits device 4 to partition 0, writing or not. -/
def inviting (entry : Word) : State :=
  let s := ctxIn .created
  { s with mm := { s.mm with cells := nodeCells ++ (0x43, 0x40) :: s.mm.cells }, inbound := [(4, entry)] }
/-- Port 3 in a state since clk 0, with a flit in its replay buffer or none; a load and a store are behind it. -/
def ported (st : PortState) (cyc tries : Nat) (buffer : Bool) : State :=
  let s := flying 0x31 false
  { s with
    cyc := cyc
    ports := [(3, { st := st, lanes := 4, rxSeq := 7, txSeq := 9, buffer := if buffer then [{ seq := 8, payload := [1] }] else [], tries := tries })]
    mm := { s.mm with stores := [{ token := 9, unit := 0, serial := 0, ports := [3] }], flights := s.mm.flights.map fun f =>
      { f with lanes := f.lanes.map fun x => if x.lane = 3 then { x with ports := [3] } else x } } }

-- R252: a completed packet has its status at +4.
theorem test_packet_done : ((ctxIn .created).completePacket 6 1).mm.num 0x70004 4 = 1 ∧ ((ctxIn .created).completePacket 6 1).packets.isEmpty = true := by decide +kernel
-- R252: a TAIL that is more than the ring's packets beyond HEAD is an error.
theorem test_notify : (leads (exec (.notify 2 0 0 4 21) (hosting true .enabled true)) fun t => (t.qi 3).st == .enabled && t.packets.length == 17) = true ∧
    (leads (exec (.notify 2 0 0 4 22) (hosting true .enabled true)) fun t => (t.qi 3).st == .error && t.packets.length == 1) = true := by decide +kernel
-- R353: two of four lanes make the port DEGRADED; a training that takes 20,000,000 clk fails.
theorem test_port : (leads (exec (.lanesTrained 3 2) (ported .training 0 0 false)) fun t => (t.port 3).st == .degraded) = true ∧
    (leads (exec (.trainingTimeout 3) (ported .training 20000000 0 false)) fun t => (t.port 3).st == .failed) = true := by decide +kernel
-- R356: an entry without V, or without W for a write, refuses.
theorem test_peer : (leads (exec (.peerRequestServe 4 1 0x20000 8 5) (inviting 0x8000000000000000)) fun t => t.peerAnswer == [1] && t.mm.num 0x20000 8 == 0) = true ∧
    (leads (exec (.peerRequestServe 4 1 0x20000 8 5) (inviting 0xC000000000000000)) fun t => t.peerAnswer == [0] && t.mm.num 0x20000 8 == 5) = true := by decide +kernel
-- R354: the check value of CRC-64/ECMA-182 over the nine digits.
theorem test_crc : crc64 0 [0x31, 0x32, 0x33, 0x34, 0x35, 0x36, 0x37, 0x38, 0x39] = 0x6C40DF5F0B497347 := by decide +kernel

theorem witness_HostEvents_packets : ([(hosting true .enabled true, 9), (maskedHost [9] [], 9)] : List (State × Nat)).all (fun x =>
      x.1.packets.any fun p => p.id == 6 && p.svc.isNone && p.qi.isSome && (x.1.qi p.qiNum).st != .revoked && p.irq &&
        let e := (Store.getOr x.1.irtes (x.1.qi p.qiNum).irte 0).toNat
        e / 2 ^ 31 % 2 == 1 && bitsOf e 30 21 == (x.1.qi p.qiNum).func && e % 2 ^ 11 == x.2) = true ∧
    (Store.getOr (maskedHost [9] []).msix 2 {}).masked = [9] ∧ (Store.getOr (maskedHost [] [9]).msix 2 {}).pending = [9] ∧
    ([true, false] : List Bool).all (fun en => (hosting en .enabled true).qiLocked 3 == false && ((hosting en .enabled true).qi 3).en == en &&
      ((hosting en .enabled true).qi 3).ring.toNat % (64 * 2 ^ 4) == 0) = true ∧
    ({ hosting true .enabled true with tdisp := [(2, 1)] } : State).qiLocked 3 = true ∧
    (let v := hosting true .enabled false 0x4000000400 true
     (v.qi 3).closing && !v.packets.any fun p => p.qi == some 3 && p.started) = true ∧
    (hosting true .enabled true).pageQi 2 0 = some 3 ∧ (hosting true .enabled true).pageQi 2 1 = none ∧ ((hosting true .revoked true).qi 3).st = .revoked ∧
    ((hosting true .enabled true).qi 3).pasid = 77 ∧
    -- One interface, ENABLED or in ERROR, with one packet that has not started.
    ([.enabled, .error] : List QiState).all (fun st => let s := hosting true st false
      (s.qis.filter fun x => (x.2.st == .enabled || x.2.st == .error) && x.2.pasid == 77).map (·.1) == [3] && s.qis.all (fun x => s.qi x.1 == x.2) &&
        (s.packets.filter fun p => p.qi == some 3 && !p.started).map (·.id) == [6] && s.packets.all (·.svc.isNone) && !(s.qi 3).closing) = true := by decide +kernel
theorem witness_HostEvents_peer : ([(0x8000000000000000, 1, false), (0xC000000000000000, 1, true), (0x8000000000000000, 0, true), (0, 0, false)] :
      List (Word × Nat × Bool)).all (fun x =>
      let s := inviting x.1
      let e := (Store.getOr s.inbound 4 0).toNat
      let r := s.rootArea (bitsOf e 45 40)
      (e / 2 ^ 63 == 1 && (x.2.1 == 0 || bitsOf e 62 62 == 1) && decide (r.2.1 ≤ 0x20000) && decide (0x20000 + 8 ≤ r.2.2)) == x.2.2) = true ∧
    ((inviting 0).rootArea 0).2 = (0, 2 ^ 30) := by decide +kernel
theorem witness_HostEvents_ports : ([.down, .training, .up, .degraded, .retraining, .failed] : List PortState).all (fun st =>
      ((ported st 0 0 false).port 3).st == st && ((ported st 0 0 false).port 3).usable == (st == .up || st == .degraded)) = true ∧
    ((ported .up 65536 8 true).port 3).buffer.length = 1 ∧ ((ported .up 65536 8 true).port 3).ackSince + 65536 ≤ (ported .up 65536 8 true).cyc ∧
    (ported .up 65535 7 true).cyc < ((ported .up 65535 7 true).port 3).ackSince + 65536 ∧ ((ported .up 65536 8 true).port 3).tries = 8 ∧
    ((ported .retraining 2000000 0 true).port 3).since + 2000000 ≤ (ported .retraining 2000000 0 true).cyc ∧
    (ported .up 0 0 true).mm.stores.any (fun y => y.serial == ((ported .up 0 0 true).grp 0).serial && y.ports.contains 3) = true ∧
    (ported .up 0 0 true).hasGrp 0 = true ∧ ((ported .up 0 0 true).port 3).rxSeq = 7 ∧ (List.range 16).all (fun p => (user.port p).st == .down) = true := by
  decide +kernel
-- A flit in sequence with the right CRC.
theorem witness_HostEvents_flit : (let h : Word := 7 + 8 * 4096
    let c := crc64 0 (leBytes h.toNat 8 ++ ([1, 2] : List Byte).take 240 ++ List.replicate (240 - 2) 0)
    c = (BitVec.ofNat 64 c).toNat ∧ h.toNat % 4096 = ((ported .up 0 0 true).port 3).rxSeq) := by decide +kernel

/-! ### Events of the management core -/

/-- The mailbox of core 0 holds n entries; the firmware is loaded, and the shipped one, or not. -/
def managed (n : Nat) (booted shipped : Bool) : State :=
  let s := mailing (ctxIn .resident) n false
  { s with mgmt := { s.mgmt with booted := booted, shipped := shipped, fwVersion := 7 } }
/-- The words of quadrant 1 and bank 1 are old; a zeroing of them ends at a clk, with the new word 3. -/
def assigned (old : Word32) (busy : Nat) : State :=
  { user with cyc := 100, mm := { user.mm with
      quadAssign := [(1, old)], bankAssign := [(1, old)], quadBusy := [(1, busy)], bankBusy := [(1, busy)], quadNext := [(1, 3)], bankNext := [(1, 3)]
      sram := [(16384, 5), (40000, 6)], column := [(1, [(4, 4)])] } }
/-- The host tolerates a latency; the power state, and whether the device was found idle. -/
def tolerant (t power : Nat) (idle : Bool) (st : CtxState := .created) : State :=
  let s := ctxIn st
  { s with groups := [], kernels := [], cyc := 500000
           mgmt := { s.mgmt with hostTolerance := t, power := power, powerSince := 1000, idleStamp := if idle then some s.stamp else none } }
/-- The host's readback Address names a kind, unit, class and index; the group is of a world and in a state. -/
def reading (kind unit cls n : Nat) (wld : Nat := 0) (st : GState := .halted) : State :=
  let s := ctxIn .created
  { s with readback := [(0, { addr := word (kind * 2 ^ 56 + unit * 2 ^ 40 + cls * 2 ^ 32 + n) })], groups := user.groups.map fun g => { g with world := wld, st := st, alloc := 100 } }

-- R371: a soft error halts the group and posts an entry of code 0x1F.
theorem test_softerr : (leads (exec (.softerr 0 77) (managed 3 true true)) fun t => t.g.st == .halted && (t.mailbox 0).map (·.code) == [0, 0, 0, 0x1F]) = true := by decide +kernel
-- R84: a new partition wipes the bank and takes effect after 256 clk; the same one takes effect at once. R5: a write that
-- sets a reserved bit is ignored.
theorem test_assignment : (leads (exec (.assignmentWordWrite true 1 0x11) (assigned 3 0)) fun t =>
      Store.getOr t.mm.bankAssign 1 0 == 3 && t.mm.sram == [(40000, 6)] && Store.getOr t.mm.bankBusy 1 0 == 356) = true ∧
    (leads (exec (.assignmentWordWrite true 1 0x13) (assigned 3 0)) fun t => t.mm == (assigned 3 0).mm) = true ∧
    (leads (exec (.assignmentWordWrite true 1 1) (assigned 3 0)) fun t => Store.getOr t.mm.bankAssign 1 0 == 1 && t.mm.sram.length == 2) = true ∧
    (leads (exec (.zeroingComplete true 1) (assigned 0x13 100)) fun t => Store.getOr t.mm.bankAssign 1 0 == 3) = true := by decide +kernel
-- R373: PS1 returns within 2 us, PS2 within 60 us.
theorem test_power : ([(1, 0), (2, 1), (59, 1), (60, 2), (0xFFFFFFFF, 3)] : List (Nat × Nat)).all (fun x =>
    leads (exec .powerStateEntry (tolerant x.1 0 true)) fun t => t.mgmt.power == x.2) = true := by decide +kernel
-- R374, R375: a lane of a g register; a group of a confidential world is DENIED; a register beyond the allocation UNALLOCATED.
theorem test_readback : (leads (exec (.readbackRead 0) (reading 1 0 0 (32 * 3 + 1))) fun t => (t.rb 0).data == 3 && (t.rb 0).status == 0) = true ∧
    (leads (exec (.readbackRead 0) (reading 1 0 0 0 5)) fun t => (t.rb 0).status == 4 && (t.rb 0).data == 0) = true ∧
    (leads (exec (.readbackRead 0) (reading 1 0 0 (32 * 207))) fun t => (t.rb 0).status == 1) = true ∧
    (leads (exec (.readbackWrite 0 9) (reading 1 0 3 2)) fun t => t.g.pred 2 == 9) = true := by decide +kernel

theorem witness_ManagementEvents_core : (managed 3 true true).hasGrp 0 = true ∧ user.hasGrp 9 = false ∧ ((managed 16 true true).mailbox 0).length = 16 ∧
    (managed 3 true true).ctxs.any (fun c => c.part == 0 && c.st == .resident && !c.saving) = true ∧
    ([(true, true), (true, false), (false, true)] : List (Bool × Bool)).all (fun x => (managed 3 x.1 x.2).mgmt.booted == x.1 && (managed 3 x.1 x.2).mgmt.shipped == x.2)
      = true ∧ fieldOf (user.mm.bytes (hostPa 0) 80) 0 4 ≠ 0x4B594657 ∧
    ([(3, 1, false), (3, 0x11, true), (0, 1, true)] : List (Word32 × Word32 × Bool)).all (fun x =>
      let old := Store.getOr (assigned x.1 0).mm.bankAssign 1 0
      (bitsOf old.toNat 9 4 != bitsOf x.2.1.toNat 9 4 || (x.2.1.getLsbD 0 && !old.getLsbD 0)) == x.2.2 && bitsOf old.toNat 23 16 == bitsOf x.2.1.toNat 23 16) = true ∧
    ([(101, false), (100, true)] : List (Nat × Bool)).all (fun x => decide (Store.getOr (assigned 3 x.1).mm.quadBusy 1 0 ≤ (assigned 3 x.1).cyc) == x.2) = true ∧
    ((hosting true .enabled true).qi 3).en = true ∧ user.qiLocked 3 = false ∧ (user.qi 3).en = false := by decide +kernel
theorem witness_ManagementEvents_power : (tolerant 2 0 true).tolerance = 2 ∧ (tolerant 2 0 true).quiet = true ∧
    (tolerant 2 0 true).mgmt.idleStamp = some (tolerant 2 0 true).stamp ∧ (tolerant 60 0 true).ctxs.all (fun c => c.st != .resident) = true ∧
    (tolerant 0 1 true).tolerance = 0 ∧ (tolerant 2 1 true .resident).ctxs.all (fun c => c.st == .resident) = true ∧
    (Store.get? ({ managed 3 true true with mgmt := { user.mgmt with versions := [(1, 3)] } } : State).mgmt.versions 1).isSome = true := by decide +kernel
theorem witness_ManagementEvents_readback : ([(1, 0, 0, 5), (1, 0, 0, 32 * 200), (1, 0, 1, 3), (1, 0, 3, 3), (1, 0, 1, 32), (1, 5, 0, 0), (0x20, 0, 0, 0), (2, 0, 0, 0),
      (0x11, 0, 2, 2), (0x10, 0, 0, 1)] : List (Nat × Nat × Nat × Nat)).all (fun x =>
      let a := ((reading x.1 x.2.1 x.2.2.1 x.2.2.2).rb 0).addr.toNat
      bitsOf a 63 56 == x.1 && bitsOf a 55 40 == x.2.1 && bitsOf a 39 32 == x.2.2.1 && a % 2 ^ 32 == x.2.2.2) = true ∧
    ([(0, .halted, true), (0, .active, false), (1, .halted, true)] : List (Nat × GState × Bool)).all (fun x =>
      ((reading 1 0 0 0 x.1 x.2.1).grp 0).world == x.1 && ((reading 1 0 0 0 x.1 x.2.1).grp 0).held == x.2.2) = true ∧
    (user.g.regState 0x13).isPending = false ∧ ((reading 0x10 0 0 1).ctx? 1).isSome = true ∧
    ((reading 2 0 0 0).rbRead 0 2 0 0 0).st ≠ .denied ∧ user.hasGrp 5 = false ∧
    ([true, false] : List Bool).all (fun b => let s := user.modG fun g => { g with st := .stopped b, ctx := 1 }
      s.g.st == .stopped b && s.g.ctx == 1 && s.hasGrp 0) = true ∧
    -- The shipped firmware's curator, and a group of its own kind; drowsy or not; a confidential world, seen for its own context's request.
    (let s := { reading 1 63 1 3 with groups := [firmwareGroup 0 0 0 0] }
     (s.grp 63).byFirmware && s.hasGrp 63 && (s.grp 63).world == 0) = true ∧ user.g.byFirmware = false ∧ user.g.drowsy = false := by decide +kernel

end Sys2Proof.Tests
end

/-!
Typed integer instructions (R48, R148, R149): what a per-lane instruction that is ready does, and the results of those whose lanes
hold a value fitted to ETYPE.
-/
namespace Sys2Proof.Proofs

open Sys2Proof.Machine Sys2Proof.Safety Sys2Proof.Laws

/-! ### Per-lane instructions (R146, R390) -/

/-- The mode copy that an instruction follows in a lane is the statements'. -/
theorem operands_modeOf (e : Info) (s : State) (l : Nat) : (s.operands e).modeOf l = modeAt e s l := by
  show (if e.uniform then s.g.uniformMode s.cur.path else s.g.modeOf l) = modeAt e s l
  unfold Info.uniform modeAt
  cases e.dst with
  | none => rfl
  | some d => cases d <;> rfl

/-- A per-lane instruction that is ready ends with each lane's outcome from its mode copy and its operands. -/
theorem perLane_of_ready (e : Info) (x : Nat) (d : Opnd) (f : Word32 → Word → Word → Word → LaneRes) (s : State)
    (hr : ready e s = true) :
    perLane e x d f s = .next (((s.consume e).spend x).finishLanes (s.operands e) d fun l =>
      f (modeAt e s l) (argA e s l) (argB e s l) (argC e s l)) := by
  unfold perLane
  rw [run_of_ready e s _ hr]
  simp only [operands_modeOf]
  rfl

/-- The fields of a typed instruction name no block of registers. -/
theorem codesOk_aluInfo (i : Instr) (opcode : Nat) (d a : Opnd) (b : Option Opnd) (acc ok : Bool) :
    codesOk (aluInfo i opcode d a b acc ok) := codesOk_nil _ rfl rfl rfl

/-! ### Integer lanes (R149) -/

/-- The outcome of an integer lane is its exact result, as the statements fit it to the type. -/
theorem intLane_eq (sat : Bool) (v : Nat → Bool → Int → Int → Int → Int) (m : Word32) (a b c : Word) :
    intLane sat v m a b c =
      let t := modeEtype m
      .val (intResult t (sat && modeSat m) (v t.width t.signed (intArg t a) (intArg t b) (intArg t c))) := by
  simp only [intLane, intArg_eq, intResult_eq]

/-- A typed instruction made of integer lanes whose exact result is f yields that result. -/
theorem integerYields_of_intLane (i : Instr) (s : State) (opcode : Nat) (d a : Opnd) (b : Option Opnd) (acc ok sat : Bool)
    (v : Nat → Bool → Int → Int → Int → Int) (f : Nat → Int → Int → Int → Int) (hi : Issuing s)
    (he : entryOf i s = some (aluInfo i opcode d a b acc ok))
    (hx : exec i s = perLane (aluInfo i opcode d a b acc ok) 0 d (intLane sat v) s)
    (hv : ∀ w sg x y c, v w sg x y c = f w x y c) : IntegerYields i s d sat f := by
  refine runs_intro i s _ _ he fun hr => ?_
  rw [perLane_of_ready _ _ _ _ _ hr] at hx
  refine perLane_yields i s _ 0 d _ _ hi (codesOk_aluInfo i opcode d a b acc ok) hx fun l _ _ => ?_
  rw [intLane_eq]
  simp only [hv]
  rfl

/-! ### The obligation -/

/-- The limits to which SAT clamps are those of R48's table. -/
theorem leastOf_greatestOf :
    (leastOf .i8 = -128 ∧ greatestOf .i8 = 127) ∧ (leastOf .u8 = 0 ∧ greatestOf .u8 = 255) ∧
    (leastOf .i16 = -32768 ∧ greatestOf .i16 = 32767) ∧ (leastOf .u16 = 0 ∧ greatestOf .u16 = 65535) ∧
    (leastOf .i32 = -2147483648 ∧ greatestOf .i32 = 2147483647) ∧ (leastOf .u32 = 0 ∧ greatestOf .u32 = 4294967295) ∧
    (leastOf .i64 = -9223372036854775808 ∧ greatestOf .i64 = 9223372036854775807) ∧
    (leastOf .u64 = 0 ∧ greatestOf .u64 = 18446744073709551615) := by
  decide

/-- Settles O1: each instruction's arm is one of integer lanes, so only its exact result is left to name. -/
theorem integerResults : Obligations.IntegerResults := by
  refine ⟨leastOf_greatestOf, fun d a b s hi => ⟨?iadd, ?isub, ?imul, ?imulh, ?imad, ?imin, ?imax, ?iabs, ?ineg⟩⟩
  case imulh =>
    exact integerYields_of_intLane _ s _ d a (some b) _ _ _ _ _ hi rfl rfl fun w _ x y _ =>
      congrArg (x * y / ·) (Int.natCast_pow 2 w)
  case iabs | ineg => exact integerYields_of_intLane _ s _ d a none _ _ _ _ _ hi rfl rfl fun _ _ _ _ _ => rfl
  case iadd | isub | imul | imad | imin | imax =>
    exact integerYields_of_intLane _ s _ d a (some b) _ _ _ _ _ hi rfl rfl fun _ _ _ _ _ => rfl

end Sys2Proof.Proofs

/-!
The mode register and the shape records (R73, R74, R77, R78): what MODE, MODEF and SHAPE write, which values are legal, and that a
group trap whose handler's entry is usable leaves every slice's mode copy.
-/
namespace Sys2Proof.Proofs

open Sys2Proof.Machine Sys2Proof.Safety Sys2Proof.Laws

/-! ### Fetches and walks change memory alone -/

/-- The states differ at most in the memory system and in the number of free choices used. -/
def OnlyMemory (s t : State) : Prop := { t with mm := s.mm, free := s.free } = s

theorem OnlyMemory.refl (s : State) : OnlyMemory s s := rfl

theorem OnlyMemory.trans {s t u : State} (h : OnlyMemory s t) (k : OnlyMemory t u) : OnlyMemory s u := by
  unfold OnlyMemory at *
  rw [← k] at h
  exact h

/-- The memory system of the later state does not matter. -/
theorem OnlyMemory.with_mm {s t : State} (h : OnlyMemory s t) (mm : MemSys) : OnlyMemory s { t with mm := mm } := h

theorem OnlyMemory.groups {s t : State} (h : OnlyMemory s t) : t.groups = s.groups := by
  rw [← (h : { t with mm := s.mm, free := s.free } = s)]

theorem OnlyMemory.cur {s t : State} (h : OnlyMemory s t) : t.cur = s.cur := by
  rw [← (h : { t with mm := s.mm, free := s.free } = s)]

theorem OnlyMemory.grp {s t : State} (h : OnlyMemory s t) (u : Nat) : t.grp u = s.grp u := by
  unfold State.grp
  rw [h.groups]

theorem OnlyMemory.hasGrp {s t : State} (h : OnlyMemory s t) (u : Nat) : t.hasGrp u = s.hasGrp u := by
  unfold State.hasGrp
  rw [h.groups]

/-- Choices among old versions, each of which uses a free value or none. -/
theorem onlyMemory_foldl {α β : Type} (s : State) (f : State × β → α → State × β) (l : List α) (r : State × β)
    (hr : OnlyMemory s r.1) (hf : ∀ r a, OnlyMemory r.1 (f r a).1) : OnlyMemory s (l.foldl f r).1 :=
  foldl_keeps (fun r => OnlyMemory s r.1) f l r hr fun r a h => h.trans (hf r a)

theorem onlyMemory_readEntry (s : State) (sp : Space) (stage2 : Bool) (pa addr lvl : Nat) :
    OnlyMemory s (s.readEntry sp stage2 pa addr lvl).1 := by
  unfold State.readEntry
  refine OnlyMemory.with_mm (onlyMemory_foldl s _ _ _ ?_ ?_) _
  · dsimp only
    split <;> rfl
  · exact fun _ _ => rfl

theorem onlyMemory_walk2 (s : State) (sp : Space) (ipa : Nat) (levels : List Nat) (table : Nat) :
    OnlyMemory s (s.walk2 sp ipa levels table).1 := by
  induction levels generalizing s table with
  | nil => rfl
  | cons lvl rest ih =>
    have h := onlyMemory_readEntry s sp true (s.canonPa (table + 8 * (ipa / levelSize lvl % 512))) ipa lvl
    unfold State.walk2
    dsimp only
    split
    · exact .refl s
    split
    · exact h
    split
    · exact h
    split
    · split <;> exact h
    · exact h.trans (ih _ _)

theorem onlyMemory_stage2 (s : State) (sp : Space) (ipa : Nat) : OnlyMemory s (s.stage2 sp ipa).1 := by
  unfold State.stage2
  split
  · exact .refl s
  · exact onlyMemory_walk2 s sp ipa _ _

theorem onlyMemory_walk1 (s : State) (sp : Space) (va : Nat) (levels : List Nat) (table : Nat) :
    OnlyMemory s (s.walk1 sp va levels table).1 := by
  induction levels generalizing s table with
  | nil => rfl
  | cons lvl rest ih =>
    have h := onlyMemory_stage2 s sp (table + 8 * (va / levelSize lvl % 512))
    unfold State.walk1
    split
    · next t _ _ ht => rwa [ht] at h
    · next t pa _ _ _ ht =>
      rw [ht] at h
      have k := h.trans (onlyMemory_readEntry t sp false pa va lvl)
      dsimp only
      split
      · exact h
      split
      · exact k
      split
      · exact k
      split
      · exact k
      · exact k.trans (ih _ _)

theorem onlyMemory_translate (s : State) (sp : Space) (va : Word) (k : Access) : OnlyMemory s (s.translate sp va k).1 := by
  have h := onlyMemory_walk1 s sp (va.toNat % 2 ^ 48) [0, 1, 2, 3] sp.root1
  unfold State.translate
  dsimp only
  split
  · exact .refl s
  split
  · next t _ _ ht => rwa [ht] at h
  · next t ipa _ _ _ ht =>
    rw [ht] at h
    have h2 := h.trans (onlyMemory_stage2 t sp ipa)
    split
    · exact h
    split
    · next u _ _ hu => rwa [hu] at h2
    · next u _ _ _ _ hu =>
      rw [hu] at h2
      split <;> exact h2

theorem onlyMemory_windowFault (s : State) (k : Access) (pa : Nat) : OnlyMemory s (s.windowFault? k pa).1 := by
  unfold State.windowFault?
  repeat' split
  all_goals rfl

theorem onlyMemory_fetchBytes (s : State) (g : Group) (pa : Nat) : OnlyMemory s (s.fetchBytes g pa).1 := by
  unfold State.fetchBytes
  refine onlyMemory_foldl s _ _ _ rfl fun r o => ?_
  split <;> rfl

theorem onlyMemory_fetchAt (s : State) (g : Group) (addr : Word) : OnlyMemory s (s.fetchAt g addr).1 := by
  have h := onlyMemory_translate s (s.groupSpace g) addr .fetch
  unfold State.fetchAt
  split
  · next t _ _ ht => rwa [ht] at h
  · next t pa _ _ _ ht =>
    rw [ht] at h
    have h2 := h.trans (onlyMemory_windowFault t .fetch pa)
    split
    · next u _ hu => rwa [hu] at h2
    · next u hu =>
      rw [hu] at h2
      split
      · exact h2
      · exact h2.trans (onlyMemory_fetchBytes u g pa)

theorem onlyMemory_usableEntry (s : State) (g : Group) : OnlyMemory s (s.usableEntry g).1 := by
  have h := onlyMemory_fetchAt s g (bundleOf (s.handlerEntry g))
  unfold State.usableEntry
  dsimp only
  split
  · exact .refl s
  split
  · next t _ ht => rwa [ht] at h
  · next t _ ht => rwa [ht] at h

/-! ### A group trap leaves the mode copies (R77, R329) -/

theorem withdrawGang_grp (s : State) (u v : Nat) : (s.withdrawGang u).grp v = s.grp v := rfl

/-- The fetch of the handler's entry leaves every group, and the trap itself only holds slices and moves those of the path. -/
theorem trapGroup_modes (s t : State) (cause : Nat) (entry : Word) (hi : Issuing s) (hk : s.g.kind ≠ .handler)
    (hd : s.g.hdl.length < 2) (hu : s.usableEntry s.g = (t, some entry)) :
    (s.trapGroup cause).g.slices.map (·.mode) = s.g.slices.map (·.mode) := by
  have h : OnlyMemory s t := by simpa only [hu] using onlyMemory_usableEntry s s.g
  have hg : t.hasGrp s.cur.unit = true := (h.hasGrp _).trans hi
  unfold State.trapGroup State.trapGroupAt
  rw [show s.grp s.cur.unit = s.g from rfl, if_neg hk, if_neg (Nat.not_le.mpr hd), hu]
  dsimp only
  rw [State.spend_g]
  show (State.grp _ t.cur.unit).slices.map _ = _
  rw [h.cur, withdrawGang_grp, State.grp_modGrp_same _ _ _ hg, h.grp]
  · simp only [Group.modPathSlices, Group.modSlices, Group.clearAges, List.map_map]
    refine List.map_congr_left fun x _ => ?_
    simp only [Function.comp_apply]
    split <;> rfl
  · exact fun _ hu => hu

/-! ### Legal values (R73, R74) -/

theorem ofCode_isSome (n : Nat) : (EType.ofCode n).isSome = true ↔ n < 16 ∧ n ≠ 7 := by
  by_cases h : n < 16
  · revert n
    decide
  · obtain ⟨k, rfl⟩ := Nat.exists_eq_add_of_le' (Nat.not_lt.mp h)
    simp [EType.ofCode]

theorem modeLegal_iff (v : Word32) : modeLegal v = true ↔
    bitsOf v.toNat 31 27 = 0 ∧ bitsOf v.toNat 15 13 < 6 ∧ bitsOf v.toNat 12 10 < 5 ∧ bitsOf v.toNat 9 5 < 16 ∧ bitsOf v.toNat 9 5 ≠ 7 := by
  unfold modeLegal modeScope modeEtypeCode
  simp only [Bool.and_eq_true, beq_iff_eq, decide_eq_true_eq, ofCode_isSome, and_assoc]

theorem shapeLegal_iff (v : Word) : shapeLegal v = true ↔ bitsOf v.toNat 63 62 = 0 ∧ bitsOf v.toNat 61 60 ≠ 3 := by
  simp only [shapeLegal, Bool.and_eq_true, beq_iff_eq, bne_iff_ne]

/-! ### The fields that MODEF names (R77) -/

theorem modeField_eq_getD (i : Nat) (h : i < 12) :
    [(0, 3), (3, 1), (4, 1), (5, 5), (10, 3), (13, 3), (16, 1), (17, 1), (18, 1), (19, 1), (20, 4), (24, 3)].getD i (0, 0) = modeField i := by
  revert i
  decide

theorem modeField_width_pos (i : Nat) : 0 < (modeField i).2 := by
  unfold modeField
  split <;> decide

/-- A number with its w bits from lo on replaced, written by its three parts. -/
theorem replaced_eq (n lo w v : Nat) (hw : 0 < w) :
    n - bitsOf n (lo + w - 1) lo * 2 ^ lo + v * 2 ^ lo = 2 ^ lo * (2 ^ w * (n / 2 ^ lo / 2 ^ w) + v) + n % 2 ^ lo := by
  have hparts : 2 ^ lo * (2 ^ w * (n / 2 ^ lo / 2 ^ w)) + 2 ^ lo * (n / 2 ^ lo % 2 ^ w) + n % 2 ^ lo = n := by
    rw [← Nat.mul_add, Nat.div_add_mod, Nat.div_add_mod]
  have hwidth : lo + w - 1 + 1 - lo = w := by omega
  unfold bitsOf
  rw [hwidth, Nat.mul_comm _ (2 ^ lo), Nat.mul_comm v, Nat.mul_add]
  omega

theorem testBit_replaced (n lo w v k : Nat) (hv : v < 2 ^ w) :
    (2 ^ lo * (2 ^ w * (n / 2 ^ lo / 2 ^ w) + v) + n % 2 ^ lo).testBit k =
      if lo ≤ k ∧ k < lo + w then v.testBit (k - lo) else n.testBit k := by
  rw [Nat.testBit_two_pow_mul_add _ (Nat.mod_lt _ (Nat.two_pow_pos lo)), Nat.testBit_two_pow_mul_add _ hv,
    Nat.testBit_mod_two_pow, Nat.testBit_div_two_pow, Nat.testBit_div_two_pow]
  by_cases h1 : k < lo
  · simp [h1, Nat.not_le.mpr h1]
  by_cases h2 : k < lo + w
  · have h3 : k - lo < w := by omega
    simp [h1, h2, h3, Nat.not_lt.mp h1]
  · have h3 : ¬k - lo < w := by omega
    have h4 : k - lo - w + w + lo = k := by omega
    simp [h1, h2, h3, h4]

theorem getLsbD_setModeField (m : Word32) (lo w v k : Nat) (hw : 0 < w) (hv : v < 2 ^ w) (hk : k < 32) :
    (setModeField m lo w v).getLsbD k = if lo ≤ k ∧ k < lo + w then v.testBit (k - lo) else m.getLsbD k := by
  unfold setModeField
  rw [BitVec.getLsbD_ofNat, replaced_eq _ _ _ _ hw, testBit_replaced _ _ _ _ _ hv, decide_eq_true hk, Bool.true_and]
  rfl

theorem toNat_setModeField_zero (lo w v : Nat) (hw : 0 < w) : (setModeField 0 lo w v).toNat = 2 ^ lo * v % 2 ^ 32 := by
  rw [setModeField, BitVec.toNat_ofNat, replaced_eq _ _ _ _ hw]
  simp

/-- Alone in a mode value, a field is legal when R73 allows it there: ETYPE, RND and SCOPE have values that it forbids. -/
theorem modeLegal_setModeField_zero (i v : Nat) (hi : i ≤ 11) (hv : v < 2 ^ (modeField i).2) :
    modeLegal (setModeField 0 (modeField i).1 (modeField i).2 v) = true ↔
      (i = 3 → v < 16 ∧ v ≠ 7) ∧ (i = 4 → v < 5) ∧ (i = 5 → v < 6) := by
  rw [modeLegal_iff, toNat_setModeField_zero _ _ v (modeField_width_pos i)]
  have hcases : i = 0 ∨ i = 1 ∨ i = 2 ∨ i = 3 ∨ i = 4 ∨ i = 5 ∨ i = 6 ∨ i = 7 ∨ i = 8 ∨ i = 9 ∨ i = 10 ∨ i = 11 := by omega
  rcases hcases with rfl | rfl | rfl | rfl | rfl | rfl | rfl | rfl | rfl | rfl | rfl | rfl
  all_goals
    simp only [modeField, bitsOf, Nat.reducePow, Nat.reduceAdd, Nat.reduceSub, Nat.reduceEqDiff, true_implies, false_implies,
      and_true, true_and, iff_true] at hv ⊢
    omega

/-- The values that MODEF accepts for the field of an index. -/
theorem modefLegal_iff (i : BitVec 8) (v : Nat) (hi : i.toNat ≤ 11) :
    (v < 2 ^ (modeField i.toNat).2 ∧ modeLegal (setModeField 0 (modeField i.toNat).1 (modeField i.toNat).2 v) = true) ↔
      v < 2 ^ (modeField i.toNat).2 ∧ (i = 3 → v < 16 ∧ v ≠ 7) ∧ (i = 4 → v < 5) ∧ (i = 5 → v < 6) :=
  and_congr_right fun hv => by
    simp only [← BitVec.toNat_inj]
    exact modeLegal_setModeField_zero i.toNat v hi hv

/-! ### The endings -/

/-- The slices of a path that have a run lane take a new mode value (R73). -/
def modesSet (p : Nat) (f : Word32 → Word32) (xs : List Slice) : List Slice :=
  xs.map fun x => if x.inPath p && x.run != 0 then { x with mode := f x.mode } else x

/-- A group with its slices and its shape records changed. -/
def slicesShapes (f : List Slice → List Slice) (h : Store Word → Store Word) (g : Group) : Group :=
  { g with slices := f g.slices, shapes := h g.shapes }

/-- Such a change commutes with the issue, which leaves both. -/
theorem groupRest_slicesShapes (f : List Slice → List Slice) (h : Store Word → Store Word) (e : Info) (s : State) (g : Group) :
    groupRest (slicesShapes f h (issued e s g)) = groupRest (slicesShapes f h g) := by
  have hrest (k : Group) : groupRest (slicesShapes f h k) = { groupRest k with shapes := h (groupRest k).shapes } := rfl
  rw [hrest, hrest, issued_rest]

theorem spend_zero (s : State) : s.spend 0 = s := rfl

/-- An instruction without a destination whose effect is on slices and shape records. -/
theorem sets_of_done (i : Instr) (s : State) (e : Info) (f : List Slice → List Slice) (h : Store Word → Store Word)
    (hi : Issuing s) (hc : codesOk e)
    (hx : exec i s = .next (((s.consume e).modG (slicesShapes f h)).done (s.operands e))) : Sets i s e (slicesShapes f h) := by
  rw [← spend_zero (s.consume e)] at hx
  have hslices : (slicesShapes f h (issued e s s.g)).slices = (slicesShapes f h s.g).slices := congrArg f (issued_slices e s s.g)
  obtain ⟨ha, hs, -⟩ := done_spec s _ e 0 (slicesShapes f h) none [] hi hc rfl
    (hu := fun _ => rfl) (hp := fun _ => rfl) (ha := fun _ => rfl) (hv := fun _ => rfl) (hregs := fun _ _ _ _ _ => rfl)
    (hstates := fun _ _ _ _ => rfl) (hpreds := fun _ _ _ => rfl) (hcaches := fun _ _ _ => ⟨rfl, rfl⟩)
    (slicesShapes f h) hslices rfl (groupRest_slicesShapes f h e s s.g)
  exact ⟨_, hx, ha, hs⟩

theorem setModes_eq (s : State) (f : Word32 → Word32) :
    s.setModes f = s.modG (slicesShapes (modesSet s.cur.path f) id) := by
  unfold State.setModes slicesShapes modesSet Group.modPathSlices Group.modSlices
  congr 1
  funext g
  congr 2
  funext x
  by_cases hp : x.inPath s.cur.path
  · by_cases hr : x.run = 0 <;> simp [hp, hr]
  · simp [hp]

/-- An instruction that sets the mode copies of its path. -/
theorem sets_of_setModes (i : Instr) (s : State) (e : Info) (f : Word32 → Word32) (hi : Issuing s) (hc : codesOk e)
    (hx : exec i s = .next (((s.consume e).setModes f).done (s.operands e))) :
    Sets i s e (slicesShapes (modesSet s.cur.path f) id) :=
  sets_of_done i s e (modesSet s.cur.path f) id hi hc (by rw [hx, setModes_eq]; rfl)

theorem exec_mode (a : Opnd) (s : State) (hr : ready (infoMode a) s = true) :
    exec (.mode a) s = .next (
      if modeLegal ((argA (infoMode a) s 0).setWidth 32) then
        ((s.consume (infoMode a)).setModes fun _ => (argA (infoMode a) s 0).setWidth 32).done (s.operands (infoMode a))
      else s.trapGroup 0x09) :=
  run_of_ready _ s _ hr

theorem exec_modef (a : Opnd) (i : BitVec 8) (s : State) (hr : ready (infoModef a i) s = true) :
    exec (.modef a i) s = .next (
      let f := modeField i.toNat
      let v := (argA (infoModef a i) s 0).toNat
      if v < 2 ^ f.2 ∧ modeLegal (setModeField 0 f.1 f.2 v) then
        ((s.consume (infoModef a i)).setModes fun m => setModeField m f.1 f.2 v).done (s.operands (infoModef a i))
      else s.trapGroup 0x09) :=
  run_of_ready _ s _ hr

theorem exec_shape (h : Fin 8) (a : Opnd) (s : State) (hr : ready (infoShape h a) s = true) :
    exec (.shape h a) s = .next (
      if shapeLegal (argA (infoShape h a) s 0) then
        ((s.consume (infoShape h a)).modG fun g => { g with shapes := Store.set g.shapes h (argA (infoShape h a) s 0) }).done
          (s.operands (infoShape h a))
      else s.trapGroup 0x09) :=
  run_of_ready _ s _ hr

/-- An instruction that traps where its value is illegal. -/
theorem ite_of_exec {i : Instr} {s t u : State} {legal c P : Prop} [Decidable legal] [Decidable c]
    (hx : exec i s = .next (if legal then t else u)) (hc : legal ↔ c) (h : c → exec i s = .next t → P) :
    if c then P else exec i s = .next u := by
  split
  · next hv => exact h hv (by rw [hx, if_pos (hc.mpr hv)])
  · next hv => rw [hx, if_neg (mt hc.mp hv)]

theorem lawful_of_ready (e : Info) (s : State) (h : ready e s = true) : lawful e s = true := by
  unfold ready at h
  simp only [Bool.and_eq_true] at h
  obtain ⟨⟨⟨⟨⟨-, hl⟩, -⟩, -⟩, -⟩, -⟩ := h
  exact hl

theorem lawful_infoModef_le (a : Opnd) (i : BitVec 8) (s : State) (h : lawful (infoModef a i) s = true) : i.toNat ≤ 11 := by
  unfold lawful infoModef Instr.wf at h
  simp only [Bool.and_eq_true, decide_eq_true_eq] at h
  obtain ⟨-, -, hle⟩ := h
  exact hle

/-- An index that names no field is an ILLEGAL condition of MODEF's entry, which comes before any wait (R37, R77). -/
theorem exec_modef_of_no_field (a : Opnd) (i : BitVec 8) (s : State) (h : 11 < i.toNat) :
    exec (.modef a i) s = .next (s.trapGroup 0x09) := by
  have hp : permitted (infoModef a i) s = true := by
    simp [permitted, infoModef, privileged]
  have hl : lawful (infoModef a i) s = false :=
    Bool.eq_false_iff.mpr fun hl => Nat.not_le.mpr h (lawful_infoModef_le a i s hl)
  show run (infoModef a i) s _ = _
  unfold run
  rw [enter_of_not_lawful _ s hp hl]

/-! ### The obligation -/

/-- Settles O17: each of the three instructions executes by one test, which is the statement's condition on its source value. -/
theorem modeAndShape : Obligations.ModeAndShape := by
  intro a i h s hi
  refine ⟨?mode, ?modef, exec_modef_of_no_field a i s, ?kept, ?shape⟩
  case mode =>
    exact runs_intro _ s _ _ rfl fun hr => ite_of_exec (exec_mode a s hr) (modeLegal_iff _) fun _ hx =>
      sets_of_setModes _ s _ _ hi (codesOk_nil _ rfl rfl rfl) hx
  case modef =>
    refine runs_intro _ s _ _ rfl fun hr => ?_
    have hindex := lawful_infoModef_le a i s (lawful_of_ready _ s hr)
    dsimp only
    rw [modeField_eq_getD _ (Nat.lt_succ_of_le hindex)]
    exact ite_of_exec (exec_modef a i s hr) (modefLegal_iff i _ hindex) fun hv hx =>
      ⟨_, sets_of_setModes _ s _ _ hi (codesOk_nil _ rfl rfl rfl) hx,
        fun m k hk => getLsbD_setModeField m _ _ _ k (modeField_width_pos _) hv.1 hk⟩
  case kept => exact fun hk hd t entry hu => trapGroup_modes s t 0x09 entry hi hk hd hu
  case shape =>
    exact runs_intro _ s _ _ rfl fun hr => ite_of_exec (exec_shape h a s hr) (shapeLegal_iff _) fun _ hx =>
      sets_of_done _ s _ id (fun m => Store.set m h _) hi (codesOk_nil _ rfl rfl rfl) hx

end Sys2Proof.Proofs
